-- ==== Sys2Proof/Word.lean ====
section
/-! DEFINITION. The word types of the machine (00 R4): byte, word, dword, slot, row mask. -/

namespace Sys2Proof

/-- 8 bits. -/
abbrev Byte := BitVec 8
/-- 32 bits. -/
abbrev Word := BitVec 32
/-- 64 bits. -/
abbrev DWord := BitVec 64
/-- One 96-bit instruction slot (R33). -/
abbrev Slot := BitVec 96
/-- One bit for each of a team's 1,024 possible rows: row r is bit r (R73). -/
abbrev RowMask := BitVec 1024

/-- One register element with its poison bit (R68, R201). -/
structure Elem where
  bits : Word
  poison : Bool
  deriving DecidableEq, Repr

/-- The zero, clean element. -/
def Elem.zero : Elem := ⟨0, false⟩
/-- A clean element. -/
def Elem.clean (w : Word) : Elem := ⟨w, false⟩

end Sys2Proof
end

