-- ==== Sys2Proof/Config.lean ====
section
/-! DEFINITION. What is fixed for the KSL-8512 (R1) and the FREE VALUES: opaque constants without a body that stand for every value the spec leaves open (assumption log 6). -/

namespace Sys2Proof.Config

/-- Compute dies (R1). -/
abbrev dies : Nat := 8
/-- Clusters in the module (R1). -/
abbrev clusters : Nat := 128
/-- Cores in the module (R1). -/
abbrev cores : Nat := 512
/-- Rows per sweep group, SWIDTH (R1, R72). -/
abbrev swidth : Nat := 32
/-- Hardware queues (R1). -/
abbrev queues : Nat := 4096
/-- Bytes of one page (R173). -/
abbrev pageBytes : Nat := 65536
/-- log2 of the bytes of one stack: 64 GiB (R1). -/
abbrev stackLog : Nat := 36

/-- FREE VALUE: the n-th value that the spec leaves open; each use draws the state's next n. -/
opaque freeWord : Nat → BitVec 64
/-- FREE VALUE: the result of an approximate operation (R145) within its bound: how far, in units of the last place, the n-th kind of operation on these operand bits lies from the correctly rounded result. The same operand gives the same bits on every core and run (R145). -/
opaque approxResult : Nat → BitVec 32 → BitVec 32
/-- FREE VALUE: the check code of a capability under the device secret (R278). -/
opaque capCheck : BitVec 48 → BitVec 16
/-- FREE VALUE: byte i of the check word and opaque body of a saved part (R257, R317). -/
opaque saveByte : Nat → Nat → BitVec 8
/-- FREE VALUE: byte i of the signature over a report or measurement (R321, R369). -/
opaque signByte : List (BitVec 8) → Nat → BitVec 8
/-- FREE VALUE: the firmware's energy table (R320): millijoules estimated for some events of a kind, which are those of the other meters. -/
opaque energyOf : Nat → Nat → Nat
/-- FREE VALUE: the page-table entry that a walk reads over the bus from an aperture page, by the count of free values used and the address (R173, R361). -/
opaque busEntry : Nat → Nat → BitVec 64
/-- FREE VALUE: whether a bus address leads over a Flaesque link to a peer device rather than over PCI Express to the host (R361, R363): the spec gives the fabric's address map nowhere. -/
opaque peerAddress : Nat → Bool
/-- FREE VALUE: byte i of a figure the spec names but does not give (stepping, serial, firmware digest, energy table version). -/
opaque identityByte : Nat → BitVec 8

end Sys2Proof.Config
end

