-- ==== Sys2Proof/Syntax.lean ====
section
/-! DEFINITION. The instructions and device events of the KSL-8512: one constructor for each of the 249 rows of spec/opcode_table.json. The fields of a team instruction are those of its format (03 R38-R49); a device event carries the unit it concerns, the data that comes from outside the device, and the choices the spec leaves to the device. -/

namespace Sys2Proof

/-- PRD or COND of R38, R45: negate, kind (team predicate or row predicate) and index; index 7 reads true. -/
structure Prd where
  neg : Bool
  team : Bool
  index : BitVec 3
  deriving DecidableEq, Repr

/-- TY of a V instruction (R41, R135). -/
inductive VTy where
  | i32 | n32 | f32 | f16x2 | bf16x2 | i16x2 | i8x4 | fmt
  deriving DecidableEq, Repr

/-- TY of an S instruction (R43); codes 5 to 7 are reserved. -/
inductive STy where
  | i32 | n32 | f32 | i64 | n64
  deriving DecidableEq, Repr

/-- WIDTH of an M instruction (R44). -/
inductive Width where
  | b8 | b16 | b32 | b64 | b128
  deriving DecidableEq, Repr

/-- SCOPE of an M instruction or a fence (R9, R44). -/
inductive Scope where
  | team | bed | plot | field | estate | sys
  deriving DecidableEq, Repr

/-- ORDER of an M instruction (R44). -/
inductive Order where
  | rlx | acq | rel | ar
  deriving DecidableEq, Repr

/-- SPACE of an M instruction (R44, R160). -/
inductive Space where
  | global | scratchpad | constant | fifo
  deriving DecidableEq, Repr

/-- The V format (R41). -/
structure VForm where
  stl : BitVec 4
  prd : Prd
  d : BitVec 8
  a : BitVec 8
  b : BitVec 8
  c : BitVec 8
  eh : BitVec 4
  ew : BitVec 4
  ty : VTy
  ib : Bool
  ba : Bool
  sub : BitVec 2
  imm : Word
  deriving DecidableEq, Repr

/-- The S format (R43). PRD.kind is 1. -/
structure SForm where
  stl : BitVec 4
  neg : Bool
  pq : BitVec 3
  d : BitVec 10
  a : BitVec 10
  b : BitVec 10
  ty : STy
  ib : Bool
  sub : BitVec 2
  imm : Word
  deriving DecidableEq, Repr

/-- The M format (R44). -/
structure MForm where
  stl : BitVec 4
  prd : Prd
  data : BitVec 8
  base : BitVec 10
  index : BitVec 8
  width : Width
  scope : Scope
  order : Order
  space : Space
  qual : BitVec 4
  off : Word
  deriving DecidableEq, Repr

/-- The B format (R45). PRD.kind is 1. -/
structure BForm where
  stl : BitVec 4
  neg : Bool
  pq : BitVec 3
  cond : Prd
  scalar : BitVec 10
  disp : BitVec 24
  slot : BitVec 3
  imm : Word
  deriving DecidableEq, Repr

/-- The E format (R46). PRD.kind is 1. -/
structure EForm where
  stl : BitVec 4
  neg : Bool
  pq : BitVec 3
  rbase : BitVec 10
  vop : BitVec 8
  sel : BitVec 5
  rv : BitVec 5
  mod8 : BitVec 8
  imm : Word
  deriving DecidableEq, Repr

/-- The Y format (R47): the S positions, TY kept as its three bits. PRD.kind is 1. -/
structure YForm where
  stl : BitVec 4
  neg : Bool
  pq : BitVec 3
  d : BitVec 10
  a : BitVec 10
  b : BitVec 10
  ty : BitVec 3
  ib : Bool
  sub : BitVec 2
  imm : Word
  deriving DecidableEq, Repr

/-- One half of a paired word (R48). -/
structure Half where
  sop : BitVec 6
  stl : BitVec 4
  psel : BitVec 2
  d : BitVec 8
  a : BitVec 8
  b : BitVec 8
  hc : BitVec 2
  wc : BitVec 2
  ty : VTy
  ba : Bool
  sub : BitVec 2
  deriving DecidableEq, Repr

/-- A paired word: half 0 left of the bars, half 1 right of them (R48). -/
structure PairForm where
  h0 : Half
  h1 : Half
  deriving DecidableEq, Repr

/-- An event of the whole device. -/
structure NoArg where
  deriving DecidableEq, Repr
/-- An event of one quadrant of one core. -/
structure QuadArg where
  core : Nat
  quad : Nat
  deriving DecidableEq, Repr
/-- An event of one team, named by its identity in the model. -/
structure TeamArg where
  tid : Nat
  deriving DecidableEq, Repr
/-- FETCH_LINE: the team whose line is fetched, and whether the first read of the line comes back with a parity error that memory does not hold (R35). -/
structure FetchArg where
  tid : Nat
  softError : Bool
  deriving DecidableEq, Repr
/-- MONITOR_WAKE: the team, and whether the event is the loss of the watch entry (R187, cause 1). -/
structure WakeArg where
  tid : Nat
  evict : Bool
  deriving DecidableEq, Repr
/-- A placement: the launch or plot, the cluster, a distinct core for each bed and a quadrant for each team (the device's choice, R273). -/
structure PlaceArg where
  what : Nat
  cluster : Nat
  cores : List Nat
  quads : List Nat
  deriving DecidableEq, Repr
/-- An event of one hardware queue. -/
structure QueueArg where
  queue : Nat
  deriving DecidableEq, Repr
/-- An event of one launch. -/
structure LaunchArg where
  launch : Nat
  deriving DecidableEq, Repr
/-- OPERATION_RETIRE: the team and the engine class 0 to 3 (R18). -/
structure OpArg where
  tid : Nat
  cls : Nat
  deriving DecidableEq, Repr
/-- An event of one streamer channel of one core. -/
structure ChanArg where
  core : Nat
  chan : Nat
  deriving DecidableEq, Repr
/-- An event of one plot, named by its identity in the model. -/
structure PlotArg where
  plot : Nat
  deriving DecidableEq, Repr
/-- An event of one core. -/
structure CoreArg where
  core : Nat
  deriving DecidableEq, Repr
/-- An event of one cluster. -/
structure ClusterArg where
  cluster : Nat
  deriving DecidableEq, Repr
/-- An event of one die. -/
structure DieArg where
  die : Nat
  deriving DecidableEq, Repr
/-- TILE_CLOSE: the die and the tile's key (R345). -/
structure TileArg where
  die : Nat
  tile : Nat
  deriving DecidableEq, Repr
/-- QPUT_TARGET: with remote set, a peer has acted on the oldest QPUT this device sent and answers with a status; otherwise a peer's QPUT arrives here (R292). Either comes in over a port of a die (R363). -/
structure QputArg where
  die : Nat
  port : Nat
  remote : Bool
  cap : DWord
  dest : DWord
  data : List Byte
  sender : Byte
  code : Byte
  offset : BitVec 16
  deriving DecidableEq, Repr
/-- TABLE_FIRING: the entry of the time-triggered table (R287). -/
structure EntryArg where
  entry : Nat
  deriving DecidableEq, Repr
/-- RECALL, RECALL_END: the core, the borrower's slot and the owner's slot (R315). -/
structure RecallArg where
  core : Nat
  slot : Nat
  owner : Nat
  deriving DecidableEq, Repr
/-- CORE_SLOT_WRITE (R299). -/
structure CoreSlotArg where
  core : Nat
  slot : Nat
  words : List Word
  deriving DecidableEq, Repr
/-- BANK_OWNER_WRITE (R301). -/
structure BankArg where
  cluster : Nat
  bank : Nat
  value : Word
  deriving DecidableEq, Repr
/-- CLUSTER_SLOT_WRITE (R301). -/
structure ClusterSlotArg where
  cluster : Nat
  slot : Nat
  words : List Word
  deriving DecidableEq, Repr
/-- ROT_OWNER_CHANGE: the physical page number and the entry written (R303, R304). -/
structure RotArg where
  page : Nat
  entry : BitVec 16
  deriving DecidableEq, Repr
/-- FIREWALL_WRITE (R364). -/
structure FirewallArg where
  die : Nat
  value : Word
  deriving DecidableEq, Repr
/-- APERTURE_WINDOW_WRITE (R361). -/
structure WindowArg where
  domain : Nat
  window : Nat
  words : List Word
  deriving DecidableEq, Repr

/-- The management settings that have no event of their own (R277, R279, R286, R302, R305, R356, R362, R173). -/
inductive MgmtReg where
  | tableRoot (domain : Nat)
  | ownerWeight (domain : Nat)
  | bar2Base (domain : Nat)
  | bar2Size (domain : Nat)
  | bar2Admit (domain : Nat)
  | bindQdb (domain : Nat) (slot : Nat)
  | queueConfig (queue : Nat) (word : Nat)
  | tableEntry (entry : Nat) (word : Nat)
  | gateEntry (gate : Nat) (word : Nat)
  | mailbox (fn : Nat) (offset : Nat)
  | readOnly (address : Nat)
  deriving DecidableEq, Repr
/-- MGMT_REGISTER_WRITE (R6). -/
structure MgmtArg where
  reg : MgmtReg
  value : DWord
  deriving DecidableEq, Repr
/-- One command of a mailbox ring as the engine reads it from host memory (R357), with the host bytes that it will read. -/
structure HostCmd where
  op : BitVec 16
  flags : BitVec 16
  len : Word
  haddr : DWord
  daddr : DWord
  aux : DWord
  zeroOk : Bool
  hostBytes : List Byte
  deriving DecidableEq, Repr
/-- A ring entry as it stands in host memory: its 64 bytes, and the bytes at HADDR that the command reads (R357). -/
structure MbEntry where
  bytes : List Byte
  hostBytes : List Byte
  deriving DecidableEq, Repr
/-- MBPROD_WRITE: the function, the producer index written, and the ring entries it publishes (R356, R358). -/
structure MbprodArg where
  fn : Nat
  value : Word
  entries : List MbEntry
  deriving DecidableEq, Repr
/-- QDB_WRITE (R356, R359). -/
structure QdbArg where
  fn : Nat
  q : Nat
  value : Word
  deriving DecidableEq, Repr
/-- An event of one PCI Express function, which serves the domain of the same number (R354). -/
structure FnArg where
  fn : Nat
  deriving DecidableEq, Repr
/-- BAR2_INBOUND (R362). -/
structure Bar2Arg where
  fn : Nat
  requester : BitVec 16
  offset : Nat
  write : Bool
  data : List Byte
  len : Nat
  deriving DecidableEq, Repr
/-- A Flaesque port of a die (R363). -/
structure PortArg where
  die : Nat
  port : Nat
  deriving DecidableEq, Repr
/-- COLD_RESET: whether the firmware's signature verifies (R366). -/
structure BootArg where
  signatureOk : Bool
  deriving DecidableEq, Repr
/-- GET_MEASUREMENTS (R369). -/
structure MeasArg where
  fn : Nat
  index : Nat
  nonce : List Byte
  deriving DecidableEq, Repr
/-- REMOTE_COPY_WRITE: a peer's write arriving over a port, for a domain's address (R363). -/
structure RemoteArg where
  die : Nat
  port : Nat
  domain : Nat
  priv : Bool
  va : DWord
  data : List Byte
  deriving DecidableEq, Repr
/-- PRECISION_TIME_MEASUREMENT: the host time measured, in nanoseconds (R131). -/
structure PtmArg where
  hostNs : Nat
  deriving DecidableEq, Repr
/-- CONFIGURATION_REQUEST (R366). -/
structure ConfigArg where
  fn : Nat
  offset : Nat
  deriving DecidableEq, Repr
/-- HALT_REQUEST: the domain whose driver asks (R195). -/
structure DomainArg where
  domain : Nat
  deriving DecidableEq, Repr
/-- ALGORITHM_NEGOTIATION: the algorithms the requester offers (R369). -/
structure AlgArg where
  fn : Nat
  falcon : Bool
  shake : Bool
  deriving DecidableEq, Repr

/-- One constructor for each row of spec/opcode_table.json. -/
inductive Instr where
  | vadd (f : VForm)
  | vsub (f : VForm)
  | vmul (f : VForm)
  | vmulh (f : VForm)
  | vmad (f : VForm)
  | vmin (f : VForm)
  | vmax (f : VForm)
  | vand (f : VForm)
  | vor (f : VForm)
  | vxor (f : VForm)
  | vandn (f : VForm)
  | vshl (f : VForm)
  | vshr (f : VForm)
  | vsra (f : VForm)
  | vrot (f : VForm)
  | vclz (f : VForm)
  | vpop (f : VForm)
  | vbrev (f : VForm)
  | vbfx (f : VForm)
  | vbfi (f : VForm)
  | vsel (f : VForm)
  | vmov (f : VForm)
  | vcmp (f : VForm)
  | vlop3 (f : VForm)
  | vidx (f : VForm)
  | vdot4 (f : VForm)
  | fadd (f : VForm)
  | fsub (f : VForm)
  | fmul (f : VForm)
  | fma (f : VForm)
  | fmin (f : VForm)
  | fmax (f : VForm)
  | fcmp (f : VForm)
  | fclass (f : VForm)
  | frcp (f : VForm)
  | frsq (f : VForm)
  | fsqrt (f : VForm)
  | fdiv (f : VForm)
  | fex2 (f : VForm)
  | flg2 (f : VForm)
  | fsin (f : VForm)
  | fcos (f : VForm)
  | ftnh (f : VForm)
  | frnd (f : VForm)
  | cvt (f : VForm)
  | fscl (f : VForm)
  | fdot2 (f : VForm)
  | qblk (f : VForm)
  | dqblk (f : VForm)
  | shfl (f : VForm)
  | vstep (f : VForm)
  | ballot (f : VForm)
  | vote (f : VForm)
  | matchRows (f : VForm)
  | pfx (f : VForm)
  | spack (f : VForm)
  | spexp (f : VForm)
  | vsort (f : VForm)
  | bsrch (f : VForm)
  | pairedWord (f : PairForm)
  | sadd (f : SForm)
  | ssub (f : SForm)
  | smul (f : SForm)
  | smulh (f : SForm)
  | smad (f : SForm)
  | sdiv (f : SForm)
  | srem (f : SForm)
  | sand (f : SForm)
  | sor (f : SForm)
  | sxor (f : SForm)
  | sshl (f : SForm)
  | sshr (f : SForm)
  | ssra (f : SForm)
  | smin (f : SForm)
  | smax (f : SForm)
  | sclz (f : SForm)
  | spop (f : SForm)
  | sbfx (f : SForm)
  | sbfi (f : SForm)
  | ssel (f : SForm)
  | smov (f : SForm)
  | scmp (f : SForm)
  | saddx (f : SForm)
  | smadx (f : SForm)
  | srdv (f : SForm)
  | swrv (f : SForm)
  | sfadd (f : SForm)
  | sfma (f : SForm)
  | sfcmp (f : SForm)
  | scvt (f : SForm)
  | ld (f : MForm)
  | st (f : MForm)
  | lds (f : MForm)
  | sts (f : MForm)
  | ldp (f : MForm)
  | stp (f : MForm)
  | ldc (f : MForm)
  | atom (f : MForm)
  | cas (f : MForm)
  | atomagg (f : MForm)
  | ldf (f : MForm)
  | stf (f : MForm)
  | pref (f : MForm)
  | marm (f : MForm)
  | mwait (f : MForm)
  | cline (f : MForm)
  | bra (f : BForm)
  | brc (f : BForm)
  | brd (f : BForm)
  | rcv (f : BForm)
  | loop (f : BForm)
  | call (f : BForm)
  | ret (f : BForm)
  | calli (f : BForm)
  | exit (f : BForm)
  | trap (f : BForm)
  | hret (f : BForm)
  | yield (f : BForm)
  | nop (f : BForm)
  | cgate (f : BForm)
  | cgret (f : BForm)
  | cpy (f : EForm)
  | cpyg (f : EForm)
  | cpys (f : EForm)
  | cpyf (f : EForm)
  | wmrd (f : EForm)
  | cpyc (f : EForm)
  | cpym (f : EForm)
  | chst (f : EForm)
  | mloop (f : EForm)
  | mzero (f : EForm)
  | mst (f : EForm)
  | mlda (f : EForm)
  | mstat (f : EForm)
  | mqset (f : EForm)
  | mrel (f : EForm)
  | macq (f : EForm)
  | group (f : EForm)
  | join (f : EForm)
  | route (f : EForm)
  | combn (f : EForm)
  | gstat (f : EForm)
  | spawn (f : EForm)
  | qenq (f : EForm)
  | qdeq (f : EForm)
  | qstl (f : EForm)
  | qput (f : EForm)
  | dcnt (f : EForm)
  | govst (f : EForm)
  | fence (f : YForm)
  | waitc (f : YForm)
  | tryw (f : YForm)
  | rvinit (f : YForm)
  | rvarr (f : YForm)
  | rvwait (f : YForm)
  | setfmt (f : YForm)
  | rdsr (f : YForm)
  | wrsr (f : YForm)
  | carve (f : YForm)
  | tlbi (f : YForm)
  | cctl (f : YForm)
  | clk (f : YForm)
  | rng (f : YForm)
  | halt (f : YForm)
  | bkpt (f : YForm)
  | issueSelection (x : QuadArg)
  | fetchLine (x : FetchArg)
  | plotPlacement (x : PlaceArg)
  | launchDraw (x : QueueArg)
  | teamFree (x : TeamArg)
  | completionRecord (x : LaunchArg)
  | depWaitRelease (x : LaunchArg)
  | operationRetire (x : OpArg)
  | asyncFaultReport (x : NoArg)
  | trapEntry (x : TeamArg)
  | watermarkRelease (x : TeamArg)
  | fullEmptyRelease (x : TeamArg)
  | scoreboardRelease (x : TeamArg)
  | copyStart (x : ChanArg)
  | copyElementLand (x : ChanArg)
  | copyComplete (x : ChanArg)
  | poisonMarks (x : ChanArg)
  | channelQuiesce (x : PlotArg)
  | rvwaitRelease (x : TeamArg)
  | trywTimeout (x : TeamArg)
  | monitorWake (x : WakeArg)
  | mwaitTimeout (x : TeamArg)
  | spuriousWake (x : TeamArg)
  | matrixGrant (x : CoreArg)
  | matrixLeaseExpiry (x : CoreArg)
  | matrixCommandStart (x : CoreArg)
  | matrixKStep (x : CoreArg)
  | matrixCommandComplete (x : CoreArg)
  | matrixFreeze (x : CoreArg)
  | matrixScanOut (x : CoreArg)
  | matrixScanIn (x : CoreArg)
  | instanceComplete (x : ClusterArg)
  | graftApplication (x : TeamArg)
  | spillRingWrite (x : ClusterArg)
  | ingressSelect (x : DieArg)
  | tileClose (x : TileArg)
  | tileStatusWrite (x : LaunchArg)
  | spawnIntake (x : PlaceArg)
  | queueOperation (x : NoArg)
  | storeRefill (x : QueueArg)
  | qputTarget (x : QputArg)
  | stageEvaluation (x : PlotArg)
  | tableFiring (x : EntryArg)
  | preemptDecision (x : PlotArg)
  | drainTimeout (x : PlotArg)
  | plotSave (x : PlotArg)
  | plotRestore (x : PlaceArg)
  | sliceEnd (x : CoreArg)
  | sliceStart (x : CoreArg)
  | recall (x : RecallArg)
  | recallEnd (x : RecallArg)
  | gateBudgetExpiry (x : TeamArg)
  | meterFold (x : CoreArg)
  | droop (x : DieArg)
  | droopRecovery (x : DieArg)
  | coreSlotWrite (x : CoreSlotArg)
  | bankOwnerWrite (x : BankArg)
  | clusterSlotWrite (x : ClusterSlotArg)
  | rotOwnerChange (x : RotArg)
  | firewallWrite (x : FirewallArg)
  | apertureWindowWrite (x : WindowArg)
  | mgmtRegisterWrite (x : MgmtArg)
  | mbprodWrite (x : MbprodArg)
  | qdbWrite (x : QdbArg)
  | write (x : FnArg)
  | read (x : FnArg)
  | fill (x : FnArg)
  | meters (x : FnArg)
  | report (x : FnArg)
  | resume (x : FnArg)
  | mgmtwr (x : FnArg)
  | mgmtrd (x : FnArg)
  | bar2Inbound (x : Bar2Arg)
  | linkFailure (x : PortArg)
  | coldReset (x : BootArg)
  | functionLevelReset (x : FnArg)
  | getMeasurements (x : MeasArg)
  | keyExchange (x : FnArg)
  | linkRecovery (x : PortArg)
  | remoteCopyWrite (x : RemoteArg)
  | precisionTimeMeasurement (x : PtmArg)
  | configurationRequest (x : ConfigArg)
  | haltRequest (x : DomainArg)
  | algorithmNegotiation (x : AlgArg)
  deriving DecidableEq, Repr

end Sys2Proof
end

