-- ==== Sys2Proof/WellFormed.lean ====
section
/-! DEFINITION. The static checks: what makes an instruction illegal whatever the team's footprint and state (R39, R42, R49, R50, R100, R104, R115, R136, R179, R231, R258, R288, R327, R349). A failed check is an illegal-instruction fault (0x01), named by its reason. -/

namespace Sys2Proof

/-- Why a word is not a legal instruction. -/
inductive Reject where
  | unassignedOp
  | predicateKind
  | reservedBits
  | reservedType
  | reservedCode
  | typeNotAllowed
  | subNotAllowed
  | blockNotAllowed
  | broadcastNotAllowed
  | immediateNotAllowed
  | fieldCombination
  | unusedField
  | notPairable
  | pairExtents
  | pairReads
  | pairBanks
  | pairDestinations
  | pairTranscendental
  | entryLength
  deriving DecidableEq, Repr

/-- Reject for the reason when the condition holds. -/
def reject (bad : Bool) (r : Reject) : Option Reject := if bad then some r else none
/-- The first of two checks that rejects. -/
def first (a b : Option Reject) : Option Reject := match a with
  | some r => some r
  | none => b

/-- What R136 and a V mnemonic's own table allow: types, number of SUB codes, blocks, BA, number of register sources, IB. -/
structure VSpec where
  tys : List VTy
  subs : Nat
  block : Bool
  ba : Bool
  srcs : Nat
  ib : Bool
  deriving DecidableEq, Repr

/-- Integer lane types and the per-FMT type (R140). -/
def intTys : List VTy := [.i32, .n32, .i16x2, .i8x4, .fmt]
/-- Integer lane types (R140). -/
def laneTys : List VTy := [.i32, .n32, .i16x2, .i8x4]
/-- Whole-word integer types (R140). -/
def wordTys : List VTy := [.i32, .n32]
/-- Float lane types and the per-FMT type (R143). -/
def floatTys : List VTy := [.f32, .f16x2, .bf16x2, .fmt]
/-- Float lane types (R143). -/
def plainFloatTys : List VTy := [.f32, .f16x2, .bf16x2]
/-- Key types of the cross-row instructions (R151-R157). -/
def keyTys : List VTy := [.i32, .n32, .f32]

/-- A V instruction against its specification (R41, R42, R136). -/
def checkV (sp : VSpec) (f : VForm) : Option Reject :=
  first (reject (!sp.tys.contains f.ty) .typeNotAllowed) <|
  first (reject (sp.subs ≤ f.sub.toNat) .subNotAllowed) <|
  first (reject (!sp.block && (f.eh != 0 || f.ew != 0)) .blockNotAllowed) <|
  first (reject (!sp.ba && f.ba) .broadcastNotAllowed) <|
  first (reject (f.ib && (!sp.ib || f.b != 0)) .immediateNotAllowed) <|
  first (reject (!f.ib && f.imm != 0) .unusedField) <|
  first (reject (sp.srcs < 3 && f.c != 0) .unusedField) <|
  first (reject (sp.srcs < 2 && f.b != 0) .unusedField) <|
  reject (sp.srcs < 1 && f.a != 0) .unusedField

/-- VLOP3: IB = 1 with B kept, table in IMM32[7:0] (R42, R141). -/
def checkVlop3 (f : VForm) : Option Reject :=
  first (reject (f.ty != .i32) .typeNotAllowed) <|
  first (reject (f.sub != 0) .subNotAllowed) <|
  first (reject (!f.ib) .immediateNotAllowed) <|
  reject (f.imm.extractLsb' 8 24 != 0) .unusedField

/-- CVT: with TY 0, C holds two type codes below 13; with TY 7, C is 0 (R146). -/
def checkCvt (f : VForm) : Option Reject :=
  first (checkV ⟨[.i32, .fmt], 4, true, true, 3, false⟩ f) <|
  first (reject (f.b != 0) .unusedField) <|
  first (reject (f.ty == .fmt && f.c != 0) .unusedField) <|
  reject (f.ty == .i32 && (13 ≤ f.c.extractLsb' 4 4 || 13 ≤ f.c.extractLsb' 0 4)) .reservedCode

/-- What R101 allows an S mnemonic. -/
structure SSpec where
  tys : List STy
  subs : Nat
  hasA : Bool
  hasB : Bool
  ib : Bool
  deriving DecidableEq, Repr

/-- The integer types of the S format. -/
def sIntTys : List STy := [.i32, .n32, .i64, .n64]
/-- Every type of the S format. -/
def sAllTys : List STy := [.i32, .n32, .f32, .i64, .n64]

/-- An S instruction against its specification (R43, R100). -/
def checkS (sp : SSpec) (f : SForm) : Option Reject :=
  first (reject (!sp.tys.contains f.ty) .typeNotAllowed) <|
  first (reject (sp.subs ≤ f.sub.toNat) .subNotAllowed) <|
  first (reject (f.ib && (!sp.ib || f.b != 0)) .immediateNotAllowed) <|
  first (reject (!f.ib && f.imm != 0) .unusedField) <|
  first (reject (!sp.hasB && f.b != 0) .unusedField) <|
  reject (!sp.hasA && f.a != 0) .unusedField

/-- SMOV: with IB = 1 the source is IMM32 and A is 0 (R100). -/
def checkSmov (f : SForm) : Option Reject :=
  first (reject (f.sub != 0) .subNotAllowed) <|
  first (reject (f.b != 0) .unusedField) <|
  reject (if f.ib then f.a != 0 else f.imm != 0) .unusedField

/-- Relaxed or acquire. -/
def rlxAcq : List Order := [.rlx, .acq]
/-- Relaxed or release. -/
def rlxRel : List Order := [.rlx, .rel]

/-- A load or store against its row of R179: spaces, orders, free scope, number of QUAL codes, index allowed, any width. -/
def checkM (spaces : List Space) (orders : List Order) (anyScope : Bool) (quals : Nat) (index : Bool) (anyWidth : Bool)
    (f : MForm) : Option Reject :=
  first (reject (!spaces.contains f.space) .fieldCombination) <|
  first (reject (!orders.contains f.order) .fieldCombination) <|
  first (reject (!anyScope && f.scope != .bed) .fieldCombination) <|
  first (reject (quals ≤ f.qual.toNat) .fieldCombination) <|
  first (reject (!index && f.index != 0xFF) .fieldCombination) <|
  reject (!anyWidth && f.width != .b8) .fieldCombination

/-- ATOM, CAS and ATOMAGG: b32 or b64, and the QUAL codes of R181 and R182. -/
def checkAtom (quals : Nat) (f : MForm) : Option Reject :=
  first (reject (!(f.space == .global || f.space == .scratchpad)) .fieldCombination) <|
  first (reject (quals ≤ f.qual.toNat) .fieldCombination) <|
  first (reject (!(f.width == .b32 || f.width == .b64)) .fieldCombination) <|
  reject (f.width == .b64 && (f.qual == 1 || f.qual == 10 || f.qual == 11) && quals != 1) .fieldCombination

/-- The addresses-only instructions PREF, MARM, MWAIT and CLINE: DATA is 0, width 0, relaxed (R179). -/
def checkAddr (spaces : List Space) (anyScope : Bool) (quals : Nat) (f : MForm) : Option Reject :=
  first (checkM spaces [.rlx] anyScope quals true false f) <|
  reject (f.data != 0) .unusedField

/-- A B instruction against its row of R104: uses COND, uses SCALAR, has a target; immOk says whether IMM32 is as the row allows. -/
def checkB (cond scalar target immOk : Bool) (f : BForm) : Option Reject :=
  first (reject (!cond && f.cond != ⟨false, false, 0⟩) .unusedField) <|
  first (reject (!scalar && f.scalar != 0) .unusedField) <|
  first (reject (!target && (f.disp != 0 || f.slot != 0)) .unusedField) <|
  first (reject (4 < f.slot) .reservedCode) <|
  reject (!immOk) .unusedField

/-- R49: the operations a half may hold, with what each allows; the third source of VMAD and FMA is D. -/
def pairSpec (sop : BitVec 6) : Option VSpec :=
  match sop.toNat with
  | 0 => some ⟨intTys, 1, true, true, 2, false⟩
  | 1 => some ⟨intTys, 1, true, true, 2, false⟩
  | 2 => some ⟨intTys, 1, true, true, 2, false⟩
  | 3 => some ⟨intTys, 1, true, true, 2, false⟩
  | 4 => some ⟨intTys, 1, true, true, 2, false⟩
  | 5 => some ⟨intTys, 1, true, true, 2, false⟩
  | 6 => some ⟨intTys, 1, true, true, 2, false⟩
  | 7 => some ⟨laneTys, 1, true, true, 2, false⟩
  | 8 => some ⟨laneTys, 1, true, true, 2, false⟩
  | 9 => some ⟨laneTys, 1, true, true, 2, false⟩
  | 10 => some ⟨laneTys, 1, true, true, 2, false⟩
  | 11 => some ⟨laneTys, 1, true, true, 2, false⟩
  | 12 => some ⟨laneTys, 1, true, true, 2, false⟩
  | 13 => some ⟨laneTys, 1, true, true, 2, false⟩
  | 14 => some ⟨laneTys, 1, true, true, 2, false⟩
  | 15 => some ⟨laneTys, 1, true, true, 1, false⟩
  | 16 => some ⟨laneTys, 1, true, true, 1, false⟩
  | 17 => some ⟨laneTys, 1, true, true, 1, false⟩
  | 18 => some ⟨wordTys, 1, true, true, 2, false⟩
  | 21 => some ⟨[.i32], 1, true, true, 1, false⟩
  | 32 => some ⟨floatTys, 1, true, true, 2, false⟩
  | 33 => some ⟨floatTys, 1, true, true, 2, false⟩
  | 34 => some ⟨floatTys, 1, true, true, 2, false⟩
  | 35 => some ⟨floatTys, 1, true, true, 2, false⟩
  | 36 => some ⟨floatTys, 1, true, true, 2, false⟩
  | 37 => some ⟨floatTys, 1, true, true, 2, false⟩
  | 49 => some ⟨floatTys, 1, true, true, 1, false⟩
  | 51 => some ⟨plainFloatTys, 1, true, true, 2, false⟩
  | 40 => some ⟨plainFloatTys, 1, true, true, 1, false⟩
  | 41 => some ⟨plainFloatTys, 1, true, true, 1, false⟩
  | 44 => some ⟨plainFloatTys, 1, true, true, 1, false⟩
  | 45 => some ⟨plainFloatTys, 1, true, true, 1, false⟩
  | 46 => some ⟨plainFloatTys, 1, true, true, 1, false⟩
  | 47 => some ⟨plainFloatTys, 1, true, true, 1, false⟩
  | 48 => some ⟨plainFloatTys, 1, true, true, 1, false⟩
  | 50 => some ⟨[.fmt], 4, true, true, 1, false⟩
  | _ => none

/-- R49: the transcendental operations. -/
def isTranscendental (sop : BitVec 6) : Bool :=
  [0x28, 0x29, 0x2C, 0x2D, 0x2E, 0x2F, 0x30].contains sop.toNat
/-- R49: VMAD and FMA read their third operand from D. -/
def readsD (sop : BitVec 6) : Bool := sop == 0x04 || sop == 0x23
/-- Extent less one that a height or width code gives: 1, 2, 4, 8 (R48). -/
def extentOf (c : BitVec 2) : BitVec 4 := if c = 0 then 0 else if c = 1 then 1 else if c = 2 then 3 else 7

/-- PSEL as a predicate: p0, p1, not p0, always (R48). -/
def pselPrd (p : BitVec 2) : Prd :=
  if p = 0 then ⟨false, false, 0⟩ else if p = 1 then ⟨false, false, 1⟩ else if p = 2 then ⟨true, false, 0⟩ else ⟨false, false, 7⟩

/-- A half as the V form it abbreviates (R48, R49). -/
def Half.form (h : Half) : VForm :=
  { stl := h.stl, prd := pselPrd h.psel, d := h.d, a := h.a, b := h.b, c := if readsD h.sop then h.d else 0,
    eh := extentOf h.hc, ew := extentOf h.wc, ty := h.ty, ib := false, ba := h.ba, sub := h.sub, imm := 0 }

/-- The static check of one half. -/
def checkHalf (h : Half) : Option Reject :=
  match pairSpec h.sop with
  | none => some .notPairable
  | some sp => checkV sp { h.form with c := 0 }

/-- Whether the half's operation has a second register source. -/
def halfHasB (h : Half) : Bool := match pairSpec h.sop with
  | some sp => 2 ≤ sp.srcs
  | none => false

/-- The base registers that a half reads (R50). -/
def halfReads (h : Half) : List (BitVec 8) :=
  [h.a] ++ (if halfHasB h then [h.b] else []) ++ (if readsD h.sop then [h.d] else [])

/-- The static checks of a paired word (R49, R50). -/
def checkPair (f : PairForm) : Option Reject :=
  let regs := (halfReads f.h0 ++ halfReads f.h1).eraseDups
  first (checkHalf f.h0) <| first (checkHalf f.h1) <|
  first (reject (f.h0.hc != f.h1.hc || f.h0.wc != f.h1.wc) .pairExtents) <|
  first (reject (4 < regs.length) .pairReads) <|
  first (reject ([0, 1, 2, 3].any fun k => 2 < (regs.filter fun r => r.toNat % 4 == k).length) .pairBanks) <|
  first (reject (f.h0.d.toNat % 4 == f.h1.d.toNat % 4) .pairDestinations) <|
  reject (isTranscendental f.h0.sop && isTranscendental f.h1.sop) .pairTranscendental

/-- The static check of an instruction: none when it is legal. A device event has no encoding and nothing to check. DEDUCED, log 66: SRDV may take an immediate second source (R100). -/
def check (i : Instr) : Option Reject :=
  match i with
  | .vadd f => checkV ⟨intTys, 1, true, true, 2, true⟩ f
  | .vsub f => checkV ⟨intTys, 1, true, true, 2, true⟩ f
  | .vmul f => checkV ⟨intTys, 1, true, true, 2, true⟩ f
  | .vmulh f => checkV ⟨intTys, 1, true, true, 2, true⟩ f
  | .vmad f => checkV ⟨intTys, 1, true, true, 3, true⟩ f
  | .vmin f => checkV ⟨intTys, 1, true, true, 2, true⟩ f
  | .vmax f => checkV ⟨intTys, 1, true, true, 2, true⟩ f
  | .vand f => checkV ⟨laneTys, 1, true, true, 2, true⟩ f
  | .vor f => checkV ⟨laneTys, 1, true, true, 2, true⟩ f
  | .vxor f => checkV ⟨laneTys, 1, true, true, 2, true⟩ f
  | .vandn f => checkV ⟨laneTys, 1, true, true, 2, true⟩ f
  | .vshl f => checkV ⟨laneTys, 1, true, true, 2, true⟩ f
  | .vshr f => checkV ⟨laneTys, 1, true, true, 2, true⟩ f
  | .vsra f => checkV ⟨laneTys, 1, true, true, 2, true⟩ f
  | .vrot f => checkV ⟨laneTys, 1, true, true, 2, true⟩ f
  | .vclz f => checkV ⟨laneTys, 1, true, true, 1, false⟩ f
  | .vpop f => checkV ⟨laneTys, 1, true, true, 1, false⟩ f
  | .vbrev f => checkV ⟨laneTys, 1, true, true, 1, false⟩ f
  | .vbfx f => checkV ⟨wordTys, 1, true, true, 2, true⟩ f
  | .vbfi f => checkV ⟨wordTys, 1, true, true, 3, true⟩ f
  | .vsel f => checkV ⟨[.i32], 1, true, true, 3, true⟩ f
  | .vmov f => checkV ⟨[.i32], 1, true, true, 1, false⟩ f
  | .vcmp f => checkV ⟨wordTys, 4, false, false, 2, true⟩ f
  | .vlop3 f => checkVlop3 f
  | .vidx f => checkV ⟨wordTys, 1, true, true, 0, false⟩ f
  | .vdot4 f => checkV ⟨[.i8x4], 4, true, true, 3, true⟩ f
  | .fadd f => checkV ⟨floatTys, 1, true, true, 2, true⟩ f
  | .fsub f => checkV ⟨floatTys, 1, true, true, 2, true⟩ f
  | .fmul f => checkV ⟨floatTys, 1, true, true, 2, true⟩ f
  | .fma f => checkV ⟨floatTys, 1, true, true, 3, true⟩ f
  | .fmin f => checkV ⟨floatTys, 1, true, true, 2, true⟩ f
  | .fmax f => checkV ⟨floatTys, 1, true, true, 2, true⟩ f
  | .fcmp f => checkV ⟨[.f32], 4, false, false, 2, true⟩ f
  | .fclass f => checkV ⟨plainFloatTys, 1, true, true, 1, false⟩ f
  | .frcp f => checkV ⟨plainFloatTys, 1, true, true, 1, false⟩ f
  | .frsq f => checkV ⟨plainFloatTys, 1, true, true, 1, false⟩ f
  | .fsqrt f => checkV ⟨plainFloatTys, 1, true, true, 1, false⟩ f
  | .fdiv f => checkV ⟨plainFloatTys, 1, true, true, 2, true⟩ f
  | .fex2 f => checkV ⟨plainFloatTys, 1, true, true, 1, false⟩ f
  | .flg2 f => checkV ⟨plainFloatTys, 1, true, true, 1, false⟩ f
  | .fsin f => checkV ⟨plainFloatTys, 1, true, true, 1, false⟩ f
  | .fcos f => checkV ⟨plainFloatTys, 1, true, true, 1, false⟩ f
  | .ftnh f => checkV ⟨plainFloatTys, 1, true, true, 1, false⟩ f
  | .frnd f => checkV ⟨floatTys, 1, true, true, 1, false⟩ f
  | .cvt f => checkCvt f
  | .fscl f => checkV ⟨plainFloatTys, 1, true, true, 2, true⟩ f
  | .fdot2 f => checkV ⟨[.f16x2, .bf16x2], 1, true, true, 3, true⟩ f
  | .qblk f => checkV ⟨[.fmt], 1, false, false, 2, false⟩ f
  | .dqblk f => checkV ⟨[.fmt], 1, false, false, 2, false⟩ f
  | .shfl f => checkV ⟨[.i32], 4, true, false, 2, true⟩ f
  | .vstep f => first (checkV ⟨keyTys, 4, true, false, 1, false⟩ f) (reject (f.sub == 3 && f.ty == .f32) .subNotAllowed)
  | .ballot f => checkV ⟨[.i32], 1, false, false, 1, false⟩ f
  | .vote f => checkV ⟨[.i32], 4, false, false, 1, false⟩ f
  | .matchRows f => checkV ⟨keyTys, 1, false, false, 1, false⟩ f
  | .pfx f => checkV ⟨keyTys, 4, true, false, 1, false⟩ f
  | .spack f => checkV ⟨[.f16x2, .bf16x2, .i8x4], 2, false, false, 1, false⟩ f
  | .spexp f => checkV ⟨[.f16x2, .bf16x2, .i8x4], 2, false, false, 1, false⟩ f
  | .vsort f => checkV ⟨keyTys, 2, false, false, 1, false⟩ f
  | .bsrch f => checkV ⟨keyTys, 2, false, false, 2, true⟩ f
  | .pairedWord f => checkPair f
  | .sadd f => checkS ⟨sIntTys, 1, true, true, true⟩ f
  | .ssub f => checkS ⟨sIntTys, 1, true, true, true⟩ f
  | .smul f => checkS ⟨sIntTys, 1, true, true, true⟩ f
  | .smulh f => checkS ⟨sIntTys, 1, true, true, true⟩ f
  | .smad f => checkS ⟨sIntTys, 1, true, true, true⟩ f
  | .sdiv f => checkS ⟨sIntTys, 1, true, true, true⟩ f
  | .srem f => checkS ⟨sIntTys, 1, true, true, true⟩ f
  | .sand f => checkS ⟨sIntTys, 1, true, true, true⟩ f
  | .sor f => checkS ⟨sIntTys, 1, true, true, true⟩ f
  | .sxor f => checkS ⟨sIntTys, 1, true, true, true⟩ f
  | .sshl f => checkS ⟨sIntTys, 1, true, true, true⟩ f
  | .sshr f => checkS ⟨sIntTys, 1, true, true, true⟩ f
  | .ssra f => checkS ⟨sIntTys, 1, true, true, true⟩ f
  | .smin f => checkS ⟨sAllTys, 1, true, true, true⟩ f
  | .smax f => checkS ⟨sAllTys, 1, true, true, true⟩ f
  | .sclz f => checkS ⟨sIntTys, 1, true, false, false⟩ f
  | .spop f => checkS ⟨sIntTys, 1, true, false, false⟩ f
  | .sbfx f => checkS ⟨sIntTys, 1, true, true, true⟩ f
  | .sbfi f => checkS ⟨sIntTys, 1, true, true, true⟩ f
  | .ssel f => checkS ⟨sAllTys, 4, true, true, true⟩ f
  | .smov f => checkSmov f
  | .scmp f => checkS ⟨sIntTys, 4, true, true, true⟩ f
  | .saddx f => checkS ⟨[.i32, .n32], 1, true, true, true⟩ f
  | .smadx f => checkS ⟨[.i32, .n32], 1, true, true, true⟩ f
  | .srdv f => checkS ⟨sAllTys, 1, true, true, true⟩ f
  | .swrv f => checkS ⟨sAllTys, 1, true, false, false⟩ f
  | .sfadd f => checkS ⟨[.f32], 1, true, true, true⟩ f
  | .sfma f => checkS ⟨[.f32], 1, true, true, true⟩ f
  | .sfcmp f => checkS ⟨[.f32], 4, true, true, true⟩ f
  | .scvt f => checkS ⟨[.i32, .n32, .f32], 3, true, false, false⟩ f
  | .ld f => checkM [.global] rlxAcq true 1 true true f
  | .st f => checkM [.global] rlxRel true 1 true true f
  | .lds f => checkM [.scratchpad] rlxAcq true 3 true true f
  | .sts f => checkM [.scratchpad] rlxRel true 1 true true f
  | .ldp f => checkM [.global, .scratchpad] rlxAcq true 1 false true f
  | .stp f => checkM [.global, .scratchpad] rlxRel true 1 false true f
  | .ldc f => checkM [.constant] [.rlx] false 1 true true f
  | .atom f => checkAtom 12 f
  | .cas f => checkAtom 1 f
  | .atomagg f => checkAtom 9 f
  | .ldf f => checkM [.fifo] rlxAcq true 1 false true f
  | .stf f => checkM [.fifo] rlxRel true 1 false true f
  | .pref f => checkAddr [.global] false 2 f
  | .marm f => checkAddr [.global, .scratchpad] false 1 f
  | .mwait f => checkAddr [.global, .scratchpad] false 16 f
  | .cline f => checkAddr [.global] true 3 f
  | .bra f => checkB false false true (f.imm == 0) f
  | .brc f => checkB true false true (f.imm == 0) f
  | .brd f => checkB true false true (f.imm.extractLsb' 0 5 == 0 && f.imm.extractLsb' 5 3 ≤ 4) f
  | .rcv f => checkB false false false (f.imm == 0) f
  | .loop f => checkB false true true (f.imm == 0) f
  | .call f => checkB false false true (f.imm == 0) f
  | .ret f => checkB false false false (f.imm == 0) f
  | .calli f => checkB false true false (f.imm == 0) f
  | .exit f => checkB false false false (f.imm == 0) f
  | .trap f => checkB false false false true f
  | .hret f => checkB false false false (f.imm ≤ 2) f
  | .yield f => checkB false false false (f.imm == 0) f
  | .nop f => checkB false false false (f.imm == 0) f
  | .cgate f => checkB false false false (f.imm ≤ 255) f
  | .cgret f => checkB false false false (f.imm == 0) f
  | .cpy f => reject (!(f.vop == 0 && f.mod8 == 0 && f.imm == 0)) .unusedField
  | .cpyg f => reject (!(f.vop == 0 && f.mod8 == 0 && f.imm == 0)) .unusedField
  | .cpys f => reject (!(f.vop == 0 && f.mod8 == 0 && f.imm == 0)) .unusedField
  | .cpyf f => reject (!(f.vop == 0 && f.mod8 == 0 && f.imm == 0)) .unusedField
  | .wmrd f => reject (!(f.vop == 0 && f.rv == 31 && f.mod8 == 0 && f.imm == 0)) .unusedField
  | .cpyc f => reject (!(f.vop == 0 && f.rv == 31 && f.mod8 == 0 && f.imm == 0)) .unusedField
  | .cpym f => reject (!(f.vop == 0 && f.mod8 == 0 && f.imm == 0)) .unusedField
  | .chst f => reject (!(f.vop == 0 && f.rv == 31 && f.sel == 0 && f.mod8 == 0 && f.imm == 0)) .unusedField
  | .mloop f => reject (!(f.rv == 31 && f.mod8 == 0 && f.sel ≤ 1 && f.imm == 0)) .unusedField
  | .mzero f => reject (!(f.vop == 0 && f.rv == 31 && f.mod8 == 0 && f.sel ≤ 1 && f.rbase == 0 && f.imm == 0)) .unusedField
  | .mst f => reject (!(f.vop == 0 && f.rv == 31 && f.mod8 == 0 && f.sel ≤ 1 && f.imm == 0)) .unusedField
  | .mlda f => reject (!(f.vop == 0 && f.rv == 31 && f.mod8 == 0 && f.sel ≤ 1 && f.imm == 0)) .unusedField
  | .mstat f => reject (!(f.vop == 0 && f.rv == 31 && f.sel == 0 && f.mod8 == 0 && f.imm == 0)) .unusedField
  | .mqset f => reject (!(f.vop == 0 && f.rv == 31 && f.sel == 0 && f.mod8 == 0 && f.imm == 0)) .unusedField
  | .mrel f => reject (!(f.vop == 0 && f.rv == 31 && f.sel == 0 && f.mod8 == 0 && f.rbase == 0 && f.imm == 0)) .unusedField
  | .macq f => reject (!(f.vop == 0 && f.rv == 31 && f.sel == 0 && f.mod8 == 0 && f.rbase == 0 && f.imm == 0)) .unusedField
  | .group f => reject (!(f.rv == 31 && f.sel == 0 && f.mod8.extractLsb' 6 2 == 0 && (f.mod8.extractLsb' 0 3 == 0 || f.mod8.extractLsb' 0 3 == 2) && f.imm == 0)) .unusedField
  | .join f => reject (!(f.rv == 31 && f.sel == 0 && f.mod8.extractLsb' 6 2 == 0 && (f.mod8.extractLsb' 0 3 == 0 || f.mod8.extractLsb' 0 3 == 2) && f.imm == 0)) .unusedField
  | .route f => reject (!(f.rv == 31 && f.sel == 0 && f.mod8 == 0x14 && f.imm == 0)) .unusedField
  | .combn f => reject (!(f.rv == 31 && f.sel == 0 && f.mod8 == 0x14 && f.imm == 0)) .unusedField
  | .gstat f => reject (!(f.vop == 0 && f.rv == 31 && f.sel == 0 && f.mod8 == 0 && f.imm == 0)) .unusedField
  | .spawn f => reject (!(f.vop == 0 && f.rv == 31 && f.sel == 0 && f.mod8 == 0 && f.imm == 0)) .unusedField
  | .qenq f => reject (!(f.vop == 0 && f.rv == 31 && f.sel == 0 && f.mod8 == 0 && f.imm == 0)) .unusedField
  | .qdeq f => reject (!(f.vop == 0 && f.rv == 31 && f.sel == 0 && f.mod8 == 0 && f.imm == 0)) .unusedField
  | .qstl f => reject (!(f.vop == 0 && f.rv == 31 && f.sel == 0 && f.mod8 == 0 && f.imm == 0)) .unusedField
  | .qput f => reject (!(f.vop == 0 && f.rv == 31 && f.sel == 0 && f.mod8 == 0 && f.imm == 0)) .unusedField
  | .dcnt f => reject (!(f.vop == 0 && f.rv == 31 && f.sel == 0 && f.mod8 == 0 && f.imm == 0)) .unusedField
  | .govst f => reject (!(f.vop == 0 && f.rv == 31 && f.sel == 0 && f.mod8 == 0 && f.imm == 0)) .unusedField
  | .fence f => reject (!(f.d == 0 && f.a == 0 && f.b == 0 && f.ty ≤ 1 && !f.ib && f.imm == 0)) .unusedField
  | .waitc f => reject (!(f.d == 0 && f.a == 0 && f.b == 0 && f.ty == 0 && f.ib)) .unusedField
  | .tryw f => reject (!(f.ty == 0 && !f.ib && f.imm == 0 && (f.sub != 0 || f.b == 0))) .unusedField
  | .rvinit f => reject (!(f.d == 0 && f.a == 0 && f.b == 0 && f.ty == 0 && f.ib && f.sub == 0)) .unusedField
  | .rvarr f => reject (!(f.d == 0 && f.a == 0 && f.b == 0 && f.ty == 0 && f.ib)) .unusedField
  | .rvwait f => reject (!(f.a == 0 && f.b == 0 && f.ty == 0 && f.ib && f.sub == 0)) .unusedField
  | .setfmt f => reject (!(f.d == 0 && f.b == 0 && f.ty == 0 && f.sub == 0 && (if f.ib then f.a == 0 else f.imm == 0))) .unusedField
  | .rdsr f => reject (!(f.a == 0 && f.b == 0 && f.ty == 0 && f.ib && f.sub == 0)) .unusedField
  | .wrsr f => reject (!(f.d == 0 && f.b == 0 && f.ty == 0 && f.ib && f.sub == 0)) .unusedField
  | .carve f => reject (!(f.b == 0 && f.ty == 0 && !f.ib && f.sub == 0 && f.imm == 0)) .unusedField
  | .tlbi f => reject (!(f.d == 0 && f.b == 0 && f.ty == 0 && f.ib && f.sub == 0 && (f.imm != 2 || f.a == 0))) .unusedField
  | .cctl f => reject (!(f.d == 0 && f.b == 0 && f.ty == 0 && f.ib && f.sub == 0)) .unusedField
  | .clk f => reject (!(f.a == 0 && f.b == 0 && f.ty == 0 && f.ib && f.sub == 0)) .unusedField
  | .rng f => reject (!(f.a == 0 && f.b == 0 && (f.ty == 1 || f.ty == 4) && !f.ib && f.sub == 0 && f.imm == 0)) .unusedField
  | .halt f => reject (!(f.d == 0 && f.a == 0 && f.b == 0 && f.ty == 0 && !f.ib && f.sub == 0 && f.imm == 0)) .unusedField
  | .bkpt f => reject (!(f.d == 0 && f.a == 0 && f.b == 0 && f.ty == 0 && f.ib && f.sub == 0)) .unusedField
  | .issueSelection _ => none
  | .fetchLine _ => none
  | .plotPlacement _ => none
  | .launchDraw _ => none
  | .teamFree _ => none
  | .completionRecord _ => none
  | .depWaitRelease _ => none
  | .operationRetire _ => none
  | .asyncFaultReport _ => none
  | .trapEntry _ => none
  | .watermarkRelease _ => none
  | .fullEmptyRelease _ => none
  | .scoreboardRelease _ => none
  | .copyStart _ => none
  | .copyElementLand _ => none
  | .copyComplete _ => none
  | .poisonMarks _ => none
  | .channelQuiesce _ => none
  | .rvwaitRelease _ => none
  | .trywTimeout _ => none
  | .monitorWake _ => none
  | .mwaitTimeout _ => none
  | .spuriousWake _ => none
  | .matrixGrant _ => none
  | .matrixLeaseExpiry _ => none
  | .matrixCommandStart _ => none
  | .matrixKStep _ => none
  | .matrixCommandComplete _ => none
  | .matrixFreeze _ => none
  | .matrixScanOut _ => none
  | .matrixScanIn _ => none
  | .instanceComplete _ => none
  | .graftApplication _ => none
  | .spillRingWrite _ => none
  | .ingressSelect _ => none
  | .tileClose _ => none
  | .tileStatusWrite _ => none
  | .spawnIntake _ => none
  | .queueOperation _ => none
  | .storeRefill _ => none
  | .qputTarget _ => none
  | .stageEvaluation _ => none
  | .tableFiring _ => none
  | .preemptDecision _ => none
  | .drainTimeout _ => none
  | .plotSave _ => none
  | .plotRestore _ => none
  | .sliceEnd _ => none
  | .sliceStart _ => none
  | .recall _ => none
  | .recallEnd _ => none
  | .gateBudgetExpiry _ => none
  | .meterFold _ => none
  | .droop _ => none
  | .droopRecovery _ => none
  | .coreSlotWrite _ => none
  | .bankOwnerWrite _ => none
  | .clusterSlotWrite _ => none
  | .rotOwnerChange _ => none
  | .firewallWrite _ => none
  | .apertureWindowWrite _ => none
  | .mgmtRegisterWrite _ => none
  | .mbprodWrite x => reject (!x.entries.all fun e => e.bytes.length == 64) .entryLength
  | .qdbWrite _ => none
  | .write _ => none
  | .read _ => none
  | .fill _ => none
  | .meters _ => none
  | .report _ => none
  | .resume _ => none
  | .mgmtwr _ => none
  | .mgmtrd _ => none
  | .bar2Inbound _ => none
  | .linkFailure _ => none
  | .coldReset _ => none
  | .functionLevelReset _ => none
  | .getMeasurements _ => none
  | .keyExchange _ => none
  | .linkRecovery _ => none
  | .remoteCopyWrite _ => none
  | .precisionTimeMeasurement _ => none
  | .configurationRequest _ => none
  | .haltRequest _ => none
  | .algorithmNegotiation _ => none

/-- Well-formed: no static check rejects it. -/
def Instr.wf (i : Instr) : Bool := (check i).isNone

/-- Whether the row is a device event rather than an instruction of a team. -/
def Instr.isEvent (i : Instr) : Bool :=
  match i with
  | .vadd _ => false
  | .vsub _ => false
  | .vmul _ => false
  | .vmulh _ => false
  | .vmad _ => false
  | .vmin _ => false
  | .vmax _ => false
  | .vand _ => false
  | .vor _ => false
  | .vxor _ => false
  | .vandn _ => false
  | .vshl _ => false
  | .vshr _ => false
  | .vsra _ => false
  | .vrot _ => false
  | .vclz _ => false
  | .vpop _ => false
  | .vbrev _ => false
  | .vbfx _ => false
  | .vbfi _ => false
  | .vsel _ => false
  | .vmov _ => false
  | .vcmp _ => false
  | .vlop3 _ => false
  | .vidx _ => false
  | .vdot4 _ => false
  | .fadd _ => false
  | .fsub _ => false
  | .fmul _ => false
  | .fma _ => false
  | .fmin _ => false
  | .fmax _ => false
  | .fcmp _ => false
  | .fclass _ => false
  | .frcp _ => false
  | .frsq _ => false
  | .fsqrt _ => false
  | .fdiv _ => false
  | .fex2 _ => false
  | .flg2 _ => false
  | .fsin _ => false
  | .fcos _ => false
  | .ftnh _ => false
  | .frnd _ => false
  | .cvt _ => false
  | .fscl _ => false
  | .fdot2 _ => false
  | .qblk _ => false
  | .dqblk _ => false
  | .shfl _ => false
  | .vstep _ => false
  | .ballot _ => false
  | .vote _ => false
  | .matchRows _ => false
  | .pfx _ => false
  | .spack _ => false
  | .spexp _ => false
  | .vsort _ => false
  | .bsrch _ => false
  | .pairedWord _ => false
  | .sadd _ => false
  | .ssub _ => false
  | .smul _ => false
  | .smulh _ => false
  | .smad _ => false
  | .sdiv _ => false
  | .srem _ => false
  | .sand _ => false
  | .sor _ => false
  | .sxor _ => false
  | .sshl _ => false
  | .sshr _ => false
  | .ssra _ => false
  | .smin _ => false
  | .smax _ => false
  | .sclz _ => false
  | .spop _ => false
  | .sbfx _ => false
  | .sbfi _ => false
  | .ssel _ => false
  | .smov _ => false
  | .scmp _ => false
  | .saddx _ => false
  | .smadx _ => false
  | .srdv _ => false
  | .swrv _ => false
  | .sfadd _ => false
  | .sfma _ => false
  | .sfcmp _ => false
  | .scvt _ => false
  | .ld _ => false
  | .st _ => false
  | .lds _ => false
  | .sts _ => false
  | .ldp _ => false
  | .stp _ => false
  | .ldc _ => false
  | .atom _ => false
  | .cas _ => false
  | .atomagg _ => false
  | .ldf _ => false
  | .stf _ => false
  | .pref _ => false
  | .marm _ => false
  | .mwait _ => false
  | .cline _ => false
  | .bra _ => false
  | .brc _ => false
  | .brd _ => false
  | .rcv _ => false
  | .loop _ => false
  | .call _ => false
  | .ret _ => false
  | .calli _ => false
  | .exit _ => false
  | .trap _ => false
  | .hret _ => false
  | .yield _ => false
  | .nop _ => false
  | .cgate _ => false
  | .cgret _ => false
  | .cpy _ => false
  | .cpyg _ => false
  | .cpys _ => false
  | .cpyf _ => false
  | .wmrd _ => false
  | .cpyc _ => false
  | .cpym _ => false
  | .chst _ => false
  | .mloop _ => false
  | .mzero _ => false
  | .mst _ => false
  | .mlda _ => false
  | .mstat _ => false
  | .mqset _ => false
  | .mrel _ => false
  | .macq _ => false
  | .group _ => false
  | .join _ => false
  | .route _ => false
  | .combn _ => false
  | .gstat _ => false
  | .spawn _ => false
  | .qenq _ => false
  | .qdeq _ => false
  | .qstl _ => false
  | .qput _ => false
  | .dcnt _ => false
  | .govst _ => false
  | .fence _ => false
  | .waitc _ => false
  | .tryw _ => false
  | .rvinit _ => false
  | .rvarr _ => false
  | .rvwait _ => false
  | .setfmt _ => false
  | .rdsr _ => false
  | .wrsr _ => false
  | .carve _ => false
  | .tlbi _ => false
  | .cctl _ => false
  | .clk _ => false
  | .rng _ => false
  | .halt _ => false
  | .bkpt _ => false
  | .issueSelection _ => true
  | .fetchLine _ => true
  | .plotPlacement _ => true
  | .launchDraw _ => true
  | .teamFree _ => true
  | .completionRecord _ => true
  | .depWaitRelease _ => true
  | .operationRetire _ => true
  | .asyncFaultReport _ => true
  | .trapEntry _ => true
  | .watermarkRelease _ => true
  | .fullEmptyRelease _ => true
  | .scoreboardRelease _ => true
  | .copyStart _ => true
  | .copyElementLand _ => true
  | .copyComplete _ => true
  | .poisonMarks _ => true
  | .channelQuiesce _ => true
  | .rvwaitRelease _ => true
  | .trywTimeout _ => true
  | .monitorWake _ => true
  | .mwaitTimeout _ => true
  | .spuriousWake _ => true
  | .matrixGrant _ => true
  | .matrixLeaseExpiry _ => true
  | .matrixCommandStart _ => true
  | .matrixKStep _ => true
  | .matrixCommandComplete _ => true
  | .matrixFreeze _ => true
  | .matrixScanOut _ => true
  | .matrixScanIn _ => true
  | .instanceComplete _ => true
  | .graftApplication _ => true
  | .spillRingWrite _ => true
  | .ingressSelect _ => true
  | .tileClose _ => true
  | .tileStatusWrite _ => true
  | .spawnIntake _ => true
  | .queueOperation _ => true
  | .storeRefill _ => true
  | .qputTarget _ => true
  | .stageEvaluation _ => true
  | .tableFiring _ => true
  | .preemptDecision _ => true
  | .drainTimeout _ => true
  | .plotSave _ => true
  | .plotRestore _ => true
  | .sliceEnd _ => true
  | .sliceStart _ => true
  | .recall _ => true
  | .recallEnd _ => true
  | .gateBudgetExpiry _ => true
  | .meterFold _ => true
  | .droop _ => true
  | .droopRecovery _ => true
  | .coreSlotWrite _ => true
  | .bankOwnerWrite _ => true
  | .clusterSlotWrite _ => true
  | .rotOwnerChange _ => true
  | .firewallWrite _ => true
  | .apertureWindowWrite _ => true
  | .mgmtRegisterWrite _ => true
  | .mbprodWrite _ => true
  | .qdbWrite _ => true
  | .write _ => true
  | .read _ => true
  | .fill _ => true
  | .meters _ => true
  | .report _ => true
  | .resume _ => true
  | .mgmtwr _ => true
  | .mgmtrd _ => true
  | .bar2Inbound _ => true
  | .linkFailure _ => true
  | .coldReset _ => true
  | .functionLevelReset _ => true
  | .getMeasurements _ => true
  | .keyExchange _ => true
  | .linkRecovery _ => true
  | .remoteCopyWrite _ => true
  | .precisionTimeMeasurement _ => true
  | .configurationRequest _ => true
  | .haltRequest _ => true
  | .algorithmNegotiation _ => true

end Sys2Proof
end

