-- ==== Sys2Proof/Decode.lean ====
section
/-! DEFINITION. Decoding a 96-bit slot and encoding an instruction (R33, R38-R49, R58, R59). The decoder is total, rejects by name, and answers only well-formed instructions. -/

namespace Sys2Proof

/-- bits(w, lo + n - 1, lo) (R4). -/
abbrev fld (w : Slot) (lo n : Nat) : BitVec n := w.extractLsb' lo n
/-- One bit of a slot as a Bool. -/
def flag (w : Slot) (i : Nat) : Bool := w.getLsbD i
/-- A Bool as one bit. -/
def bit1 (b : Bool) : BitVec 1 := BitVec.ofBool b

/-- PRD or COND from its five bits: negate, kind, index (R38, R45). -/
def prdOf (x : BitVec 5) : Prd := ⟨x.getLsbD 4, x.getLsbD 3, x.extractLsb' 0 3⟩
/-- The five bits of PRD or COND. -/
def prdBits (p : Prd) : BitVec 5 := bit1 p.neg ++ bit1 p.team ++ p.index

/-- TY of the V format (R41). -/
def vtyOf (x : BitVec 3) : VTy := match x.toNat with
  | 0 => .i32 | 1 => .n32 | 2 => .f32 | 3 => .f16x2 | 4 => .bf16x2 | 5 => .i16x2 | 6 => .i8x4 | _ => .fmt
/-- The code of a V type. -/
def vtyBits (t : VTy) : BitVec 3 := match t with
  | .i32 => 0 | .n32 => 1 | .f32 => 2 | .f16x2 => 3 | .bf16x2 => 4 | .i16x2 => 5 | .i8x4 => 6 | .fmt => 7
/-- TY of the S format; 5 to 7 are reserved (R43). -/
def styOf (x : BitVec 3) : Option STy := match x.toNat with
  | 0 => some .i32 | 1 => some .n32 | 2 => some .f32 | 3 => some .i64 | 4 => some .n64 | _ => none
/-- The code of an S type. -/
def styBits (t : STy) : BitVec 3 := match t with
  | .i32 => 0 | .n32 => 1 | .f32 => 2 | .i64 => 3 | .n64 => 4
/-- WIDTH; 5 to 7 are reserved (R44). -/
def widthOf (x : BitVec 3) : Option Width := match x.toNat with
  | 0 => some .b8 | 1 => some .b16 | 2 => some .b32 | 3 => some .b64 | 4 => some .b128 | _ => none
/-- The code of a width. -/
def widthBits (t : Width) : BitVec 3 := match t with
  | .b8 => 0 | .b16 => 1 | .b32 => 2 | .b64 => 3 | .b128 => 4
/-- SCOPE; 6 and 7 are reserved (R44). -/
def scopeOf (x : BitVec 3) : Option Scope := match x.toNat with
  | 0 => some .team | 1 => some .bed | 2 => some .plot | 3 => some .field | 4 => some .estate | 5 => some .sys | _ => none
/-- The code of a scope. -/
def scopeBits (t : Scope) : BitVec 3 := match t with
  | .team => 0 | .bed => 1 | .plot => 2 | .field => 3 | .estate => 4 | .sys => 5
/-- ORDER (R44). -/
def orderOf (x : BitVec 2) : Order := match x.toNat with
  | 0 => .rlx | 1 => .acq | 2 => .rel | _ => .ar
/-- The code of an order. -/
def orderBits (t : Order) : BitVec 2 := match t with
  | .rlx => 0 | .acq => 1 | .rel => 2 | .ar => 3
/-- SPACE; 4 to 7 are reserved (R44). -/
def spaceOf (x : BitVec 3) : Option Space := match x.toNat with
  | 0 => some .global | 1 => some .scratchpad | 2 => some .constant | 3 => some .fifo | _ => none
/-- The code of a space. -/
def spaceBits (t : Space) : BitVec 3 := match t with
  | .global => 0 | .scratchpad => 1 | .constant => 2 | .fifo => 3

/-- The fields of the V format (R41). -/
def decodeV (w : Slot) : Except Reject VForm :=
  .ok { stl := fld w 84 4, prd := prdOf (fld w 79 5), d := fld w 71 8, a := fld w 63 8, b := fld w 55 8, c := fld w 47 8,
        eh := fld w 43 4, ew := fld w 39 4, ty := vtyOf (fld w 36 3), ib := flag w 35, ba := flag w 34, sub := fld w 32 2,
        imm := fld w 0 32 }
/-- The word of a V form under an opcode. -/
def encodeV (op : Byte) (f : VForm) : Slot :=
  op ++ f.stl ++ prdBits f.prd ++ f.d ++ f.a ++ f.b ++ f.c ++ f.eh ++ f.ew ++ vtyBits f.ty ++ bit1 f.ib ++ bit1 f.ba ++ f.sub ++ f.imm

/-- The fields of the S format (R43). -/
def decodeS (w : Slot) : Except Reject SForm :=
  if !flag w 82 then .error .predicateKind
  else if fld w 32 11 != 0 then .error .reservedBits
  else match styOf (fld w 46 3) with
  | none => .error .reservedType
  | some ty => .ok { stl := fld w 84 4, neg := flag w 83, pq := fld w 79 3, d := fld w 69 10, a := fld w 59 10, b := fld w 49 10,
                     ty := ty, ib := flag w 45, sub := fld w 43 2, imm := fld w 0 32 }
/-- The word of an S form under an opcode. -/
def encodeS (op : Byte) (f : SForm) : Slot :=
  op ++ f.stl ++ bit1 f.neg ++ 1#1 ++ f.pq ++ f.d ++ f.a ++ f.b ++ styBits f.ty ++ bit1 f.ib ++ f.sub ++ 0#11 ++ f.imm

/-- The fields of the M format (R44). -/
def decodeM (w : Slot) : Except Reject MForm :=
  if fld w 32 6 != 0 then .error .reservedBits
  else match widthOf (fld w 50 3), scopeOf (fld w 47 3), spaceOf (fld w 42 3) with
  | some wi, some sc, some sp =>
    .ok { stl := fld w 84 4, prd := prdOf (fld w 79 5), data := fld w 71 8, base := fld w 61 10, index := fld w 53 8, width := wi,
          scope := sc, order := orderOf (fld w 45 2), space := sp, qual := fld w 38 4, off := fld w 0 32 }
  | _, _, _ => .error .reservedCode
/-- The word of an M form under an opcode. -/
def encodeM (op : Byte) (f : MForm) : Slot :=
  op ++ f.stl ++ prdBits f.prd ++ f.data ++ f.base ++ f.index ++ widthBits f.width ++ scopeBits f.scope ++ orderBits f.order
    ++ spaceBits f.space ++ f.qual ++ 0#6 ++ f.off

/-- The fields of the B format (R45). -/
def decodeB (w : Slot) : Except Reject BForm :=
  if !flag w 82 then .error .predicateKind
  else if fld w 76 3 != 0 || fld w 32 2 != 0 then .error .reservedBits
  else .ok { stl := fld w 84 4, neg := flag w 83, pq := fld w 79 3, cond := prdOf (fld w 71 5), scalar := fld w 61 10,
             disp := fld w 37 24, slot := fld w 34 3, imm := fld w 0 32 }
/-- The word of a B form under an opcode. -/
def encodeB (op : Byte) (f : BForm) : Slot :=
  op ++ f.stl ++ bit1 f.neg ++ 1#1 ++ f.pq ++ 0#3 ++ prdBits f.cond ++ f.scalar ++ f.disp ++ f.slot ++ 0#2 ++ f.imm

/-- The fields of the E format (R46). -/
def decodeE (w : Slot) : Except Reject EForm :=
  if !flag w 82 then .error .predicateKind
  else if fld w 32 11 != 0 then .error .reservedBits
  else .ok { stl := fld w 84 4, neg := flag w 83, pq := fld w 79 3, rbase := fld w 69 10, vop := fld w 61 8, sel := fld w 56 5,
             rv := fld w 51 5, mod8 := fld w 43 8, imm := fld w 0 32 }
/-- The word of an E form under an opcode. -/
def encodeE (op : Byte) (f : EForm) : Slot :=
  op ++ f.stl ++ bit1 f.neg ++ 1#1 ++ f.pq ++ f.rbase ++ f.vop ++ f.sel ++ f.rv ++ f.mod8 ++ 0#11 ++ f.imm

/-- The fields of the Y format (R47). -/
def decodeY (w : Slot) : Except Reject YForm :=
  if !flag w 82 then .error .predicateKind
  else if fld w 32 11 != 0 then .error .reservedBits
  else .ok { stl := fld w 84 4, neg := flag w 83, pq := fld w 79 3, d := fld w 69 10, a := fld w 59 10, b := fld w 49 10,
             ty := fld w 46 3, ib := flag w 45, sub := fld w 43 2, imm := fld w 0 32 }
/-- The word of a Y form under an opcode. -/
def encodeY (op : Byte) (f : YForm) : Slot :=
  op ++ f.stl ++ bit1 f.neg ++ 1#1 ++ f.pq ++ f.d ++ f.a ++ f.b ++ f.ty ++ bit1 f.ib ++ f.sub ++ 0#11 ++ f.imm

/-- One 48-bit half of a paired word (R48). -/
def decodeHalf (w : BitVec 48) : Except Reject Half :=
  if w.extractLsb' 0 2 != 0 then .error .reservedBits
  else .ok { sop := w.extractLsb' 42 6, stl := w.extractLsb' 38 4, psel := w.extractLsb' 36 2, d := w.extractLsb' 28 8,
             a := w.extractLsb' 20 8, b := w.extractLsb' 12 8, hc := w.extractLsb' 10 2, wc := w.extractLsb' 8 2,
             ty := vtyOf (w.extractLsb' 5 3), ba := w.getLsbD 4, sub := w.extractLsb' 2 2 }
/-- The 48 bits of a half. -/
def encodeHalf (h : Half) : BitVec 48 :=
  h.sop ++ h.stl ++ h.psel ++ h.d ++ h.a ++ h.b ++ h.hc ++ h.wc ++ vtyBits h.ty ++ bit1 h.ba ++ h.sub ++ 0#2

/-- A paired word: half 0 in bits [95:48], half 1 in bits [47:0] (R48). -/
def decodePair (w : Slot) : Except Reject PairForm :=
  match decodeHalf (fld w 48 48) with
  | .error r => .error r
  | .ok h0 => match decodeHalf (fld w 0 48) with
    | .error r => .error r
    | .ok h1 => .ok ⟨h0, h1⟩
/-- The word of a pair. -/
def encodePair (f : PairForm) : Slot := encodeHalf f.h0 ++ encodeHalf f.h1

/-- Apply a constructor to a decoded form. -/
def withForm {α : Type} (r : Except Reject α) (k : α → Instr) : Except Reject Instr :=
  match r with
  | .error e => .error e
  | .ok f => .ok (k f)

/-- The opcode map of R58: which mnemonic an OP names, applied to the fields of its format. -/
def decodeFields (w : Slot) : Except Reject Instr :=
  match (fld w 88 8).toNat with
  | 0x00 => withForm (decodeV w) .vadd
  | 0x01 => withForm (decodeV w) .vsub
  | 0x02 => withForm (decodeV w) .vmul
  | 0x03 => withForm (decodeV w) .vmulh
  | 0x04 => withForm (decodeV w) .vmad
  | 0x05 => withForm (decodeV w) .vmin
  | 0x06 => withForm (decodeV w) .vmax
  | 0x07 => withForm (decodeV w) .vand
  | 0x08 => withForm (decodeV w) .vor
  | 0x09 => withForm (decodeV w) .vxor
  | 0x0A => withForm (decodeV w) .vandn
  | 0x0B => withForm (decodeV w) .vshl
  | 0x0C => withForm (decodeV w) .vshr
  | 0x0D => withForm (decodeV w) .vsra
  | 0x0E => withForm (decodeV w) .vrot
  | 0x0F => withForm (decodeV w) .vclz
  | 0x10 => withForm (decodeV w) .vpop
  | 0x11 => withForm (decodeV w) .vbrev
  | 0x12 => withForm (decodeV w) .vbfx
  | 0x13 => withForm (decodeV w) .vbfi
  | 0x14 => withForm (decodeV w) .vsel
  | 0x15 => withForm (decodeV w) .vmov
  | 0x16 => withForm (decodeV w) .vcmp
  | 0x17 => withForm (decodeV w) .vlop3
  | 0x18 => withForm (decodeV w) .vidx
  | 0x19 => withForm (decodeV w) .vdot4
  | 0x20 => withForm (decodeV w) .fadd
  | 0x21 => withForm (decodeV w) .fsub
  | 0x22 => withForm (decodeV w) .fmul
  | 0x23 => withForm (decodeV w) .fma
  | 0x24 => withForm (decodeV w) .fmin
  | 0x25 => withForm (decodeV w) .fmax
  | 0x26 => withForm (decodeV w) .fcmp
  | 0x27 => withForm (decodeV w) .fclass
  | 0x28 => withForm (decodeV w) .frcp
  | 0x29 => withForm (decodeV w) .frsq
  | 0x2A => withForm (decodeV w) .fsqrt
  | 0x2B => withForm (decodeV w) .fdiv
  | 0x2C => withForm (decodeV w) .fex2
  | 0x2D => withForm (decodeV w) .flg2
  | 0x2E => withForm (decodeV w) .fsin
  | 0x2F => withForm (decodeV w) .fcos
  | 0x30 => withForm (decodeV w) .ftnh
  | 0x31 => withForm (decodeV w) .frnd
  | 0x32 => withForm (decodeV w) .cvt
  | 0x33 => withForm (decodeV w) .fscl
  | 0x34 => withForm (decodeV w) .fdot2
  | 0x35 => withForm (decodeV w) .qblk
  | 0x36 => withForm (decodeV w) .dqblk
  | 0x40 => withForm (decodeV w) .shfl
  | 0x41 => withForm (decodeV w) .vstep
  | 0x42 => withForm (decodeV w) .ballot
  | 0x43 => withForm (decodeV w) .vote
  | 0x44 => withForm (decodeV w) .matchRows
  | 0x45 => withForm (decodeV w) .pfx
  | 0x46 => withForm (decodeV w) .spack
  | 0x47 => withForm (decodeV w) .spexp
  | 0x48 => withForm (decodeV w) .vsort
  | 0x49 => withForm (decodeV w) .bsrch
  | 0x60 => withForm (decodeS w) .sadd
  | 0x61 => withForm (decodeS w) .ssub
  | 0x62 => withForm (decodeS w) .smul
  | 0x63 => withForm (decodeS w) .smulh
  | 0x64 => withForm (decodeS w) .smad
  | 0x65 => withForm (decodeS w) .sdiv
  | 0x66 => withForm (decodeS w) .srem
  | 0x67 => withForm (decodeS w) .sand
  | 0x68 => withForm (decodeS w) .sor
  | 0x69 => withForm (decodeS w) .sxor
  | 0x6A => withForm (decodeS w) .sshl
  | 0x6B => withForm (decodeS w) .sshr
  | 0x6C => withForm (decodeS w) .ssra
  | 0x6D => withForm (decodeS w) .smin
  | 0x6E => withForm (decodeS w) .smax
  | 0x6F => withForm (decodeS w) .sclz
  | 0x70 => withForm (decodeS w) .spop
  | 0x71 => withForm (decodeS w) .sbfx
  | 0x72 => withForm (decodeS w) .sbfi
  | 0x73 => withForm (decodeS w) .ssel
  | 0x74 => withForm (decodeS w) .smov
  | 0x75 => withForm (decodeS w) .scmp
  | 0x76 => withForm (decodeS w) .saddx
  | 0x77 => withForm (decodeS w) .smadx
  | 0x78 => withForm (decodeS w) .srdv
  | 0x79 => withForm (decodeS w) .swrv
  | 0x7A => withForm (decodeS w) .sfadd
  | 0x7B => withForm (decodeS w) .sfma
  | 0x7C => withForm (decodeS w) .sfcmp
  | 0x7D => withForm (decodeS w) .scvt
  | 0x80 => withForm (decodeM w) .ld
  | 0x81 => withForm (decodeM w) .st
  | 0x82 => withForm (decodeM w) .lds
  | 0x83 => withForm (decodeM w) .sts
  | 0x84 => withForm (decodeM w) .ldp
  | 0x85 => withForm (decodeM w) .stp
  | 0x86 => withForm (decodeM w) .ldc
  | 0x87 => withForm (decodeM w) .atom
  | 0x88 => withForm (decodeM w) .cas
  | 0x89 => withForm (decodeM w) .atomagg
  | 0x8A => withForm (decodeM w) .ldf
  | 0x8B => withForm (decodeM w) .stf
  | 0x8C => withForm (decodeM w) .pref
  | 0x8D => withForm (decodeM w) .marm
  | 0x8E => withForm (decodeM w) .mwait
  | 0x8F => withForm (decodeM w) .cline
  | 0xA0 => withForm (decodeB w) .bra
  | 0xA1 => withForm (decodeB w) .brc
  | 0xA2 => withForm (decodeB w) .brd
  | 0xA3 => withForm (decodeB w) .rcv
  | 0xA4 => withForm (decodeB w) .loop
  | 0xA5 => withForm (decodeB w) .call
  | 0xA6 => withForm (decodeB w) .ret
  | 0xA7 => withForm (decodeB w) .calli
  | 0xA8 => withForm (decodeB w) .exit
  | 0xA9 => withForm (decodeB w) .trap
  | 0xAA => withForm (decodeB w) .hret
  | 0xAB => withForm (decodeB w) .yield
  | 0xAC => withForm (decodeB w) .nop
  | 0xAD => withForm (decodeB w) .cgate
  | 0xAE => withForm (decodeB w) .cgret
  | 0xB0 => withForm (decodeE w) .cpy
  | 0xB1 => withForm (decodeE w) .cpyg
  | 0xB2 => withForm (decodeE w) .cpys
  | 0xB3 => withForm (decodeE w) .cpyf
  | 0xB4 => withForm (decodeE w) .wmrd
  | 0xB5 => withForm (decodeE w) .cpyc
  | 0xB6 => withForm (decodeE w) .cpym
  | 0xB7 => withForm (decodeE w) .chst
  | 0xB8 => withForm (decodeE w) .mloop
  | 0xB9 => withForm (decodeE w) .mzero
  | 0xBA => withForm (decodeE w) .mst
  | 0xBB => withForm (decodeE w) .mlda
  | 0xBC => withForm (decodeE w) .mstat
  | 0xBD => withForm (decodeE w) .mqset
  | 0xBE => withForm (decodeE w) .mrel
  | 0xBF => withForm (decodeE w) .macq
  | 0xC0 => withForm (decodeE w) .group
  | 0xC1 => withForm (decodeE w) .join
  | 0xC2 => withForm (decodeE w) .route
  | 0xC3 => withForm (decodeE w) .combn
  | 0xC4 => withForm (decodeE w) .gstat
  | 0xC8 => withForm (decodeE w) .spawn
  | 0xC9 => withForm (decodeE w) .qenq
  | 0xCA => withForm (decodeE w) .qdeq
  | 0xCB => withForm (decodeE w) .qstl
  | 0xCC => withForm (decodeE w) .qput
  | 0xCD => withForm (decodeE w) .dcnt
  | 0xCE => withForm (decodeE w) .govst
  | 0xD0 => withForm (decodeY w) .fence
  | 0xD1 => withForm (decodeY w) .waitc
  | 0xD2 => withForm (decodeY w) .tryw
  | 0xD3 => withForm (decodeY w) .rvinit
  | 0xD4 => withForm (decodeY w) .rvarr
  | 0xD5 => withForm (decodeY w) .rvwait
  | 0xD6 => withForm (decodeY w) .setfmt
  | 0xD7 => withForm (decodeY w) .rdsr
  | 0xD8 => withForm (decodeY w) .wrsr
  | 0xD9 => withForm (decodeY w) .carve
  | 0xDA => withForm (decodeY w) .tlbi
  | 0xDB => withForm (decodeY w) .cctl
  | 0xDC => withForm (decodeY w) .clk
  | 0xDD => withForm (decodeY w) .rng
  | 0xDE => withForm (decodeY w) .halt
  | 0xDF => withForm (decodeY w) .bkpt
  | _ => .error .unassignedOp

/-- Keep an instruction only when its static check passes. -/
def checked (r : Except Reject Instr) : Except Reject Instr :=
  match r with
  | .error e => .error e
  | .ok i => match check i with
    | some e => .error e
    | none => .ok i

/-- The instruction in a slot: a paired word where the line's PT bit is set, else the format that OP selects (R33). -/
def decodeSlot (pt : Bool) (w : Slot) : Except Reject Instr :=
  checked (if pt then withForm (decodePair w) .pairedWord else decodeFields w)

/-- Whether an instruction stands in a slot whose PT bit is set. -/
def isPaired (i : Instr) : Bool := match i with
  | .pairedWord _ => true
  | _ => false

/-- The slot of an instruction; a device event has none. -/
def encode (i : Instr) : Option Slot :=
  match i with
  | .vadd f => some (encodeV 0x00 f)
  | .vsub f => some (encodeV 0x01 f)
  | .vmul f => some (encodeV 0x02 f)
  | .vmulh f => some (encodeV 0x03 f)
  | .vmad f => some (encodeV 0x04 f)
  | .vmin f => some (encodeV 0x05 f)
  | .vmax f => some (encodeV 0x06 f)
  | .vand f => some (encodeV 0x07 f)
  | .vor f => some (encodeV 0x08 f)
  | .vxor f => some (encodeV 0x09 f)
  | .vandn f => some (encodeV 0x0A f)
  | .vshl f => some (encodeV 0x0B f)
  | .vshr f => some (encodeV 0x0C f)
  | .vsra f => some (encodeV 0x0D f)
  | .vrot f => some (encodeV 0x0E f)
  | .vclz f => some (encodeV 0x0F f)
  | .vpop f => some (encodeV 0x10 f)
  | .vbrev f => some (encodeV 0x11 f)
  | .vbfx f => some (encodeV 0x12 f)
  | .vbfi f => some (encodeV 0x13 f)
  | .vsel f => some (encodeV 0x14 f)
  | .vmov f => some (encodeV 0x15 f)
  | .vcmp f => some (encodeV 0x16 f)
  | .vlop3 f => some (encodeV 0x17 f)
  | .vidx f => some (encodeV 0x18 f)
  | .vdot4 f => some (encodeV 0x19 f)
  | .fadd f => some (encodeV 0x20 f)
  | .fsub f => some (encodeV 0x21 f)
  | .fmul f => some (encodeV 0x22 f)
  | .fma f => some (encodeV 0x23 f)
  | .fmin f => some (encodeV 0x24 f)
  | .fmax f => some (encodeV 0x25 f)
  | .fcmp f => some (encodeV 0x26 f)
  | .fclass f => some (encodeV 0x27 f)
  | .frcp f => some (encodeV 0x28 f)
  | .frsq f => some (encodeV 0x29 f)
  | .fsqrt f => some (encodeV 0x2A f)
  | .fdiv f => some (encodeV 0x2B f)
  | .fex2 f => some (encodeV 0x2C f)
  | .flg2 f => some (encodeV 0x2D f)
  | .fsin f => some (encodeV 0x2E f)
  | .fcos f => some (encodeV 0x2F f)
  | .ftnh f => some (encodeV 0x30 f)
  | .frnd f => some (encodeV 0x31 f)
  | .cvt f => some (encodeV 0x32 f)
  | .fscl f => some (encodeV 0x33 f)
  | .fdot2 f => some (encodeV 0x34 f)
  | .qblk f => some (encodeV 0x35 f)
  | .dqblk f => some (encodeV 0x36 f)
  | .shfl f => some (encodeV 0x40 f)
  | .vstep f => some (encodeV 0x41 f)
  | .ballot f => some (encodeV 0x42 f)
  | .vote f => some (encodeV 0x43 f)
  | .matchRows f => some (encodeV 0x44 f)
  | .pfx f => some (encodeV 0x45 f)
  | .spack f => some (encodeV 0x46 f)
  | .spexp f => some (encodeV 0x47 f)
  | .vsort f => some (encodeV 0x48 f)
  | .bsrch f => some (encodeV 0x49 f)
  | .pairedWord f => some (encodePair f)
  | .sadd f => some (encodeS 0x60 f)
  | .ssub f => some (encodeS 0x61 f)
  | .smul f => some (encodeS 0x62 f)
  | .smulh f => some (encodeS 0x63 f)
  | .smad f => some (encodeS 0x64 f)
  | .sdiv f => some (encodeS 0x65 f)
  | .srem f => some (encodeS 0x66 f)
  | .sand f => some (encodeS 0x67 f)
  | .sor f => some (encodeS 0x68 f)
  | .sxor f => some (encodeS 0x69 f)
  | .sshl f => some (encodeS 0x6A f)
  | .sshr f => some (encodeS 0x6B f)
  | .ssra f => some (encodeS 0x6C f)
  | .smin f => some (encodeS 0x6D f)
  | .smax f => some (encodeS 0x6E f)
  | .sclz f => some (encodeS 0x6F f)
  | .spop f => some (encodeS 0x70 f)
  | .sbfx f => some (encodeS 0x71 f)
  | .sbfi f => some (encodeS 0x72 f)
  | .ssel f => some (encodeS 0x73 f)
  | .smov f => some (encodeS 0x74 f)
  | .scmp f => some (encodeS 0x75 f)
  | .saddx f => some (encodeS 0x76 f)
  | .smadx f => some (encodeS 0x77 f)
  | .srdv f => some (encodeS 0x78 f)
  | .swrv f => some (encodeS 0x79 f)
  | .sfadd f => some (encodeS 0x7A f)
  | .sfma f => some (encodeS 0x7B f)
  | .sfcmp f => some (encodeS 0x7C f)
  | .scvt f => some (encodeS 0x7D f)
  | .ld f => some (encodeM 0x80 f)
  | .st f => some (encodeM 0x81 f)
  | .lds f => some (encodeM 0x82 f)
  | .sts f => some (encodeM 0x83 f)
  | .ldp f => some (encodeM 0x84 f)
  | .stp f => some (encodeM 0x85 f)
  | .ldc f => some (encodeM 0x86 f)
  | .atom f => some (encodeM 0x87 f)
  | .cas f => some (encodeM 0x88 f)
  | .atomagg f => some (encodeM 0x89 f)
  | .ldf f => some (encodeM 0x8A f)
  | .stf f => some (encodeM 0x8B f)
  | .pref f => some (encodeM 0x8C f)
  | .marm f => some (encodeM 0x8D f)
  | .mwait f => some (encodeM 0x8E f)
  | .cline f => some (encodeM 0x8F f)
  | .bra f => some (encodeB 0xA0 f)
  | .brc f => some (encodeB 0xA1 f)
  | .brd f => some (encodeB 0xA2 f)
  | .rcv f => some (encodeB 0xA3 f)
  | .loop f => some (encodeB 0xA4 f)
  | .call f => some (encodeB 0xA5 f)
  | .ret f => some (encodeB 0xA6 f)
  | .calli f => some (encodeB 0xA7 f)
  | .exit f => some (encodeB 0xA8 f)
  | .trap f => some (encodeB 0xA9 f)
  | .hret f => some (encodeB 0xAA f)
  | .yield f => some (encodeB 0xAB f)
  | .nop f => some (encodeB 0xAC f)
  | .cgate f => some (encodeB 0xAD f)
  | .cgret f => some (encodeB 0xAE f)
  | .cpy f => some (encodeE 0xB0 f)
  | .cpyg f => some (encodeE 0xB1 f)
  | .cpys f => some (encodeE 0xB2 f)
  | .cpyf f => some (encodeE 0xB3 f)
  | .wmrd f => some (encodeE 0xB4 f)
  | .cpyc f => some (encodeE 0xB5 f)
  | .cpym f => some (encodeE 0xB6 f)
  | .chst f => some (encodeE 0xB7 f)
  | .mloop f => some (encodeE 0xB8 f)
  | .mzero f => some (encodeE 0xB9 f)
  | .mst f => some (encodeE 0xBA f)
  | .mlda f => some (encodeE 0xBB f)
  | .mstat f => some (encodeE 0xBC f)
  | .mqset f => some (encodeE 0xBD f)
  | .mrel f => some (encodeE 0xBE f)
  | .macq f => some (encodeE 0xBF f)
  | .group f => some (encodeE 0xC0 f)
  | .join f => some (encodeE 0xC1 f)
  | .route f => some (encodeE 0xC2 f)
  | .combn f => some (encodeE 0xC3 f)
  | .gstat f => some (encodeE 0xC4 f)
  | .spawn f => some (encodeE 0xC8 f)
  | .qenq f => some (encodeE 0xC9 f)
  | .qdeq f => some (encodeE 0xCA f)
  | .qstl f => some (encodeE 0xCB f)
  | .qput f => some (encodeE 0xCC f)
  | .dcnt f => some (encodeE 0xCD f)
  | .govst f => some (encodeE 0xCE f)
  | .fence f => some (encodeY 0xD0 f)
  | .waitc f => some (encodeY 0xD1 f)
  | .tryw f => some (encodeY 0xD2 f)
  | .rvinit f => some (encodeY 0xD3 f)
  | .rvarr f => some (encodeY 0xD4 f)
  | .rvwait f => some (encodeY 0xD5 f)
  | .setfmt f => some (encodeY 0xD6 f)
  | .rdsr f => some (encodeY 0xD7 f)
  | .wrsr f => some (encodeY 0xD8 f)
  | .carve f => some (encodeY 0xD9 f)
  | .tlbi f => some (encodeY 0xDA f)
  | .cctl f => some (encodeY 0xDB f)
  | .clk f => some (encodeY 0xDC f)
  | .rng f => some (encodeY 0xDD f)
  | .halt f => some (encodeY 0xDE f)
  | .bkpt f => some (encodeY 0xDF f)
  | .issueSelection _ => none
  | .fetchLine _ => none
  | .plotPlacement _ => none
  | .launchDraw _ => none
  | .teamFree _ => none
  | .completionRecord _ => none
  | .depWaitRelease _ => none
  | .operationRetire _ => none
  | .asyncFaultReport _ => none
  | .trapEntry _ => none
  | .watermarkRelease _ => none
  | .fullEmptyRelease _ => none
  | .scoreboardRelease _ => none
  | .copyStart _ => none
  | .copyElementLand _ => none
  | .copyComplete _ => none
  | .poisonMarks _ => none
  | .channelQuiesce _ => none
  | .rvwaitRelease _ => none
  | .trywTimeout _ => none
  | .monitorWake _ => none
  | .mwaitTimeout _ => none
  | .spuriousWake _ => none
  | .matrixGrant _ => none
  | .matrixLeaseExpiry _ => none
  | .matrixCommandStart _ => none
  | .matrixKStep _ => none
  | .matrixCommandComplete _ => none
  | .matrixFreeze _ => none
  | .matrixScanOut _ => none
  | .matrixScanIn _ => none
  | .instanceComplete _ => none
  | .graftApplication _ => none
  | .spillRingWrite _ => none
  | .ingressSelect _ => none
  | .tileClose _ => none
  | .tileStatusWrite _ => none
  | .spawnIntake _ => none
  | .queueOperation _ => none
  | .storeRefill _ => none
  | .qputTarget _ => none
  | .stageEvaluation _ => none
  | .tableFiring _ => none
  | .preemptDecision _ => none
  | .drainTimeout _ => none
  | .plotSave _ => none
  | .plotRestore _ => none
  | .sliceEnd _ => none
  | .sliceStart _ => none
  | .recall _ => none
  | .recallEnd _ => none
  | .gateBudgetExpiry _ => none
  | .meterFold _ => none
  | .droop _ => none
  | .droopRecovery _ => none
  | .coreSlotWrite _ => none
  | .bankOwnerWrite _ => none
  | .clusterSlotWrite _ => none
  | .rotOwnerChange _ => none
  | .firewallWrite _ => none
  | .apertureWindowWrite _ => none
  | .mgmtRegisterWrite _ => none
  | .mbprodWrite _ => none
  | .qdbWrite _ => none
  | .write _ => none
  | .read _ => none
  | .fill _ => none
  | .meters _ => none
  | .report _ => none
  | .resume _ => none
  | .mgmtwr _ => none
  | .mgmtrd _ => none
  | .bar2Inbound _ => none
  | .linkFailure _ => none
  | .coldReset _ => none
  | .functionLevelReset _ => none
  | .getMeasurements _ => none
  | .keyExchange _ => none
  | .linkRecovery _ => none
  | .remoteCopyWrite _ => none
  | .precisionTimeMeasurement _ => none
  | .configurationRequest _ => none
  | .haltRequest _ => none
  | .algorithmNegotiation _ => none

/-- The decoder on an instruction whose bits are numbered as the opcode table numbers them: the low 96 bits of w are a slot with its PT bit clear. -/
def decodeTableWord (_nbits w : Nat) : Option Instr :=
  match decodeSlot false (BitVec.ofNat 96 w) with
  | .ok i => some i
  | .error _ => none

end Sys2Proof
end

