-- ==== Sys2Proof/Machine/State.lean ====
section
/-! DEFINITION. The state of the whole device as plain data: teams, cores, clusters, dies, the governor, the memory of the stacks, the host interface, and State.reset. Every field that the spec names is listed in INVENTORY.md under State. -/

namespace Sys2Proof.Machine

/-- Why the machine stops. -/
inductive Fault where
  /-- Raised by a device event that names a unit the part does not have (a core above 511, a team that is not placed). Safe: no such event happens on the hardware. -/
  | noSuchUnit
  deriving DecidableEq, Repr

/-- Why an instruction has no meaning here. -/
inductive Refusal where
  /-- An instruction the model gives no meaning; raised only by the dispatch. Safe. -/
  | notModelled (mnemonic : String)
  /-- A team instruction is asked for while no quadrant has selected a team (R81). Safe: step never asks for it. -/
  | noTeamSelected
  deriving DecidableEq, Repr

/-- A code address: line address and slot (R31, R78). -/
structure Pc where
  line : DWord
  slot : Nat
  deriving DecidableEq, Repr

/-- Scratchpad of a bed or a bank: bytes that differ from zero, poisoned and full 16-byte granules, all in rising order (R176, R178). -/
structure Scratch where
  cells : List Host.Cell
  pois : List Nat
  full : List Nat
  deriving DecidableEq, Repr

/-- Scratchpad as allocated: zero, clean, empty (R162, R178). -/
def Scratch.empty : Scratch := ⟨[], [], []⟩

/-- The memory of the stacks: bytes that differ from zero and poisoned 32-byte sectors, in rising order (R176). -/
structure Memory where
  cells : List Host.Cell
  pois : List Nat
  deriving DecidableEq, Repr

/-- Whether a list of numbers rises strictly. -/
def rising : List Nat → Bool
  | a :: b :: r => decide (a < b) && rising (b :: r)
  | _ => true
/-- Whether a list of cells is canonical: addresses rise strictly and no byte is zero. -/
def cellsWf : List Host.Cell → Bool
  | [] => true
  | [c] => c.2 != 0
  | c :: d :: r => c.2 != 0 && decide (c.1 < d.1) && cellsWf (d :: r)
/-- The canonical form of the stacks' memory. -/
def Memory.wf (m : Memory) : Bool := cellsWf m.cells && rising m.pois
/-- The canonical form of a scratchpad. -/
def Scratch.wf (m : Scratch) : Bool := cellsWf m.cells && rising m.pois && rising m.full

/-- One entry of the reconvergence stack (R76). -/
structure RsEntry where
  join : Pc
  m : RowMask
  f : Word
  t : RowMask
  pt : Pc
  v : Bool
  deriving DecidableEq, Repr

/-- Where a team was placed (R12, R72): model identities of its launch and plot, bed and place, TEAMIX, core and quadrant. -/
structure Place where
  launch : Nat
  plot : Nat
  bed : Nat
  place : Nat
  teamix : Nat
  core : Nat
  quad : Nat
  deriving DecidableEq, Repr

/-- A team's footprint (R70) and its TEAMROWS. -/
structure Foot where
  rows : Nat
  alloc : Nat
  vregs : Nat
  sregs : Nat
  scratch : Nat
  deriving DecidableEq, Repr

/-- What placement stamps on a team (R14, R28, R72, R281, R302). -/
structure Stamp where
  entry : DWord
  entrySlot : Nat
  arg : DWord
  plotix : DWord
  nest : Nat
  priv : Bool
  home : Nat
  role : Nat
  deriving DecidableEq, Repr

/-- The register files of a team (R68): vector columns indexed by register then row; p and q without index 7. -/
structure Regs where
  v : List (List Elem)
  s : List Elem
  p : List RowMask
  q : BitVec 7
  deriving DecidableEq, Repr

/-- The control state of a team (R68, R73, R76-R78, R108): spilled counts the entries spilled to scratchpad. -/
structure Flow where
  pc : Pc
  mask : RowMask
  retired : RowMask
  fmt : Word
  did : Nat
  rs : List RsEntry
  spilled : Nat
  cs : List Pc
  entered : Bool
  deriving DecidableEq, Repr

/-- One pending asynchronous fault (R189). -/
structure Pend where
  code : Nat
  src : Nat
  addr : DWord
  dcause : Nat
  deriving DecidableEq, Repr

/-- The trap registers of a team (R190-R197, R114, R172, R302): hpc and regpc are the 64-bit values of R192. -/
structure Trap where
  hvec : Word
  hflt : Word
  hpc : DWord
  hmask : RowMask
  hmaskIn : RowMask
  hfrow : RowMask
  faddr : DWord
  trapArg : Word
  inHandler : Bool
  inFmt : Word
  inRs : Nat
  inCs : Nat
  inWait : Bool
  dcause : Nat
  deriving DecidableEq, Repr

/-- The region registers and pending faults of a team (R189, R197). -/
structure Region where
  hrgn : Word
  regpc : DWord
  valid : Bool
  rs : Nat
  cs : Nat
  pend : List Pend
  lost : Bool
  lostCount : Nat
  deriving DecidableEq, Repr

/-- What CGATE saved (R306): the sealed registers whole, the granules of the callee's scratch area for each 32-row group (R305), DID, FMT, mask, depths, the CGATE's slot, the callee's footprint and the ac at which the budget ends. -/
structure GateCtx where
  regs : Regs
  grans : List (List Nat)
  vregs : Nat
  sregs : Nat
  did : Nat
  fmt : Word
  mask : RowMask
  rs : Nat
  cs : Nat
  at_ : Pc
  gate : Nat
  deadline : Nat
  deriving DecidableEq, Repr

/-- One engine operation issued by a team and not yet retired (R18-R20): class, identity, whether it has completed. -/
structure Op where
  uid : Nat
  cls : Nat
  done : Bool
  deriving DecidableEq, Repr

/-- An armed monitor (R186): the line, whether it lies in scratchpad (0 global, 1 the bed, 2 the plot banks), and a held wake. -/
structure Monitor where
  space : Nat
  line : Nat
  woke : Option Nat
  deriving DecidableEq, Repr

/-- Why a team is held (R79); released: what it waited for has come and its instruction has yet to issue again. -/
inductive Hold where
  | waitc | tryw | rvarr | rvwait | fence | mwait | engineQueue | scoreboard | watermark | fullEmpty | fifo
  | macq | mqset | graft | carve | quiesce | intake | interlock | released
  deriving DecidableEq, Repr

/-- Synchronisation state of a team (R118, R120, R128, R186, R187): want holds WANT(n); tryw and mwaitAt the counts of a wait in progress. -/
structure Sync where
  want : List (BitVec 24)
  mon : Option Monitor
  mwcause : Nat
  tryw : Option Nat
  trywFrom : Nat
  mwaitAt : Option Nat
  lastSpurious : Option Nat
  rvLive : Bool
  deriving DecidableEq, Repr

/-- A result that a later pass may find unreadable (R53-R55): the register, the team time from which it is readable, whether it is a fixed-latency result, and the column before it. -/
structure PendW where
  reg : Nat
  ready : Nat
  fixed : Bool
  old : List Elem
  deriving DecidableEq, Repr

/-- Whether and why a team does not run (R22, R133, R284, R313). -/
inductive Status where
  | running | haltSlice | haltDebug | haltRecall | haltSave | exited
  deriving DecidableEq, Repr

/-- Where a scratchpad range lies: the bed of a plot, or the cluster's plot banks (R162). -/
inductive SpHome where
  | bed (plot : Nat) (bed : Nat) | banks
  deriving DecidableEq, Repr

/-- A plain scratchpad access that has issued and is held (R213): where it lies, its bytes, and whether it writes. -/
structure HeldAcc where
  home : SpHome
  off : Nat
  bytes : Nat
  write : Bool
  deriving DecidableEq, Repr

/-- Scheduling state of a team (R52-R57, R79-R82, R112, R195, R213, R285): now is the team's own count of ac; burst the ac of the bursts of passes its last instruction has still to issue and gap what must pass after the last; readyAt the ac from which it may be selected; wish the halts that wait for a boundary; waits the accesses of its held instruction; landing how many of pend, from the head, are results of the instruction whose bursts are still to issue; since the first identity not yet given when its held instruction first issued, haltAt the ac of its last halt. -/
structure Sched where
  now : Nat
  pend : List PendW
  burst : List Nat
  gap : Nat
  lastIssue : Nat
  readyAt : Nat
  yielded : Bool
  status : Status
  hold : Option Hold
  waits : List HeldAcc
  wish : List Status
  landing : Nat
  since : Nat
  haltAt : Nat
  deriving DecidableEq, Repr

/-- Result of a graft instance waiting to be applied to a team (R332): rows to retire, columns to write (register, row, element), and the status values. -/
structure GraftResult where
  retire : RowMask
  writes : List (Nat × Nat × Elem)
  faulted : Bool
  outn : Nat
  spilled : Nat
  dropped : Nat
  op : Nat
  deriving DecidableEq, Repr

/-- Graft status of a team (R328, R332, R348): open is the operation not yet applied. -/
structure GraftSt where
  kind : Nat
  last : Nat
  inrows : Nat
  outn : Nat
  spilled : Nat
  dropped : Nat
  nans : Nat
  seq : Nat
  pending : Option Nat
  result : Option GraftResult
  deriving DecidableEq, Repr

/-- A line that a team has fetched (R35): its address, the domain it was fetched under, its 64 bytes as one number, the physical address it came from (none for a line that was not fetched by the device), and whether it failed its parity check twice. -/
structure FetchedLine where
  addr : DWord
  did : Nat
  bits : BitVec 512
  pa : Option Nat
  bad : Bool
  deriving DecidableEq, Repr

/-- Matrix status of a team (R255). -/
structure MatSt where
  last : Nat
  kdone : Nat
  deriving DecidableEq, Repr

/-- A team (R68); grans holds, for each 32-row group, the 1 KiB granules of its quadrant's carve that its vector registers take (R70, R299). -/
structure Team where
  tid : Nat
  place : Place
  foot : Foot
  grans : List (List Nat)
  stamp : Stamp
  regs : Regs
  flow : Flow
  schk : Word
  trap : Trap
  region : Region
  gate : Option GateCtx
  gcause : Nat
  ops : List Op
  sync : Sync
  sched : Sched
  graft : GraftSt
  mat : MatSt
  line : Option FetchedLine
  deriving DecidableEq, Repr

/-- A rendezvous point (R120): arrived holds TEAMIX values in live mode, count the arrivals in count mode; bound the teams whose bound arrival waits for the next phase, with their poison. -/
structure Point where
  live : Bool
  expect : Nat
  arrived : List Nat
  count : Nat
  phase : BitVec 24
  poison : Bool
  bound : List (Nat × Bool)
  deriving DecidableEq, Repr

/-- How a launch came about (R270, R340, R346). -/
inductive Origin where
  | queue (q : Nat) | spawn (cluster : Nat) | table (entry : Nat) | join (cluster : Nat) (inst : Nat) | tile (die : Nat)
  deriving DecidableEq, Repr

/-- A launch packet, decoded (R270). -/
structure Packet where
  entry : DWord
  entrySlot : Nat
  rows : Nat
  vregs : Nat
  sregs : Nat
  scratch : Nat
  beds : Nat
  tpb : Nat
  prod : Word
  plots : Nat
  chan : BitVec 16
  idem : Bool
  work : Nat
  dep : Word
  nstage : Nat
  deriving DecidableEq, Repr

/-- The addresses of a launch (R270). -/
structure PacketAddr where
  arg : DWord
  crec : DWord
  cap : DWord
  tag : DWord
  deriving DecidableEq, Repr

/-- A token in a tile or on its way to one (R344-R346). -/
structure Token where
  dom : Nat
  t : Nat
  rank : Nat
  group : Nat
  logits : List Word
  payload : List Elem
  wds : List Word
  nest : Nat
  priv : Bool
  op : Nat
  tid : Nat
  slot : Nat
  expert : Nat
  deriving DecidableEq, Repr

/-- A launch in progress (R272, R273): next is the next plot index to place, wait whether it is held by its WAIT counter, spawned the rows a JOIN or a tile delivers, again the indices of plots to start afresh. -/
structure Launch where
  uid : Nat
  origin : Origin
  dom : Nat
  priv : Bool
  nest : Nat
  pkt : Packet
  addr : PacketAddr
  next : Nat
  wait : Bool
  ended : Nat
  fcode : Nat
  fhflt : Word
  fpc : DWord
  pending : Nat
  code : Nat
  spawned : List (List Elem)
  tokens : List Token
  again : List Nat
  deriving DecidableEq, Repr

/-- A line of an L1 (R165): the bytes, which are valid and which dirty, the scope of its newest write, the poison of its sectors, and the sectors into which poison was stored that is not yet performed (R176). -/
structure L1Line where
  line : Nat
  dom : Nat
  scope : Nat
  bytes : BitVec 1024
  valid : BitVec 128
  dirty : BitVec 128
  pois : BitVec 4
  hurt : BitVec 4
  deriving DecidableEq, Repr

/-- A cached translation (R175): the leaf entry that a walk found for a page or a block. -/
structure TlbEntry where
  dom : Nat
  page : Nat
  block : Bool
  entry : DWord
  deriving DecidableEq, Repr

/-- One scoreboard entry (R23, R25): issue order, command, domain, kind and granule-rounded range. -/
structure SbEntry where
  seq : Nat
  op : Nat
  dom : Nat
  write : Bool
  copy : Bool
  home : SpHome
  lo : Nat
  hi : Nat
  deriving DecidableEq, Repr

/-- State of a copy (R229). -/
inductive CopySt where
  | queued | running | frozen | marking | landed
  deriving DecidableEq, Repr

/-- A copy of a channel (R205-R211): its record and dimensions (count, scratchpad pitch, global pitch) as captured, the next element, how it stands, how far poison marks have come, the granules or sectors in which it landed poison, and whether it has been resumed and reads its source afresh (R225, R228). -/
structure Copy where
  op : Nat
  seq : Nat
  tid : Nat
  plot : Nat
  bed : Nat
  dom : Nat
  priv : Bool
  kind : Nat
  wds : List Word
  dims : List (Nat × Nat × Int)
  next : Nat
  st : CopySt
  cause : Nat
  faddr : DWord
  rv : Nat
  outcome : Nat
  faultOnFreeze : Bool
  mark : Nat
  hurt : List Nat
  fresh : Bool
  deriving DecidableEq, Repr

/-- A streamer channel (R203, R229): its copies oldest first, LAST, DONE, and the words that describe the last completed copy. -/
structure Channel where
  q : List Copy
  last : Nat
  done : Nat
  desc : List Word
  quiesced : Bool
  deriving DecidableEq, Repr

/-- A bed of a placed plot (R11, R128, R162, R203): banks and ext name the bank of each 32 KiB of its footprints and of its extension, 96 for one that is saved; parked holds its channels while they are saved (R228, R314), by number. -/
structure Bed where
  core : Nat
  mem : Scratch
  banks : List Nat
  ext : List Nat
  chans : BitVec 16
  producer : Nat
  teams : Nat
  parked : List (Nat × Channel)
  deriving DecidableEq, Repr

/-- Where a plot stands (R284): progress of drain holds the ac of the decision. -/
inductive PlotSt where
  | resident | draining (since : Nat) | saving | saved | done
  deriving DecidableEq, Repr

/-- A bed that is none. -/
def Bed.none : Bed := ⟨0, Scratch.empty, [], [], 0, 0, 0, []⟩

/-- A placed plot (R11, R120, R281, R283, R294): stages is the stage table read at its placement (RING, HIGH, LOW, MINTEAMS), haltAt is the ac of its halt for a save, banks the plot scratchpad of its cluster as it was saved. -/
structure Plot where
  uid : Nat
  launch : Nat
  index : Nat
  cluster : Nat
  scratch : Nat
  beds : List Bed
  points : List Point
  stages : List (DWord × Nat × Nat × Nat)
  moves : Nat
  run : Nat
  runFrom : Option Nat
  evalAt : Nat
  st : PlotSt
  quiesced : Bool
  haltAt : Nat
  banks : List (Nat × Scratch)
  deriving DecidableEq, Repr

/-- An item of a metadata queue: a delivered byte with its poison, or a poison mark that covers n bytes (R246). -/
inductive MqItem where
  | byte (b : Byte) (poison : Bool) | mark (n : Nat)
  deriving DecidableEq, Repr

/-- A matrix command (R241, R248): kind 0 MLOOP, 1 MZERO, 2 MST, 3 MLDA; doomed when R251 or R297 ends it. -/
structure MCmd where
  op : Nat
  kind : Nat
  acc : Nat
  tid : Nat
  dom : Nat
  wds : List Word
  fmt : Word
  regMeta : List (List DWord)
  kdone : Nat
  started : Bool
  status : Nat
  finished : Bool
  doomed : Bool
  deriving DecidableEq, Repr

/-- A request for the matrix unit (R237). -/
structure MReq where
  tid : Nat
  dom : Nat
  since : Nat
  deriving DecidableEq, Repr

/-- The frozen state of a displaced or saved holder (R256, R257). -/
structure MImage where
  tid : Nat
  dom : Nat
  base : Nat
  acc : List (List (Nat × Elem))
  mq : List (List MqItem)
  qowner : Nat
  q : List MCmd
  seed : Nat
  emerg : Bool
  releasing : Bool
  deriving DecidableEq, Repr

/-- A core's matrix unit (R236): accumulator words that are not zero and clean, by number 256 m + n; for the lease (R239), leaseUsed is the work of the holder's domain by the figures of R250, leaseHeld the time the unit held its commands up to the ac leaseAt. -/
structure Matrix where
  acc : List (List (Nat × Elem))
  holder : Option Nat
  releasing : Bool
  q : List MCmd
  mq : List (List MqItem)
  qowner : Nat
  lastDom : Nat
  reqs : List MReq
  credit : List (Nat × Int)
  leaseUsed : Nat
  leaseHeld : Nat
  leaseAt : Nat
  frozen : Bool
  images : List MImage
  ksteps : List (Nat × Nat)
  deriving DecidableEq, Repr

/-- The slice rotation of a core (R312, R315): the slot in its slice, the launch-clock nanosecond at which the slice ends, the slot whose turn came last, and recalls that run: borrower's slot and owner's slot. -/
structure Slice where
  current : Option Nat
  endsAt : Nat
  last : Nat
  recalling : List (Nat × Nat)
  deriving DecidableEq, Repr

/-- A core (R299, R165, R175, R203, R23, R236, R81): credit is C_d of each quadrant. -/
structure Core where
  slots : List (List Word)
  credit : List (List (Nat × Int))
  l1 : List L1Line
  tlb : List TlbEntry
  stlb : List TlbEntry
  chans : List Channel
  sb : List SbEntry
  mx : Matrix
  slice : Slice
  issue : List (Nat × Nat)
  deriving DecidableEq, Repr

/-- Mode of a cluster bank (R168). -/
inductive BankMode where
  | plot | cache | fifo
  deriving DecidableEq, Repr

/-- A line held by a segment (R169). -/
structure SegLine where
  line : Nat
  dom : Nat
  way : Nat
  deriving DecidableEq, Repr

/-- A cluster bank (R168-R171): quiesced holds the domain that quiesced it; seg is in true LRU order, newest first. -/
structure Bank where
  mode : BankMode
  owner : Nat
  quiesced : Option Nat
  mem : Scratch
  fifo : List (BitVec 128 × Bool)
  seg : List SegLine
  deriving DecidableEq, Repr

/-- A team's arrival at a graft instance (R329): each row with its identifier, key, columns and role b. -/
structure Deposit where
  tid : Nat
  op : Nat
  rows : List (Nat × Nat × List Elem × List Elem × Bool)
  deriving DecidableEq, Repr

/-- A graft instance (R328-R331): ready orders the complete ones. -/
structure Instance where
  uid : Nat
  plot : Nat
  scope : Nat
  seq : Nat
  kind : Nat
  vop : Nat
  mod8 : Byte
  wds : List Word
  dom : Nat
  priv : Bool
  nest : Nat
  entry : DWord
  deposits : List Deposit
  used : Nat
  overflow : Bool
  ready : Option Nat
  deriving DecidableEq, Repr

/-- What a JOIN still owes (R338, R340, R341): the ring rows to write, the number written, the credited rows, the child launch, the rows dropped, the teams not yet applied to, the operations (team, operation) that wait, CREC when no row runs, and the child launch itself while it waits for a place in the intake and among the launches in progress. -/
structure Spill where
  inst : Nat
  dom : Nat
  priv : Bool
  core : Nat
  base : DWord
  slotBytes : Nat
  next : Nat
  rows : List (List Elem)
  credited : Nat
  launch : Nat
  dropped : Nat
  waiting : List Nat
  ops : List (Nat × Nat)
  crec : DWord
  child : Option Launch
  deriving DecidableEq, Repr

/-- A cluster (R301, R169, R172, R163, R276, R328). -/
structure Cluster where
  banks : List Bank
  slots : List (List Word)
  hits : List (Nat × Nat)
  misses : List (Nat × Nat)
  tlb : List TlbEntry
  cc : List (Nat × Nat × Byte)
  intake : List Nat
  insts : List Instance
  spills : List Spill
  deriving DecidableEq, Repr

/-- A tile (R345, R346): packet holds the bytes of its task's packet once it has closed, none of them when they could not be read. -/
structure Tile where
  key : Nat
  dom : Nat
  epkt : DWord
  expert : Nat
  tokens : List Token
  openedAt : Nat
  close : Nat
  packet : Option (List Byte)
  deriving DecidableEq, Repr

/-- A die (R131, R364, R363, R345, R367); recalls holds the recalls that wait for one of the 20 to end (R316): core, borrower's slot, owner's slot, oldest first. -/
structure Die where
  acOffset : Nat
  firewall : Word
  portUp : List Bool
  ingress : List Token
  tiles : List Tile
  droops : Nat
  stretched : Bool
  recalls : List (Nat × Nat × Nat)
  deriving DecidableEq, Repr

/-- A queue entry: its bytes (R277) and whether one is poisoned. -/
abbrev QEntry := List Byte × Bool

/-- A hardware queue (R277): entries on die, head and tail of the ring in memory, and, for a launch queue whose ring the host fills, the function and QDB slot it is bound to (slot 64: none) with the host's tail and the consumer index (R356). -/
structure Queue where
  id : Nat
  owner : Nat
  kind : Nat
  esize : Nat
  gen : BitVec 27
  privileged : Bool
  base : DWord
  cap : Nat
  store : List QEntry
  head : Nat
  tail : Nat
  hostTail : Nat
  hostHead : Nat
  fn : Nat
  qdb : Nat
  vector : Option Nat
  deriving DecidableEq, Repr

/-- A queue operation that waits for the controller (R279); dev is the device on which a QPUT's queue lies (R292). -/
structure QOp where
  kind : Nat
  tid : Nat
  op : Nat
  queue : Nat
  owner : Nat
  rbase : Nat
  addr : DWord
  dest : DWord
  len : Nat
  dom : Nat
  priv : Bool
  dev : Nat
  deriving DecidableEq, Repr

/-- An entry of the time-triggered table (R286): prev is the launch of the previous instance, held whether one is deferred, nextK the next slot. -/
structure TableEntry where
  id : Nat
  words : List Word
  prev : Option Nat
  held : Bool
  nextK : Nat
  deriving DecidableEq, Repr

/-- A part of a saved context (R317): whose it is, where it stands, the seed of its opaque bytes, and whether it went to the emergency slot (R318). -/
structure SavedPart where
  plot : Nat
  tid : Option Nat
  kind : Nat
  bank : Nat
  base : Nat
  size : Nat
  seed : Nat
  emerg : Bool
  deriving DecidableEq, Repr

/-- The governor and the queue controller (R273, R277, R279, R286, R317). -/
structure Governor where
  launches : List Launch
  plots : List Plot
  queues : List Queue
  waiting : List QOp
  sent : List QOp
  deficit : List (Nat × Int)
  drawDeficit : List (Nat × Int)
  table : List TableEntry
  weights : List (Nat × Nat)
  counters : List (Nat × Nat × Word)
  saved : List SavedPart
  deriving DecidableEq, Repr

/-- A function's mailbox and SPDM state (R356, R369); doors holds the writes of QDB registers that wait for commands published before them (R359): slot, value, and how many of those are still to be applied. -/
structure Mailbox where
  fn : Nat
  ringLo : Word
  ringHi : Word
  ctl : Word
  prod : Word
  cons : Word
  err : Word
  pending : List HostCmd
  doors : List (Nat × Nat × Nat)
  negotiated : Bool
  ide : Bool
  deriving DecidableEq, Repr

/-- What domain 0 holds for a domain (R173, R320, R361, R362). -/
structure Domain where
  id : Nat
  root : Nat
  bar2Base : Nat
  bar2Size : Nat
  bar2Admit : List (BitVec 16)
  windows : List (List Word)
  meters : List Nat
  deriving DecidableEq, Repr

/-- A message the device sent to the outside (R355, R361, R363): requester function, address, bytes. Kinds: 1 posted write, 2 debug halt report, 3 QPUT, 4 answer to a QPUT, 5 MSI-X message, 6 completion with data, 7 Unsupported Request, 8 Request Retry Status, 9 Device Readiness Status, 10 attestation answer, 11 read request (bytes hold the length). -/
structure BusMsg where
  fn : Nat
  kind : Nat
  addr : Nat
  bytes : List Byte
  deriving DecidableEq, Repr

/-- A fault an engine has to record against a team (R189). -/
structure Report where
  tid : Nat
  pend : Pend
  deriving DecidableEq, Repr

/-- Management state of the device (R303, R305, R318, R321, R354, R366, R368, R131): rot and gates list entries that are not zero; emerg is the emergency region's base; mbTurn the function whose mailbox was served last; foldNs the launch-clock time of the last fold of the meters. -/
structure Manage where
  boot : Nat
  ready : Bool
  coldResets : Nat
  rot : List (Nat × BitVec 16)
  gates : List (Nat × List Word)
  domains : List Domain
  mailboxes : List Mailbox
  mbTurn : Nat
  linkIde : Bool
  emerg : DWord
  foldNs : Nat
  deriving DecidableEq, Repr

/-- Clocks of the device (R3, R131): ac counts arithmetic cycles; ns is the launch clock in nanoseconds; slew the correction still to be spread. -/
structure Clock where
  ac : Nat
  ns : Nat
  frac : Nat
  slew : Int
  deriving DecidableEq, Repr

/-- An uncorrectable error of the arrays or of memory (R176, R201, R318): in a 32-byte sector of the stacks, a granule of a bed or of a cluster bank, a sector of an L1 line, a vector element, a scalar, an accumulator word, or a page of the stacks that takes no more writes. -/
inductive SoftError where
  | sector (n : Nat)
  | bed (plot bed granule : Nat)
  | bank (cluster bank granule : Nat)
  | l1 (core dom line sector : Nat)
  | vector (tid reg row : Nat)
  | scalar (tid reg : Nat)
  | acc (core which word : Nat)
  | page (n : Nat)
  deriving DecidableEq, Repr

/-- The machine. agenda, soft, focus, free, log, nextQuad and uid are the model's own fields: the events due, the errors that strike the arrays next, the team whose instruction executes, the counter of free values, what the device sent, the fair rotation over quadrants, and fresh identities. badPages lists the pages whose writes fail with a memory error. -/
structure State where
  agenda : List Instr
  soft : List SoftError
  focus : Option Nat
  free : Nat
  uid : Nat
  nextQuad : Nat
  log : List BusMsg
  clock : Clock
  mem : Memory
  badPages : List Nat
  teams : List Team
  cores : List Core
  clusters : List Cluster
  dies : List Die
  gov : Governor
  mgmt : Manage
  reports : List Report
  deriving DecidableEq, Repr

/-- A channel at placement (R229). -/
def Channel.reset : Channel := ⟨[], 0, 0, List.replicate 8 0, false⟩
/-- A matrix unit that holds nothing (R236). DESIGN CHOICE, log 12: the accumulators and KSTEPS zero, the last domain served and the owner of the queue domain 0. -/
def Matrix.reset : Matrix :=
  { acc := [[], []], holder := none, releasing := false, q := [], mq := [[], [], [], []], qowner := 0, lastDom := 0, reqs := [], credit := [],
    leaseUsed := 0, leaseHeld := 0, leaseAt := 0, frozen := false, images := [], ksteps := [] }
/-- A core after bring-up: every slot invalid (R366). -/
def Core.reset : Core :=
  { slots := List.replicate 8 (List.replicate 16 0), credit := List.replicate 4 [], l1 := [], tlb := [], stlb := [],
    chans := List.replicate 16 Channel.reset, sb := [], mx := Matrix.reset,
    slice := ⟨none, 0, 7, []⟩, issue := [] }
/-- A cluster bank after bring-up: plot-scratchpad mode, no owner, zero, empty (R366). -/
def Bank.reset : Bank := ⟨.plot, 0, none, Scratch.empty, [], []⟩
/-- A cluster after bring-up (R366). -/
def Cluster.reset : Cluster :=
  { banks := List.replicate 64 Bank.reset, slots := List.replicate 8 (List.replicate 68 0), hits := [], misses := [], tlb := [], cc := [],
    intake := [], insts := [], spills := [] }
/-- A die after bring-up: the firewall reads zero (R366). -/
def Die.reset : Die := ⟨0, 0, [true, true, true], [], [], 0, false, []⟩
/-- The governor after bring-up: nothing launched, no queue configured (R366). -/
def Governor.reset : Governor := ⟨[], [], [], [], [], [], [], [], [], [], []⟩
/-- The management state after bring-up, ready (R366 step 5). -/
def Manage.reset : Manage := ⟨5, true, 1, [], [], [], [], 63, false, 0, 0⟩

/-- The device right after cold reset and bring-up (R366). -/
def State.reset : State :=
  { agenda := [], soft := [], focus := none, free := 0, uid := 1, nextQuad := 0, log := [], clock := ⟨0, 0, 0, 0⟩, mem := ⟨[], []⟩, badPages := [], teams := [],
    cores := List.replicate 512 Core.reset, clusters := List.replicate 128 Cluster.reset, dies := List.replicate 8 Die.reset,
    gov := Governor.reset, mgmt := Manage.reset, reports := [] }

end Sys2Proof.Machine
end

