-- ==== Sys2Proof/Machine/Mem.lean ====
section
/-! DEFINITION. Plain operations on lists, cells and memory, the units of the state by number, translation and ownership (R173-R175, R303, R361), cluster segments (R166, R169, R171, R322, R323) and the L1 (R165-R167). -/

namespace Sys2Proof.Machine

/-- The value at an index of a list of values by number. -/
def agetD {α : Type} (l : List (Nat × α)) (k : Nat) (d : α) : α :=
  match l.find? (fun e => e.1 == k) with
  | some e => e.2
  | none => d
/-- Set the value at a key, keeping one entry for each key. -/
def aput {α : Type} : List (Nat × α) → Nat → α → List (Nat × α)
  | [], k, v => [(k, v)]
  | e :: r, k, v => if e.1 == k then (k, v) :: r else e :: aput r k v
/-- Remove a key. -/
def adel {α : Type} (l : List (Nat × α)) (k : Nat) : List (Nat × α) := l.filter fun e => e.1 != k
/-- Apply a function at one index of a list. -/
def amod {α : Type} (l : List α) (i : Nat) (f : α → α) : List α := l.modify i f

/-- Insert into a rising list. -/
def setIns : List Nat → Nat → List Nat
  | [], k => [k]
  | a :: r, k => if k < a then k :: a :: r else if k = a then a :: r else a :: setIns r k
/-- Remove from a rising list. -/
def setDel (l : List Nat) (k : Nat) : List Nat := l.filter fun a => a != k
/-- Put a number into a rising list or take it out. -/
def setTo (l : List Nat) (k : Nat) (b : Bool) : List Nat := if b then setIns l k else setDel l k

/-- What an unlisted address reads as: zero, which R366 writes to every stack and R162 to scratchpad. -/
def unlisted : Byte := 0
/-- The byte at an address of a canonical list of cells. -/
def cellGet : List Host.Cell → Nat → Byte
  | [], _ => unlisted
  | c :: r, a => if c.1 = a then c.2 else cellGet r a
/-- Insert a cell before the first of a higher address. -/
def cellIns : List Host.Cell → Host.Cell → List Host.Cell
  | [], x => [x]
  | c :: r, x => if x.1 < c.1 then x :: c :: r else c :: cellIns r x
/-- Write one byte, keeping the list canonical: what an unlisted address reads as is not listed. -/
def cellPut (l : List Host.Cell) (a : Nat) (b : Byte) : List Host.Cell :=
  let r := l.filter fun c => c.1 != a
  if b = unlisted then r else cellIns r (a, b)
/-- Remove the cells of a range: they read as zero. -/
def cellZero (l : List Host.Cell) (lo n : Nat) : List Host.Cell := l.filter fun c => c.1 < lo || lo + n ≤ c.1
/-- Read n bytes. -/
def cellRead (l : List Host.Cell) (a n : Nat) : List Byte := (List.range n).map fun k => cellGet l (a + k)
/-- Write bytes one after another. -/
def cellWrite : List Host.Cell → Nat → List Byte → List Host.Cell
  | l, _, [] => l
  | l, a, b :: r => cellWrite (cellPut l a b) (a + 1) r

/-- Bytes as a number, least significant first (R4). -/
def bytesNat : List Byte → Nat
  | [] => 0
  | b :: r => b.toNat + 256 * bytesNat r
/-- The n low bytes of a number, least significant first (R4). -/
def natBytes : Nat → Nat → List Byte
  | 0, _ => []
  | n + 1, x => BitVec.ofNat 8 x :: natBytes n (x / 256)

/-- Granules or sectors of a given size that a range of n bytes touches. -/
def unitsOf (size a n : Nat) : List Nat := if n = 0 then [] else (List.range ((a + n - 1) / size - a / size + 1)).map (a / size + ·)
/-- Units of a given size that a range covers whole. -/
def unitsWhole (size a n : Nat) : List Nat := (unitsOf size a n).filter fun u => a ≤ u * size && u * size + size ≤ a + n

/-- Scratchpad: n bytes. -/
def Scratch.read (m : Scratch) (a n : Nat) : List Byte := cellRead m.cells a n
/-- Whether a byte of the range lies in a poisoned granule (R176). -/
def Scratch.poisoned (m : Scratch) (a n : Nat) : Bool := (unitsOf 16 a n).any m.pois.contains
/-- Write bytes: a poisoned write poisons its granules, a clean write clears the granules it covers whole (R176). -/
def Scratch.write (m : Scratch) (a : Nat) (bs : List Byte) (poison : Bool) : Scratch :=
  { m with cells := cellWrite m.cells a bs,
           pois := if poison then (unitsOf 16 a bs.length).foldl setIns m.pois
                   else (unitsWhole 16 a bs.length).foldl setDel m.pois }
/-- Set or clear the full bit of a granule (R178). -/
def Scratch.setFull (m : Scratch) (g : Nat) (b : Bool) : Scratch := { m with full := setTo m.full g b }
/-- A range returned to zero, clean and empty (R162, R128). -/
def Scratch.zero (m : Scratch) (lo n : Nat) : Scratch :=
  { cells := cellZero m.cells lo n, pois := m.pois.filter fun g => !(lo ≤ g * 16 && g * 16 < lo + n),
    full := m.full.filter fun g => !(lo ≤ g * 16 && g * 16 < lo + n) }

/-- Stack memory: n bytes at a physical address. -/
def Memory.read (m : Memory) (a n : Nat) : List Byte := cellRead m.cells a n
/-- Whether a byte of the range lies in a poisoned sector (R176). -/
def Memory.poisoned (m : Memory) (a n : Nat) : Bool := (unitsOf 32 a n).any m.pois.contains
/-- Write bytes, with poison by sector (R176). -/
def Memory.write (m : Memory) (a : Nat) (bs : List Byte) (poison : Bool) : Memory :=
  { cells := cellWrite m.cells a bs,
    pois := if poison then (unitsOf 32 a bs.length).foldl setIns m.pois else (unitsWhole 32 a bs.length).foldl setDel m.pois }
/-- Mark or clear one sector. -/
def Memory.mark (m : Memory) (sector : Nat) (b : Bool) : Memory := { m with pois := setTo m.pois sector b }
/-- A page written with zeros and its poison cleared (R304). -/
def Memory.zero (m : Memory) (lo n : Nat) : Memory :=
  { cells := cellZero m.cells lo n, pois := m.pois.filter fun g => !(lo ≤ g * 32 && g * 32 < lo + n) }

/-! ## Units by number -/

/-- A team by its identity. -/
def State.team? (s : State) (tid : Nat) : Option Team := s.teams.find? fun t => t.tid == tid
/-- Put a team back. -/
def State.putTeam (s : State) (t : Team) : State := { s with teams := s.teams.map fun u => if u.tid == t.tid then t else u }
/-- A core by number. -/
def State.core (s : State) (c : Nat) : Core := s.cores.getD c Core.reset
/-- Change one core. -/
def State.modCore (s : State) (c : Nat) (f : Core → Core) : State := { s with cores := s.cores.modify c f }
/-- A cluster by number. -/
def State.cluster (s : State) (c : Nat) : Cluster := s.clusters.getD c Cluster.reset
/-- Change one cluster. -/
def State.modCluster (s : State) (c : Nat) (f : Cluster → Cluster) : State := { s with clusters := s.clusters.modify c f }
/-- A die by number. -/
def State.die (s : State) (d : Nat) : Die := s.dies.getD d Die.reset
/-- Change one die. -/
def State.modDie (s : State) (d : Nat) (f : Die → Die) : State := { s with dies := s.dies.modify d f }
/-- A plot by its identity. -/
def State.plot? (s : State) (p : Nat) : Option Plot := s.gov.plots.find? fun x => x.uid == p
/-- Change the governor. -/
def State.modGov (s : State) (f : Governor → Governor) : State := { s with gov := f s.gov }
/-- Put a plot back. -/
def State.putPlot (s : State) (p : Plot) : State :=
  s.modGov fun g => { g with plots := g.plots.map fun x => if x.uid == p.uid then p else x }
/-- A launch by its identity. -/
def State.launch? (s : State) (l : Nat) : Option Launch := s.gov.launches.find? fun x => x.uid == l
/-- Put a launch back. -/
def State.putLaunch (s : State) (l : Launch) : State :=
  s.modGov fun g => { g with launches := g.launches.map fun x => if x.uid == l.uid then l else x }
/-- The cluster of a core (R1). -/
def clusterOf (core : Nat) : Nat := core / 4
/-- The die of a core (R1). -/
def dieOf (core : Nat) : Nat := core / 64
/-- A domain's management settings when domain 0 has set none. -/
def Domain.reset (d : Nat) : Domain := ⟨d, 0, 0, 0, [], List.replicate 16 (List.replicate 5 0), List.replicate 7 0⟩
/-- A domain's management settings. -/
def State.domain (s : State) (d : Nat) : Domain := (s.mgmt.domains.find? fun x => x.id == d).getD (Domain.reset d)
/-- Change the management state. -/
def State.modMgmt (s : State) (f : Manage → Manage) : State := { s with mgmt := f s.mgmt }
/-- Put a domain's settings back. -/
def State.putDomain (s : State) (x : Domain) : State :=
  s.modMgmt fun m => { m with domains := if m.domains.any (fun y => y.id == x.id)
                                         then m.domains.map (fun y => if y.id == x.id then x else y) else m.domains ++ [x] }
/-- The k-th free value of this step. -/
def State.draw (s : State) (k : Nat) : DWord := Config.freeWord (s.free + k)
/-- Use up n free values. -/
def State.drawn (s : State) (n : Nat) : State := { s with free := s.free + n }
/-- Send a message to the outside (R355). -/
def State.send (s : State) (m : BusMsg) : State := { s with log := s.log ++ [m] }
/-- Add events to one of a domain's meters and their estimated energy to ENERGY (R320): 0 ISSUE, 1 KSTEP, 2 SBYTES, 3 HBYTES, 4 LBYTES, 5 GROWS, 6 ENERGY; 64-bit counts. -/
def State.meter (s : State) (dom k n : Nat) : State :=
  if dom = 0 then s else
  let x := s.domain dom
  let add := fun (n v : Nat) => (v + n) % 2 ^ 64
  s.putDomain { x with meters := (x.meters.modify k (add n)).modify 6 (add (Config.energyOf k n)) }
/-- An identity not used before. -/
def State.fresh (s : State) : Nat × State := (s.uid, { s with uid := s.uid + 1 })

/-! ## Estates and ownership -/

/-- The dies that hold the same estate index as a die, which has been set (R364). -/
def indexDies (s : State) (d : Nat) : List Nat :=
  (List.range Config.dies).filter fun e => (s.die e).firewall != 0 && (s.die e).firewall.extractLsb' 16 3 == (s.die d).firewall.extractLsb' 16 3
/-- An aligned block of dies: one, two, four or all eight (R364). -/
def alignedBlock (l : List Nat) : Bool :=
  let n := l.length
  let lo := l.foldl min 8
  (n == 1 || n == 2 || n == 4 || n == 8) && lo % n == 0 && l.all fun d => decide (d < lo + n)
/-- Two dies lie in one estate: both hold one index, and the dies that hold it form an aligned block; any other die is its own estate (R364, R366). -/
def sameEstate (s : State) (d e : Nat) : Bool :=
  d == e || ((s.die d).firewall != 0 && (indexDies s d).contains e && alignedBlock (indexDies s d))
/-- The die whose stack holds a physical address: stack pa div 2^36, two stacks a die (R1). -/
def dieOfPa (pa : Nat) : Nat := pa / 2 ^ Config.stackLog / 2
/-- An aperture page: physical bit 51 set (R361). -/
def isAperture (pa : Nat) : Bool := pa / 2 ^ 51 % 2 == 1

/-- A window of five words: base, pages, bus address, function (R361). -/
def windowBase (w : List Word) : Nat := ((w.getD 1 0).extractLsb' 0 20).toNat * 2 ^ 32 + ((w.getD 0 0).extractLsb' 16 16).toNat * 65536
/-- Pages of a window (R361). -/
def windowPages (w : List Word) : Nat := ((w.getD 4 0).extractLsb' 0 16).toNat + 1
/-- Whether a window is in use (R361). -/
def windowValid (w : List Word) : Bool := (w.getD 0 0).getLsbD 0
/-- The PCI Express address at which a window starts (R361). -/
def windowBus (w : List Word) : Nat := (w.getD 3 0).toNat * 2 ^ 32 + ((w.getD 2 0).extractLsb' 16 16).toNat * 65536
/-- Whether a window covers a physical address. -/
def windowHas (w : List Word) (pa : Nat) : Bool :=
  windowValid w && windowBase w ≤ pa && pa < windowBase w + windowPages w * 65536
/-- The window of a domain that covers an aperture address. -/
def windowOf (s : State) (dom pa : Nat) : Option (List Word) := (s.domain dom).windows.find? fun w => windowHas w pa

/-- The bus address that an aperture address stands for in a window (R361). -/
def windowAt (w : List Word) (pa : Nat) : Nat := windowBus w + (pa - windowBase w)
/-- An aperture address of a domain leads to a peer over a Flaesque link (R363). -/
def toPeer (s : State) (dom pa : Nat) : Bool := match windowOf s dom pa with
  | some w => isAperture pa && Config.peerAddress (windowAt w pa)
  | none => false
/-- Flaesque ports that carry the traffic of a die's estate: whether each delivers (R363, R364). -/
def estatePorts (s : State) (die : Nat) : List Bool :=
  ((List.range Config.dies).filter (sameEstate s die)).flatMap fun d =>
    ((List.range 3).filter fun j => (s.die d).firewall.getLsbD j).map fun j => (s.die d).portUp.getD j false
/-- A port carries its estate's traffic and delivers (R363, R364). -/
def portOpen (s : State) (die port : Nat) : Bool := (s.die die).firewall.getLsbD port && (s.die die).portUp.getD port false
/-- OWNER of a physical page in the ROT (R303). -/
def rotEntry (s : State) (page : Nat) : BitVec 16 := agetD s.mgmt.rot page 0
/-- Whether a domain may touch the page of a physical address, from a die of its estate: ROT, aperture windows, firewall (R174, R361, R364). -/
def owns (s : State) (dom die pa : Nat) : Bool :=
  if isAperture pa then (windowOf s dom pa).isSome
  else decide (pa < 2 ^ 40) && ((rotEntry s (pa / 65536)).extractLsb' 0 6).toNat == dom && sameEstate s die (dieOfPa pa)

/-- A page-table entry (R173), over the bus when its table lies in an aperture window of the domain (R361). DESIGN CHOICE, log 91: the poison of the sector that it lies in is passed over, and what the bus returns is a free value. -/
def readEntry (s : State) (pa : Nat) : DWord := if isAperture pa then Config.busEntry s.free pa else BitVec.ofNat 64 (bytesNat (s.mem.read pa 8))
/-- Physical bits [51:16] of an entry. -/
def entryPa (e : DWord) : Nat := (e.extractLsb' 16 36).toNat * 65536
/-- Zero fields of an entry that must be zero (R173). -/
def entryZero (e : DWord) : Bool := e.extractLsb' 52 12 == 0 && e.extractLsb' 8 8 == 0 && !e.getLsbD 5

/-- A walk: the addresses of the entries that it reads, and what it ends with: the leaf entry and whether it is a 512 MiB block, or a fault code (R173, R174, R177). -/
def tableWalk (s : State) (dom die : Nat) (va : Nat) : List Nat × Except Nat (DWord × Bool) :=
  let root := (s.domain dom).root
  let a1 := root + va / 2 ^ 42 % 8192 * 8
  let e1 := readEntry s a1
  let a2 := entryPa e1 + va / 2 ^ 29 % 8192 * 8
  let e2 := readEntry s a2
  let a3 := entryPa e2 + va / 2 ^ 16 % 8192 * 8
  let e3 := readEntry s a3
  if !owns s dom die root then ([], .error 0x0A)
  else if !e1.getLsbD 0 || !entryZero e1 || !e1.getLsbD 1 then ([a1], .error 0x08)
  else if !owns s dom die (entryPa e1) then ([a1], .error 0x0A)
  else if !e2.getLsbD 0 || !entryZero e2 then ([a1, a2], .error 0x08)
  else if !e2.getLsbD 1 then ([a1, a2], if e2.extractLsb' 6 2 == 3 || e2.extractLsb' 16 13 != 0 then .error 0x08 else .ok (e2, true))
  else if !owns s dom die (entryPa e2) then ([a1, a2], .error 0x0A)
  else ([a1, a2, a3], if !e3.getLsbD 0 || !entryZero e3 || !e3.getLsbD 1 || e3.extractLsb' 6 2 == 3 then .error 0x08 else .ok (e3, false))
/-- What a walk ends with. -/
def walk (s : State) (dom die : Nat) (va : Nat) : Except Nat (DWord × Bool) := (tableWalk s dom die va).2

/-- The cached translation of an address (R175). -/
def tlbFind (l : List TlbEntry) (dom va : Nat) : Option (DWord × Bool) :=
  match l.find? fun e => e.dom == dom && (if e.block then e.page == va / 2 ^ 29 else e.page == va / 65536) with
  | some e => some (e.entry, e.block)
  | none => none
/-- Keep a translation, newest first, at most n of them (R175). -/
def tlbAdd (l : List TlbEntry) (n dom va : Nat) (r : DWord × Bool) : List TlbEntry :=
  let e : TlbEntry := ⟨dom, if r.2 then va / 2 ^ 29 else va / 65536, r.2, r.1⟩
  (e :: l.filter fun x => !(x.dom == dom && x.block == r.2 && x.page == e.page)).take n

/-- Kinds of access to memory. -/
inductive Acc where
  | read | write | fetch | inval
  deriving DecidableEq, Repr

/-- Who accesses global memory: domain, privilege, the core it runs on and whether it goes through the core's own TLBs or the streamer's (R15, R175). -/
structure Agent where
  dom : Nat
  priv : Bool
  core : Nat
  engine : Bool
  deriving DecidableEq, Repr

/-- The leaf that translates an address: a fresh walk, or a cached translation; where the two differ the choice is free (R175). -/
def leafOf (s : State) (ag : Agent) (va k : Nat) : Except Nat (DWord × Bool) :=
  let now := walk s ag.dom (dieOf ag.core) va
  let c := s.core ag.core
  let old := match tlbFind (if ag.engine then c.stlb else c.tlb) ag.dom va with
    | some e => some e
    | none => tlbFind (s.cluster (clusterOf ag.core)).tlb ag.dom va
  match old with
  | none => now
  | some e => match now with
    | .ok e' => if e = e' then now else if (s.draw k).getLsbD 0 then .ok e else now
    | .error _ => if (s.draw k).getLsbD 0 then .ok e else now

/-- Physical address that a leaf gives (R173). -/
def leafPa (r : DWord × Bool) (va : Nat) : Nat := entryPa r.1 + va % (if r.2 then 2 ^ 29 else 65536)
/-- Policy of a leaf: 0 cached, 1 streaming, 2 uncached (R173). -/
def leafPol (r : DWord × Bool) : Nat := (r.1.extractLsb' 6 2).toNat
/-- Permission of a leaf for an access (R174). -/
def leafAllows (r : DWord × Bool) (acc : Acc) (priv : Bool) : Bool :=
  match acc with
  | .read => true
  | .write => r.1.getLsbD 2 && (priv || !r.1.getLsbD 4)
  | .fetch => r.1.getLsbD 3
  | .inval => r.1.getLsbD 2

/-- Translate and check one address: physical address and policy, or the fault code in the order of R177. -/
def translate (s : State) (ag : Agent) (acc : Acc) (va k : Nat) : Except Nat (Nat × Nat) :=
  if 2 ^ 55 ≤ va then .error 0x08 else
  match leafOf s ag va k with
  | .error c => .error c
  | .ok r =>
    if !leafAllows r acc ag.priv then .error 0x09
    else if !owns s ag.dom (dieOf ag.core) (leafPa r va) then .error 0x0A
    else .ok (leafPa r va, leafPol r)

/-- Whether a core's or its cluster's TLB holds the translation of an address (R175). -/
def tlbHolds (s : State) (ag : Agent) (va : Nat) : Bool :=
  let c := s.core ag.core
  (tlbFind (if ag.engine then c.stlb else c.tlb) ag.dom va).isSome || (tlbFind (s.cluster (clusterOf ag.core)).tlb ag.dom va).isSome

/-! ## Cluster segments -/

/-- The banks in cache mode, ascending: segments 0 to n - 1 (R169). -/
def segBanks (c : Cluster) : List Nat := (List.range 64).filter fun b => (c.banks.getD b Bank.reset).mode == .cache
/-- The bank that holds the segment of an address, if the cluster has one (R169). -/
def segBankOf (c : Cluster) (pa : Nat) : Option Nat :=
  let bs := segBanks c
  if bs.length = 0 then none else bs[pa / 8192 % bs.length]?
/-- OCC of a domain in a segment (R171). -/
def segOcc (b : Bank) (dom : Nat) : Nat := (b.seg.filter fun l => l.dom == dom).length
/-- FILLMASK and SOFTLIMIT of a domain at a bank; zero without a valid cluster slot (R301). -/
def fillRule (c : Cluster) (dom bank : Nat) : BitVec 16 × Nat :=
  match c.slots.find? fun w => (w.getD 0 0).getLsbD 31 && ((w.getD 0 0).extractLsb' 0 6).toNat == dom with
  | none => (0, 0)
  | some w => ((w.getD (4 + bank) 0).extractLsb' 0 16, ((w.getD (4 + bank) 0).extractLsb' 16 11).toNat)

/-- A load miss fills the segment: the victim of R171. -/
def segFill (c : Cluster) (bank : Nat) (dom line : Nat) : Cluster :=
  let b := c.banks.getD bank Bank.reset
  let mask := (fillRule c dom bank).1
  let set := b.seg.filter fun l => l.line % 64 == line % 64
  let cand := (List.range 16).filter fun w => mask.getLsbD w
  match cand with
  | [] => c
  | _ =>
    let free := cand.filter fun w => !set.any fun l => l.way == w
    let above := set.filter fun l => cand.contains l.way && decide ((fillRule c l.dom bank).2 < segOcc b l.dom)
    let incand := set.filter fun l => cand.contains l.way
    let way := match free with
      | w :: _ => w
      | [] => match above.getLast? with
        | some l => l.way
        | none => match incand.getLast? with
          | some l => l.way
          | none => 0
    let seg := ⟨line, dom, way⟩ :: b.seg.filter fun l => !(l.line % 64 == line % 64 && l.way == way)
    { c with banks := c.banks.modify bank fun b => { b with seg := seg } }

/-- One line request of a domain at the cluster's segment: counted, LRU renewed, a load miss fills (R166, R169, R172, R323). -/
def segRequest (c : Cluster) (dom pa : Nat) (load : Bool) : Cluster :=
  match segBankOf c pa with
  | none => c
  | some bank =>
    let b := c.banks.getD bank Bank.reset
    let line := pa / 128
    match b.seg.find? fun l => l.line == line && l.dom == dom with
    | some l =>
      { c with banks := c.banks.modify bank (fun b => { b with seg := l :: b.seg.filter fun x => x != l }),
               hits := aput c.hits dom ((agetD c.hits dom 0 + 1) % 2 ^ 32) }
    | none =>
      let c := { c with misses := aput c.misses dom ((agetD c.misses dom 0 + 1) % 2 ^ 32) }
      if load then segFill c bank dom line else c

/-- Drop every copy of a line from a cluster's segments. -/
def segDrop (c : Cluster) (line : Nat) : Cluster :=
  { c with banks := c.banks.map fun b => if b.seg.any (fun l => l.line == line)
                                         then { b with seg := b.seg.filter fun l => l.line != line } else b }

/-- A segment holds a domain's line (R169). -/
def segHolds (c : Cluster) (dom pa : Nat) : Bool := match segBankOf c pa with
  | none => false
  | some b => (c.banks.getD b Bank.reset).seg.any fun l => l.line == pa / 128 && l.dom == dom
/-- An access that a segment would serve stalls: its bank has been quiesced and not yet released (R130). -/
def segStalls (s : State) (core pol pa : Nat) : Bool :=
  pol != 2 && !isAperture pa && match segBankOf (s.cluster (clusterOf core)) pa with
    | none => false
    | some b => ((s.cluster (clusterOf core)).banks.getD b Bank.reset).quiesced.isSome
/-- A read of an aperture page goes out as a request with the domain's function as its requester (R355, R361): its bytes are the length asked for. -/
def readOut (s : State) (dom pa n : Nat) : State := match windowOf s dom pa with
  | some w => s.send ⟨((w.getD 4 0).extractLsb' 16 6).toNat, 11, windowAt w pa, natBytes 4 n⟩
  | none => s
/-- The reads of a walk's entries, whatever it ends with: bytes of the stacks, or requests on the bus (R173, R320, R355). -/
def walkReads (s : State) (dom die va : Nat) : State :=
  if 2 ^ 55 ≤ va then s else
  (tableWalk s dom die va).1.foldl (fun s a => if isAperture a then readOut s dom a 8 else s.meter dom 3 8) s
/-- The translation of an address is looked up: a walk when no TLB has it (R320), and what the walk gives is kept (R175). -/
def tlbFill (s : State) (ag : Agent) (va : Nat) : State :=
  let s' := if tlbHolds s ag va then s else walkReads s ag.dom (dieOf ag.core) va
  match walk s ag.dom (dieOf ag.core) va with
  | .error _ => s'
  | .ok r =>
    if 2 ^ 55 ≤ va then s' else
    (s'.modCore ag.core fun c => if ag.engine then { c with stlb := tlbAdd c.stlb 128 ag.dom va r }
                                 else { c with tlb := tlbAdd c.tlb 128 ag.dom va r }).modCluster (clusterOf ag.core) fun c =>
      { c with tlb := tlbAdd c.tlb 4096 ag.dom va r }
/-- One line request of a read for a team or an engine (R166, R322): a segment hit reads no stack, a miss reads the line there, and a page of policy 2 is read from the home alone, n bytes; HBYTES counts what is read (R320). -/
def lineRead (s : State) (core dom pol pa n : Nat) : State :=
  if isAperture pa then readOut s dom pa n
  else if pol = 2 then s.meter dom 3 n
  else
    let s := if segHolds (s.cluster (clusterOf core)) dom pa then s else s.meter dom 3 128
    s.modCluster (clusterOf core) fun c => segRequest c dom pa true
/-- One line request of a write that its own cluster's segment sees on its way (R166, R322, R323). -/
def lineWrite (s : State) (core dom pol pa : Nat) : State :=
  if isAperture pa || pol = 2 then s else s.modCluster (clusterOf core) fun c => segRequest c dom pa false

/-! ## Monitors and writes performed at the home -/

/-- Wake the monitors armed on a line for which the condition holds (R187). -/
def wakeIf (s : State) (space line cause : Nat) (p : Team → Bool) : State :=
  { s with teams := s.teams.map fun t => match t.sync.mon with
      | some m => if m.space == space && m.line == line && m.woke.isNone && p t
                  then { t with sync := { t.sync with mon := some { m with woke := some cause } } } else t
      | none => t }

/-- Bytes written at the home by an agent of a cluster (none for the host, peers and the queue controller): other segment copies go, monitors wake, HBYTES counts (R166, R187, R320). An aperture write is posted to the outside and wakes monitors too. -/
def homeWrite (s : State) (dom : Nat) (own : Option Nat) (pa : Nat) (bs : List Byte) (poison : Bool) : State :=
  if isAperture pa then
    match windowOf s dom pa with
    | some w => (wakeIf s 0 (pa / 128) 0 fun _ => true).send ⟨((w.getD 4 0).extractLsb' 16 6).toNat, 1, windowAt w pa, bs⟩
    | none => s
  else
    let s := { s with mem := s.mem.write pa bs poison,
                      clusters := s.clusters.mapIdx fun i c => if own == some i then c else segDrop c (pa / 128) }
    (wakeIf s 0 (pa / 128) 0 fun _ => true).meter dom 3 bs.length

/-- Bytes read at the home or, for an aperture page, from the outside: free values (R361). -/
def homeRead (s : State) (pa n k : Nat) : List Byte :=
  if isAperture pa then (List.range n).map fun i => (s.draw (k * 16 + i)).extractLsb' 0 8
  else s.mem.read pa n
/-- Poison of bytes read at the home. -/
def homePois (s : State) (pa n : Nat) : Bool := !isAperture pa && s.mem.poisoned pa n

/-! ## The L1 -/

/-- A part of a team is saved (R314, R317): kind 0 a 32-row group of its vector registers, kind 1 the rest of it. -/
def State.partOut (s : State) (tid kind : Nat) : Bool := s.gov.saved.any fun x => x.tid == some tid && x.kind == kind
/-- The 32-row groups of a team's vector registers that stand in its core (R314). -/
def State.groupsIn (s : State) (t : Team) : List Nat :=
  (List.range ((t.foot.alloc + 31) / 32)).filter fun g => !s.gov.saved.any fun x => x.tid == some t.tid && x.kind == 0 && x.bank == g
/-- The granules of its quadrant's carve that a team holds: those of its groups that stand in the core, a gate's sealed registers included, and the gate's scratch area (R70, R305). -/
def State.teamGrans (s : State) (t : Team) : List Nat :=
  ((s.groupsIn t).flatMap fun g => t.grans.getD g []) ++ match t.gate with
    | some g => g.grans.flatten
    | none => []
/-- The granules that are taken in a quadrant (R70). -/
def quadGrans (s : State) (core quad : Nat) : List Nat :=
  (s.teams.filter fun t => t.place.core == core && t.place.quad == quad).flatMap s.teamGrans
/-- Banks of a core that vector registers take: 4 for each 32 granules that the fullest quadrant needs (R70, R164). -/
def regBanks (s : State) (core : Nat) : Nat := 4 * (([0, 1, 2, 3].map fun q => ((quadGrans s core q).length + 31) / 32).foldl max 0)
/-- The beds on a core. -/
def bedsOn (s : State) (core : Nat) : List Bed :=
  (s.gov.plots.filter fun p => p.st != .saved && p.st != .done).flatMap fun p => p.beds.filter fun b => b.core == core
/-- What stands in the list of a bed's banks for one whose 32 KiB are saved (R314). -/
def bankSaved : Nat := 96
/-- The banks that a bed holds in its core, its extension included (R162, R314). -/
def Bed.held (b : Bed) : List Nat := (b.banks ++ b.ext).filter (· != bankSaved)
/-- Banks of a core that beds hold, extensions included (R162). -/
def bedBanks (s : State) (core : Nat) : Nat := ((bedsOn s core).map fun b => b.held.length).sum
/-- Banks of the L1 of a core (R164). -/
def l1Banks (s : State) (core : Nat) : Nat := 96 - regBanks s core - bedBanks s core

/-- Bytes i to i + n - 1 of an L1 line. -/
def l1Bytes (l : L1Line) (off n : Nat) : List Byte := (List.range n).map fun i => l.bytes.extractLsb' (8 * (off + i)) 8
/-- Put one byte into an L1 line. -/
def l1Put (l : L1Line) (off : Nat) (b : Byte) (dirty : Bool) : L1Line :=
  { l with bytes := (l.bytes &&& ~~~((0xFF#1024) <<< (8 * off))) ||| ((b.setWidth 1024) <<< (8 * off)),
           valid := l.valid ||| ((1#128) <<< off),
           dirty := if dirty then l.dirty ||| ((1#128) <<< off) else l.dirty &&& ~~~((1#128) <<< off) }
/-- Put bytes into an L1 line. -/
def l1PutAll : L1Line → Nat → List Byte → Bool → L1Line
  | l, _, [], _ => l
  | l, off, b :: r, d => l1PutAll (l1Put l off b d) (off + 1) r d
/-- Sectors of a line that bytes off to off + n - 1 touch, as a mask. -/
def l1Sectors (off n : Nat) : BitVec 4 := (unitsOf 32 off n).foldl (fun m u => m ||| ((1#4) <<< u)) 0

/-- An L1 line can be performed wider only through a segment whose bank is quiesced (R130, R323). -/
def lineStuck (s : State) (core : Nat) (l : L1Line) : Bool := l.dirty != 0 && segStalls s core 0 (l.line * 128)
/-- Some line of a core's L1 cannot be written back now (R130). -/
def l1Stalls (s : State) (core : Nat) : Bool := (s.core core).l1.any (lineStuck s core)
/-- Perform the dirty bytes of an L1 line at the home (R165, R167), one line request at the segment (R323); they become clean. -/
def l1Flush (s : State) (core : Nat) (l : L1Line) : State :=
  let offs := (List.range 128).filter fun o => l.dirty.getLsbD o
  match offs with
  | [] => s
  | _ =>
    let m := offs.foldl (fun m o => { m with cells := cellPut m.cells (l.line * 128 + o) (l.bytes.extractLsb' (8 * o) 8) }) s.mem
    let m := [0, 1, 2, 3].foldl (fun (m : Memory) u =>
      let sec := l.line * 4 + u
      if l.hurt.getLsbD u && offs.any (fun o => o / 32 == u) then m.mark sec true
      else if !l.pois.getLsbD u && (offs.filter fun o => o / 32 == u).length == 32 then m.mark sec false else m) m
    let s := { s with mem := m, clusters := s.clusters.mapIdx fun i c =>
      if i != clusterOf core then segDrop c l.line else segRequest c l.dom (l.line * 128) false }
    (wakeIf s 0 l.line 0 fun _ => true).meter l.dom 3 offs.length
/-- A line made clean. -/
def l1Clean (l : L1Line) : L1Line := { l with dirty := 0, hurt := 0 }

/-- Find a domain's line in an L1. -/
def l1Find (c : Core) (dom line : Nat) : Option L1Line := c.l1.find? fun l => l.line == line && l.dom == dom
/-- Sets of the L1 of a core (R165). -/
def l1Sets (s : State) (core : Nat) : Nat := max 1 (l1Banks s core * 32)
/-- Taking these lines of a domain into the L1 would evict one that cannot be performed now (R130, R165). -/
def evictStalls (s : State) (core dom : Nat) (lines : List Nat) : Bool :=
  let set := fun (n : Nat) => n % l1Sets s core
  let fresh := lines.eraseDups.filter fun n => (l1Find (s.core core) dom n).isNone
  l1Stalls s core && fresh.any fun n =>
    let old := (s.core core).l1.filter fun x => set x.line == set n
    decide (8 < old.length + (fresh.filter fun m => set m == set n).length) && old.any (lineStuck s core)
/-- Make a line the newest of the L1; when its set then holds more than 8, the oldest of the set is written back and dropped (R165). -/
def l1Keep (s : State) (core : Nat) (l : L1Line) : State :=
  let c := s.core core
  let sets := l1Sets s core
  let rest := c.l1.filter fun x => !(x.line == l.line && x.dom == l.dom)
  let inset := rest.filter fun x => x.line % sets == l.line % sets
  if inset.length < 8 then s.modCore core fun c => { c with l1 := l :: rest }
  else match inset.getLast? with
    | none => s.modCore core fun c => { c with l1 := l :: rest }
    | some v => (l1Flush s core v).modCore core fun c => { c with l1 := l :: rest.filter fun x => x != v }
/-- Drop a domain's line from an L1, dirty bytes included. -/
def l1Drop (s : State) (core dom line : Nat) : State :=
  s.modCore core fun c => { c with l1 := c.l1.filter fun l => !(l.line == line && l.dom == dom) }
/-- A line becomes the most recently used of its L1 (R165). -/
def l1Touch (s : State) (core dom line : Nat) : State :=
  s.modCore core fun c => match l1Find c dom line with
    | none => c
    | some l => { c with l1 := l :: c.l1.filter fun x => !(x.line == line && x.dom == dom) }
/-- The poisoned sectors of a line at the home, added to some (R176). -/
def homeSectors (s : State) (line : Nat) (m : BitVec 4) : BitVec 4 :=
  [0, 1, 2, 3].foldl (fun (m : BitVec 4) u => if s.mem.poisoned (line * 128 + 32 * u) 1 then m ||| ((1#4) <<< u) else m) m
/-- A line as a store miss allocates it (R165): no byte valid; its sectors are poisoned as the home's are, which a partial store leaves so (R176). -/
def l1New (s : State) (dom line : Nat) : L1Line := ⟨line, dom, 1, 0, 0, 0, homeSectors s line 0, 0⟩

/-- A line with every byte that is not dirty as it stands at the home. -/
def l1Home (s : State) (l : L1Line) : L1Line :=
  let mem := s.mem.read (l.line * 128) 128
  { l with bytes := (List.range 128).foldl (fun (x : BitVec 1024) o =>
      if l.dirty.getLsbD o then x else (x &&& ~~~((0xFF#1024) <<< (8 * o))) ||| (((mem.getD o 0).setWidth 1024) <<< (8 * o))) l.bytes }
/-- Sectors of a line that hold a dirty byte. -/
def dirtySectors (l : L1Line) : BitVec 4 :=
  [0, 1, 2, 3].foldl (fun (m : BitVec 4) u => if (l.dirty >>> (32 * u)).setWidth 32 != 0 then m ||| ((1#4) <<< u) else m) 0
/-- Sectors of a line all of whose bytes are dirty: nothing of them is the home's. -/
def ownSectors (l : L1Line) : BitVec 4 :=
  [0, 1, 2, 3].foldl (fun (m : BitVec 4) u => if (l.dirty >>> (32 * u)).setWidth 32 == BitVec.allOnes 32 then m ||| ((1#4) <<< u) else m) 0
/-- The poison of a line whose clean bytes are the home's: the home's sectors, those into which poison was stored here, and of a sector held wholly dirty its own alone, which a clean store over all of it has cleared (R176). -/
def l1Pois (s : State) (l : L1Line) : BitVec 4 :=
  (homeSectors s l.line 0 &&& ~~~ownSectors l) ||| (l.pois &&& ownSectors l) ||| (l.hurt &&& dirtySectors l)
/-- Fill a line of the L1 from the home, keeping its dirty bytes. -/
def l1Fill (s : State) (core dom line : Nat) : State :=
  let l := (l1Find (s.core core) dom line).getD (l1New s dom line)
  l1Keep s core { l1Home s l with valid := BitVec.allOnes 128, pois := l1Pois s l }
/-- The clean bytes of a domain's L1 lines become those of the home, where they stand; a sector without dirty bytes is poisoned as the home's is. DEDUCED, log 95: by R264 an acquire at .bed shows what the releasing team observed, also what it observed past its L1 (R262, R268), so no clean copy older than that may stay. -/
def l1Renew (s : State) (core dom : Nat) : State :=
  s.modCore core fun c => { c with l1 := c.l1.map fun l =>
    if l.dom == dom then { l1Home s l with pois := l1Pois s l } else l }

/-- Perform every dirty byte of a domain in a core's L1 and retag its lines (a release at plot or wider, R167). -/
def l1Release (s : State) (core dom scope : Nat) : State :=
  let dirty := (s.core core).l1.filter fun l => l.dom == dom && l.dirty != 0
  let s := dirty.foldl (fun s l => l1Flush s core l) s
  s.modCore core fun c => { c with l1 := c.l1.map fun l => if l.dom == dom then { l1Clean l with scope := max l.scope scope } else l }
/-- Drop the clean lines and clean bytes of a domain (an acquire at plot or wider, R167). -/
def l1Acquire (s : State) (core dom : Nat) : State :=
  s.modCore core fun c => { c with
    l1 := (c.l1.map (fun l => if l.dom == dom then { l with valid := l.valid &&& l.dirty, pois := l1Pois s l } else l)).filter (fun l => l.valid != 0) }
/-- Write back and drop the lines of a core's L1 (a bank leaves the L1, R164). What asks for it waits for a quiesced segment where it can (R130); DESIGN CHOICE, log 96: where it cannot, a dirty line of such a segment stays in the L1. -/
def l1WriteBack (s : State) (core : Nat) : State :=
  let stuck := (s.core core).l1.filter (lineStuck s core)
  let s := ((s.core core).l1.filter fun l => !lineStuck s core l).foldl (fun s l => l1Flush s core l) s
  s.modCore core fun c => { c with l1 := stuck }

/-- Scope codes 0 to 5 (R44). -/
def scopeNat (x : Scope) : Nat := match x with
  | .team => 0 | .bed => 1 | .plot => 2 | .field => 3 | .estate => 4 | .sys => 5

/-- A release has to write back a line through a segment whose bank is quiesced, and waits (R130, R323). -/
def releaseStalls (s : State) (core dom scope : Nat) : Bool :=
  decide (2 ≤ scope) && (s.core core).l1.any fun l => l.dom == dom && l.dirty != 0 && segStalls s core 0 (l.line * 128)
/-- A release of a domain's accesses at a scope (R167). -/
def releaseAt (s : State) (core dom scope : Nat) : State := if 2 ≤ scope then l1Release s core dom scope else s
/-- An acquire at a scope (R167, R264). -/
def acquireAt (s : State) (core dom scope : Nat) : State :=
  if 2 ≤ scope then l1Acquire s core dom else if scope = 1 then l1Renew s core dom else s

/-- The bytes a load of a team returns, and their poison: the stores that the domain's teams of the core have in the L1, at any scope, then the L1 for a scope that the L1 may serve, then the home (R166, R262, R264-R267). -/
def loadBytes (s : State) (core dom scope pol pa n k : Nat) : List Byte × Bool :=
  let home := homeRead s pa n k
  if isAperture pa then (home, false) else
  match l1Find (s.core core) dom (pa / 128) with
  | none => (home, homePois s pa n)
  | some l =>
    let off := pa % 128
    let serves := fun i => l.valid.getLsbD (off + i) && ((decide (scope ≤ 1) && pol == 0) || l.dirty.getLsbD (off + i))
    let bs := (List.range n).map fun i => if serves i then l.bytes.extractLsb' (8 * (off + i)) 8 else home.getD i 0
    let anyL1 := (List.range n).any serves
    let allL1 := (List.range n).all serves
    (bs, (anyL1 && (l.pois &&& l1Sectors off n) != 0) || (!allL1 && homePois s pa n))
/-- Whether the L1 serves every byte of a load (R166). -/
def l1Serves (s : State) (core dom scope pol pa n : Nat) : Bool :=
  decide (scope ≤ 1) && pol == 0 && match l1Find (s.core core) dom (pa / 128) with
    | none => false
    | some l => (List.range n).all fun i => l.valid.getLsbD (pa % 128 + i)

/-- A line request of a load that the L1 did not serve, with the fill of the L1 that scope and policy allow (R165, R166). -/
def loadLine (s : State) (core dom scope pol line : Nat) : State :=
  if isAperture (line * 128) then s else
  let s := lineRead s core dom pol (line * 128) 128
  if decide (scope ≤ 1) && pol == 0 then l1Fill s core dom line else s
/-- The line of an atomic performed in the L1 that misses there: it is filled from the home, with no request at the segment (R165, R323). -/
def atomFill (s : State) (core dom line : Nat) : State := l1Fill (s.meter dom 3 128) core dom line

/-- The copy of a line that a store leaves in the L1: its bytes, dirty or written through, the scope of the store, and the poison that it adds or clears (R165, R166, R176). -/
def storeLine (l : L1Line) (off : Nat) (bs : List Byte) (poison dirty : Bool) (scope : Nat) : L1Line :=
  let whole := (unitsWhole 32 off bs.length).foldl (fun (m : BitVec 4) u => m ||| ((1#4) <<< u)) 0
  let mark := fun (m : BitVec 4) => if poison then m ||| l1Sectors off bs.length else m &&& ~~~whole
  { l1PutAll l off bs dirty with scope := scope, pois := mark l.pois, hurt := if dirty then mark l.hurt else l.hurt &&& ~~~whole }
/-- Perform a store of a team at a scope (R166): at team and bed in the L1, else through the segment at the home, with the L1 copy written too; a store miss allocates the line (R165). -/
def storeBytes (s : State) (core dom scope pol pa : Nat) (bs : List Byte) (poison : Bool) : State :=
  let old := l1Find (s.core core) dom (pa / 128)
  let put := fun (s : State) (dirty : Bool) (scope : Nat) =>
    l1Keep s core (storeLine (old.getD (l1New s dom (pa / 128))) (pa % 128) bs poison dirty scope)
  if decide (scope ≤ 1) && pol == 0 && !isAperture pa then wakeIf (put s true 1) 0 (pa / 128) 0 fun t => t.place.core == core
  else
    let s' := homeWrite s dom (some (clusterOf core)) pa bs poison
    if !isAperture pa && (pol == 0 || old.isSome) then put s' false scope else s'

end Sys2Proof.Machine
end

