-- ==== Sys2Proof/Machine/Ops.lean ====
section
/-! DEFINITION. The operations every meaning is written with: rows, registers and predicates of a team, time, scratchpad places, fetching a line, taking an exception and returning from one (R190-R199), ending a team, the reconvergence stack (R76-R78), and the issue of an instruction. -/

namespace Sys2Proof.Machine

/-- The outcome of a step. -/
abbrev Out := Host.Outcome State Fault Refusal

/-! ## Rows, registers, predicates -/

/-- Rows 0 to n - 1. -/
def rowsBelow (n : Nat) : RowMask := BitVec.ofNat 1024 (2 ^ n - 1)
/-- The rows of a mask in ascending order, below n. -/
def rowList (m : RowMask) (n : Nat) : List Nat := (List.range n).filter fun r => m.getLsbD r
/-- A mask with the rows of a list. -/
def maskOf (l : List Nat) : RowMask := l.foldl (fun m r => m ||| ((1#1024) <<< r)) 0
/-- Mask word n (R73). -/
def maskWord (m : RowMask) (n : Nat) : Word := m.extractLsb' (32 * n) 32
/-- The summary word: bit w set when mask word w is nonzero (R73). -/
def summaryOf (m : RowMask) : Word := (List.range 32).foldl (fun x w => if maskWord m w != 0 then x ||| ((1#32) <<< w) else x) 0
/-- Number of nonempty mask words. -/
def wordsOf (m : RowMask) : Nat := ((List.range 32).filter fun w => maskWord m w != 0).length
/-- Replace mask word n. -/
def setMaskWord (m : RowMask) (n : Nat) (w : Word) : RowMask :=
  (m &&& ~~~((0xFFFFFFFF#1024) <<< (32 * n))) ||| ((w.setWidth 1024) <<< (32 * n))

/-- A scalar register. -/
def Team.sget (t : Team) (r : Nat) : Elem := t.regs.s.getD r Elem.zero
/-- Write a scalar register. -/
def Team.sset (t : Team) (r : Nat) (e : Elem) : Team := { t with regs := { t.regs with s := t.regs.s.set r e } }
/-- An even-odd scalar pair, low half in the even register (R4). -/
def Team.xget (t : Team) (r : Nat) : DWord := (t.sget (r + 1)).bits ++ (t.sget r).bits
/-- Whether either half of a scalar pair is poisoned. -/
def Team.xpois (t : Team) (r : Nat) : Bool := (t.sget r).poison || (t.sget (r + 1)).poison
/-- Write a scalar pair. -/
def Team.xset (t : Team) (r : Nat) (x : DWord) (p : Bool) : Team :=
  (t.sset r ⟨x.extractLsb' 0 32, p⟩).sset (r + 1) ⟨x.extractLsb' 32 32, p⟩
/-- A run of scalars as words. -/
def Team.record (t : Team) (r n : Nat) : List Word := (List.range n).map fun i => (t.sget (r + i)).bits
/-- Whether a scalar of a record is poisoned. -/
def Team.recordPois (t : Team) (r n : Nat) : Bool := (List.range n).any fun i => (t.sget (r + i)).poison
/-- Write a run of clean scalars. -/
def Team.putRecord : Team → Nat → List Word → Team
  | t, _, [] => t
  | t, r, w :: ws => (t.sset r (Elem.clean w)).putRecord (r + 1) ws
/-- A vector element of a row. -/
def Team.vget (t : Team) (r row : Nat) : Elem := (t.regs.v.getD r []).getD row Elem.zero
/-- Write a vector element of a row. -/
def Team.vset (t : Team) (r row : Nat) (e : Elem) : Team :=
  { t with regs := { t.regs with v := t.regs.v.modify r fun c => c.set row e } }
/-- Write a whole column on some rows: the element of each row of the mask comes from the list of (row, element). -/
def Team.vsetAll (t : Team) (r : Nat) (l : List (Nat × Elem)) : Team := l.foldl (fun t e => t.vset r e.1 e.2) t
/-- A row predicate as a mask; p7 reads true (R69). -/
def Team.pmask (t : Team) (i : Nat) : RowMask := if 7 ≤ i then BitVec.allOnes 1024 else t.regs.p.getD i 0
/-- A team predicate; q7 reads true (R69). -/
def Team.qget (t : Team) (i : Nat) : Bool := decide (7 ≤ i) || t.regs.q.getLsbD i
/-- Write a team predicate; a write of q7 is discarded (R69). -/
def Team.qset (t : Team) (i : Nat) (b : Bool) : Team :=
  if 7 ≤ i then t else
  { t with regs := { t.regs with q := if b then t.regs.q ||| ((1#7) <<< i) else t.regs.q &&& ~~~((1#7) <<< i) } }
/-- Write a row predicate on the rows of a mask; a write of p7 is discarded (R69). -/
def Team.pset (t : Team) (i : Nat) (rows value : RowMask) : Team :=
  if 7 ≤ i then t else
  { t with regs := { t.regs with p := t.regs.p.modify i fun m => (m &&& ~~~rows) ||| (value &&& rows) } }
/-- A predicate number of R42: 0 to 7 p, 8 to 15 q, as a mask of rows. -/
def Team.prednum (t : Team) (n : Nat) : RowMask :=
  if n < 8 then t.pmask n else if t.qget (n - 8) then BitVec.allOnes 1024 else 0
/-- The rows a predicate lets take part: a team predicate applies to every row or to none (R38). -/
def Team.prdMask (t : Team) (p : Prd) : RowMask :=
  let m := t.prednum ((if p.team then 8 else 0) + p.index.toNat)
  if p.neg then ~~~m else m
/-- Whether a header predicate suppresses the whole instruction: a false team predicate, or a negated index 7 (R38). -/
def Team.suppressed (t : Team) (p : Prd) : Bool :=
  (p.team && (t.qget p.index.toNat == p.neg)) || (p.neg && p.index == 7)
/-- The rows that participate (R134). -/
def Team.part (t : Team) (p : Prd) : RowMask := t.flow.mask &&& t.prdMask p

/-- Entries on the reconvergence stack, spilled ones included: RSDEPTH (R72). -/
def Team.rsDepth (t : Team) : Nat := t.flow.rs.length + t.flow.spilled
/-- Entries on the call stack: CSDEPTH (R114). -/
def Team.csDepth (t : Team) : Nat := t.flow.cs.length
/-- COUNT of an engine class (R19). -/
def Team.count (t : Team) (cls : Nat) : Nat := (t.ops.filter fun o => o.cls == cls).length
/-- Set the pc. -/
def Team.setPc (t : Team) (p : Pc) : Team := { t with flow := { t.flow with pc := p, entered := false } }
/-- The slot after a slot (R33). -/
def Pc.next (p : Pc) : Pc := if p.slot < 4 then ⟨p.line, p.slot + 1⟩ else ⟨p.line + 64, 0⟩
/-- The bits of a line address in the 64-bit form of a code address: [54:6] (R78, R192). -/
def lineBits : DWord := 0x7FFFFFFFFFFFC0
/-- A code address as a 64-bit value: line in [54:6], slot in [2:0], every other bit zero (R78, R192). -/
def Pc.bits (p : Pc) : DWord := (p.line &&& lineBits) ||| BitVec.ofNat 64 p.slot
/-- A code address from its 64-bit value (R78). -/
def pcOf (x : DWord) : Pc := ⟨x &&& lineBits, (x.extractLsb' 0 3).toNat⟩
/-- The rows of the team that exist and have not retired (R190). -/
def Team.liveRows (t : Team) : RowMask := rowsBelow t.foot.rows &&& ~~~t.flow.retired

/-! ## Time -/

/-- Nanoseconds that n ac add: 50/47 each at 940 MHz, up to one eighth more while a die's clock is stretched (R3, R131, R367). DESIGN CHOICE, log 58: the model keeps one count of ac for every die, so the stretched clock of one die lengthens the ac of all. -/
def nsAdded (s : State) (n : Nat) : Nat :=
  let scale := if s.dies.any (fun d => d.stretched) then 400 + (s.draw 0).toNat % 51 else 400
  n * scale + s.clock.frac
/-- Let n ac pass: the launch clock follows, slewed but never backward (R131). -/
def State.tick (s : State) (n : Nat) : State :=
  let x := nsAdded s n
  let d := x / 376
  let adj : Int := if s.clock.slew = 0 then 0
    else if 0 < s.clock.slew then min s.clock.slew ((s.draw 1).toNat % (d + 1) : Nat)
    else max s.clock.slew (-(((s.draw 1).toNat % (d + 1) : Nat) : Int))
  { s with clock := { ac := s.clock.ac + n, ns := ((s.clock.ns + d : Nat) + adj).toNat, frac := x % 376, slew := s.clock.slew - adj },
           free := s.free + 2 }
/-- Count issue time of a core for a domain (R320); METER_FOLD moves it to the meter. -/
def State.charge (s : State) (core dom n : Nat) : State :=
  s.modCore core fun c => { c with issue := aput c.issue dom (agetD c.issue dom 0 + n) }

/-- Results of the team that are readable now are forgotten (R53). -/
def Team.settle (t : Team) : Team :=
  { t with sched := { t.sched with pend := t.sched.pend.filter fun p => t.sched.now < p.ready } }
/-- Every result of the team is written (R57). -/
def Team.drainWrites (t : Team) : Team := { t with sched := { t.sched with pend := [] } }
/-- Wait for every result still to be written into some registers (R54). -/
def Team.awaitRegs (t : Team) (regs : List Nat) : Team :=
  let at_ := (t.sched.pend.filter fun p => regs.contains p.reg).foldl (fun n p => max n p.ready) t.sched.now
  ({ t with sched := { t.sched with now := at_ } } : Team).settle

/-- The results still to be written into some registers land before these writes (R55). -/
def overwrite (t : Team) (regs : List Nat) : Team :=
  { t with sched := { t.sched with pend := t.sched.pend.filter fun p => !regs.contains p.reg } }

/-- Bring a team's time up to the ac of the device, whoever issued or waited in them (R53, R80). Between the bursts of one instruction its own results shift with the time, since their latency counts from its last pass. -/
def Team.unhold (t : Team) (ac : Nat) : Team :=
  let d := ac - t.sched.readyAt
  let n := if t.sched.burst.isEmpty then 0 else t.sched.landing
  ({ t with sched := { t.sched with now := t.sched.now + d, readyAt := t.sched.readyAt + d, waits := [], landing := n,
                                    pend := (t.sched.pend.take n).map (fun p => { p with ready := p.ready + d }) ++ t.sched.pend.drop n } } : Team).settle

/-- The domain that pays for a team's issue: the caller's inside a gate (R310). -/
def payer (t : Team) : Nat := match t.gate with
  | some g => g.did
  | none => t.flow.did
/-- What one selection of a team leaves of it: ac passed in issue, then gap more before it may be selected again (R52, R79, R80). -/
def Team.runs (t : Team) (clock ac gap : Nat) : Team :=
  ({ t with sched := { t.sched with now := t.sched.now + ac + gap, hold := none, waits := [], lastIssue := clock, readyAt := clock + ac + gap } } : Team).settle
/-- One selection of a team: a burst of ac, charged to the domain that pays (R80, R81, R320). -/
def burstTime (s : State) (t : Team) (ac gap : Nat) : State := (((s.putTeam (t.runs s.clock.ac ac gap)).charge t.place.core (payer t) ac).tick ac)
/-- The bursts that a team has still to issue, all at once: it comes to an instruction boundary (R80, R315). -/
def runOut (s : State) (t : Team) : State := match t.sched.burst with
  | [] => s
  | l => let u := t.unhold s.clock.ac
         burstTime s { u with sched := { u.sched with burst := [] } } l.sum t.sched.gap
/-- Sums of consecutive groups of 16 passes, from the ac of each pass (R80); fuel bounds the groups. -/
def burstSums : Nat → List Nat → List Nat
  | 0, _ => []
  | fuel + 1, l => if l.isEmpty then [] else (l.take 16).sum :: burstSums fuel (l.drop 16)

/-- An instruction has completed: its effect stands, its first burst of passes takes its ac now, the later ones each take a selection of their own (R80), and gap ac must pass after the last before the team's next instruction (R52). The pc stands where the meaning left it. -/
def finishTime (s : State) (t : Team) (gap : Nat) (bursts : List Nat) : Out :=
  let t := { t with sched := { t.sched with burst := bursts.drop 1, gap := gap } }
  .next (burstTime s t (bursts.headD 1) (if bursts.length ≤ 1 then gap else 0))
/-- An instruction of one issue has completed, or one that takes n ac. -/
def finishAt (s : State) (t : Team) (stl : BitVec 4) (n : Nat) : Out := finishTime s t stl.toNat [max 1 n]
/-- As finishAt, falling through to the next slot. -/
def finish (s : State) (t : Team) (stl : BitVec 4) (n : Nat) : Out := finishAt s ((t.setPc t.flow.pc.next)) stl n
/-- A held instruction has issued, but for one that waits to issue: for a graft result (R332) or for a scalar (R54, R79). -/
def Hold.issued (h : Hold) : Bool := h != .graft && h != .interlock
/-- The team is held at its instruction, which has had no effect and takes no issue slot (R17, R79, R119). -/
def holdTeam (s : State) (t : Team) (h : Hold) : Out :=
  let t := { t with sched := { t.sched with hold := some h,
                                            since := if t.sched.hold.any Hold.issued then t.sched.since else s.uid } }
  .next (s.putTeam t)

/-- A team's own write to its armed line wakes its monitor as any other write does (R187). -/
def keepWake (s : State) (t : Team) : Team :=
  match s.team? t.tid with
  | some u => { t with sync := { t.sync with mon := u.sync.mon } }
  | none => t

/-- Operations with an identity below this issued before the team's instruction did (R25, R26, R212). -/
def issuePoint (s : State) (t : Team) : Nat := if t.sched.hold.any Hold.issued then t.sched.since else s.uid
/-- Go on from a next state. -/
def thenDo (o : Out) (g : State → State) : Out := match o with
  | .next s => .next (g s)
  | .fault x => .fault x
  | .refused x => .refused x

/-! ## Scratchpad places -/

/-- A byte place in scratchpad: in the bed of a plot, or in a bank of the team's cluster (R162). -/
structure SpPlace where
  home : SpHome
  off : Nat
  deriving DecidableEq, Repr

/-- A bed of a plot. -/
def State.bed (s : State) (plot bed : Nat) : Bed :=
  match s.plot? plot with
  | some p => p.beds.getD bed Bed.none
  | none => Bed.none
/-- Change a bed of a plot. -/
def State.modBed (s : State) (plot bed : Nat) (f : Bed → Bed) : State :=
  match s.plot? plot with
  | some p => s.putPlot { p with beds := p.beds.modify bed f }
  | none => s
/-- Bytes that the declared footprints of a bed take (R162). -/
def footBytes (s : State) (plot bed : Nat) : Nat :=
  match s.plot? plot with
  | some p => (p.beds.getD bed Bed.none).teams * p.scratch
  | none => 0
/-- First byte of a bed's extension (R162). -/
def extBase (s : State) (plot bed : Nat) : Nat := (footBytes s plot bed + 32767) / 32768 * 32768

/-- Who accesses scratchpad: domain, plot, bed, cluster, whether inside a gate. -/
structure SpAgent where
  dom : Nat
  plot : Nat
  bed : Nat
  cluster : Nat
  inGate : Bool
  deriving DecidableEq, Repr

/-- Map a scratchpad offset: the place, or the fault code (R162, R168). In a gate only banks that the callee owns may be used (R307). -/
def spPlace (s : State) (ag : SpAgent) (off : Nat) : Except Nat SpPlace :=
  if off < footBytes s ag.plot ag.bed then (if ag.inGate then .error 0x0C else .ok ⟨.bed ag.plot ag.bed, off⟩)
  else if extBase s ag.plot ag.bed ≤ off && off < extBase s ag.plot ag.bed + 32768 * (s.bed ag.plot ag.bed).ext.length then
    (if ag.inGate then .error 0x0C else .ok ⟨.bed ag.plot ag.bed, off⟩)
  else if 0x400000 ≤ off && off < 0xC00000 then
    let b := (s.cluster ag.cluster).banks.getD ((off - 0x400000) / 131072) Bank.reset
    if b.owner == ag.dom && b.mode == .plot then .ok ⟨.banks, off - 0x400000⟩ else .error 0x0C
  else .error 0x09

/-- The scratchpad that holds a place: bed memory, or the bank with the offset inside it. -/
def spMem (s : State) (cluster : Nat) (p : SpPlace) : Scratch × Nat :=
  match p.home with
  | .bed pl b => ((s.bed pl b).mem, p.off)
  | .banks => (((s.cluster cluster).banks.getD (p.off / 131072) Bank.reset).mem, p.off % 131072)
/-- Change the scratchpad at a place. -/
def spMod (s : State) (cluster : Nat) (p : SpPlace) (f : Scratch → Scratch) : State :=
  match p.home with
  | .bed pl b => s.modBed pl b fun x => { x with mem := f x.mem }
  | .banks => s.modCluster cluster fun c => { c with banks := c.banks.modify (p.off / 131072) fun b => { b with mem := f b.mem } }
/-- Read bytes that lie in one granule. -/
def spRead (s : State) (cluster : Nat) (p : SpPlace) (n : Nat) : List Byte × Bool :=
  let (m, o) := spMem s cluster p
  (m.read o n, m.poisoned o n)
/-- The monitor space and line of a place: beds are 1, plot banks 2 (R186). -/
def spLine (cluster : Nat) (p : SpPlace) : Nat × Nat :=
  match p.home with
  | .bed pl b => (1, (pl * 4 + b) * 2 ^ 24 + p.off / 128)
  | .banks => (2, cluster * 2 ^ 24 + p.off / 128)
/-- Write bytes that lie in one granule; monitors on the line wake. -/
def spWrite (s : State) (cluster : Nat) (p : SpPlace) (bs : List Byte) (poison : Bool) : State :=
  let s := spMod s cluster p fun m => m.write (spMem s cluster p).2 bs poison
  wakeIf s (spLine cluster p).1 (spLine cluster p).2 0 fun _ => true
/-- The full bit of the granule at a place (R178). -/
def spFull (s : State) (cluster : Nat) (p : SpPlace) : Bool :=
  let (m, o) := spMem s cluster p
  m.full.contains (o / 16)
/-- Set the full bit of the granule at a place. -/
def spSetFull (s : State) (cluster : Nat) (p : SpPlace) (b : Bool) : State :=
  spMod s cluster p fun m => m.setFull ((spMem s cluster p).2 / 16) b

/-- The scratchpad agent of a team. -/
def Team.spAgent (t : Team) : SpAgent :=
  ⟨t.flow.did, t.place.plot, t.place.bed, clusterOf t.place.core, t.gate.isSome⟩
/-- The global-memory agent of a team (R14, R15). -/
def Team.agent (t : Team) : Agent := ⟨t.flow.did, t.stamp.priv, t.place.core, false⟩

/-! ## Ending a team -/

/-- Apply a function to every copy of a core's channels. -/
def mapCopies (s : State) (core : Nat) (f : Copy → Copy) : State :=
  s.modCore core fun c => { c with chans := c.chans.map fun ch => { ch with q := ch.q.map f } }
/-- R227: the frozen copies of an ending team are cancelled as faulted; the others will be when they would freeze. -/
def cancelAtEnd (s : State) (t : Team) : State :=
  mapCopies s t.place.core fun c =>
    if c.tid == t.tid then
      (if c.st == .frozen then { c with st := .marking, outcome := 2, mark := c.next, faultOnFreeze := true } else { c with faultOnFreeze := true })
    else c
/-- Note that a plot stops accruing RUN when every team placed is halted: one that has ended and is not yet freed still counts (R273, R283). -/
def runStop (s : State) (plot : Nat) : State :=
  match s.plot? plot with
  | some p =>
    if s.teams.any (fun t => t.place.plot == plot && (t.sched.status == .running || t.sched.status == .exited)) then s
    else match p.runFrom with
      | some a => s.putPlot { p with run := p.run + (s.clock.ac - a), runFrom := none }
      | none => s
  | none => s
/-- Note that a plot runs (R283). -/
def runStart (s : State) (plot : Nat) : State :=
  match s.plot? plot with
  | some p => if p.runFrom.isSome then s else s.putPlot { p with runFrom := some s.clock.ac }
  | none => s
/-- The end of a team's instruction stream: stacks discarded, frozen copies cancelled (R109, R227). -/
def stopTeam (s : State) (t : Team) : State :=
  let t := { t with flow := { t.flow with rs := [], spilled := 0, cs := [] }, gate := none,
                    sched := { t.sched with status := .exited, hold := none, waits := [], pend := [], wish := [], burst := [] } }
  cancelAtEnd (s.putTeam t) t
/-- A fault ends a team: the launch's completion record will report the first such fault (R194, R196, R272). -/
def endByFault (s : State) (t : Team) (code : Nat) (hflt : Word) (hpc : DWord) : State :=
  let s := stopTeam s t
  match s.launch? t.place.launch with
  | none => s
  | some l => s.putLaunch (if l.ended = 0 then { l with ended := 1, fcode := code, fhflt := hflt, fpc := hpc } else { l with ended := l.ended + 1 })

/-! ## Fetching -/

/-- Byte i of a line. -/
def lineByte (b : BitVec 512) (i : Nat) : Byte := b.extractLsb' (8 * i) 8
/-- Even parity over the line: the exclusive or of its 64 bytes is zero (R34). -/
def parityOk (b : BitVec 512) : Bool := (List.range 64).foldl (fun x i => x ^^^ lineByte b i) 0 == 0
/-- The line word (R32). -/
def lineWord (b : BitVec 512) : Word := b.extractLsb' 0 32
/-- The 96 bits of slot i (R31). -/
def lineSlot (b : BitVec 512) (i : Nat) : Slot := b.extractLsb' (32 + 96 * i) 96
/-- A malformed line word (R33). -/
def lineMalformed (w : Word) : Bool :=
  w.extractLsb' 15 9 != 0 || w.getLsbD 9 || 1 < ((List.range 5).filter fun i => w.getLsbD (10 + i)).length
/-- The 64 bytes of a line in memory as one number. -/
def memLine (s : State) (pa : Nat) : BitVec 512 := BitVec.ofNat 512 (bytesNat (homeRead s pa 64 0))

/-- The requests of a fetch (R275, R320, R322): the L1 serves a line that it holds; else the line is read through the segment, into the L1 where its policy allows. -/
def fetchTraffic (s : State) (core dom pol pa : Nat) : State :=
  if l1Serves s core dom 0 pol pa 64 then l1Touch s core dom (pa / 128)
  else if pol = 2 || isAperture pa then lineRead s core dom pol pa 64
  else loadLine s core dom 0 pol (pa / 128)
/-- A fetch waits for a segment that is quiesced, or for one through which the L1 would evict (R130). -/
def fetchStalls (s : State) (core dom pol pa : Nat) : Bool :=
  !l1Serves s core dom 0 pol pa 64 && (segStalls s core pol pa || (pol == 0 && !isAperture pa && evictStalls s core dom [pa / 128]))
/-- The copies through which a core fetches a line are dropped: the clean bytes of its L1 and the line of its segment (R35). -/
def dropCopies (s : State) (core dom pa : Nat) : State :=
  let cut := fun (l : L1Line) => if l.line == pa / 128 && l.dom == dom then { l with valid := l.valid &&& l.dirty, pois := l1Pois s l } else l
  (s.modCore core fun c => { c with l1 := (c.l1.map cut).filter fun l => l.valid != 0 }).modCluster (clusterOf core) fun c => segDrop c (pa / 128)
/-- A line that failed its parity check is fetched once more from memory past every cached copy, and the copies go (R35); it takes an ac. -/
def refetch (s : State) (core dom pa : Nat) : State :=
  let s := dropCopies s core dom pa
  (if isAperture pa then readOut s dom pa 64 else s.meter dom 3 64).tick 1
/-- Fetch a line under a domain: translated, permission and owner checked, parity checked with one refetch (R35): the line or the fault code. -/
def fetchLineOf (s : State) (ag : Agent) (addr : DWord) : Except Nat (BitVec 512) :=
  match translate s ag .fetch addr.toNat 3 with
  | .error c => .error c
  | .ok (pa, _) => let b := memLine s pa
    if parityOk b then .ok b else .error 0x04
/-- The line of a team's pc: the one it holds when that is the same line under the same domain, else a fetch; a line that it holds and that failed its parity check twice gives 0x04 (R35). -/
def teamLine (s : State) (t : Team) : Except Nat (BitVec 512) :=
  match t.line with
  | some l => if l.addr == t.flow.pc.line && l.did == t.flow.did then (if l.bad then .error 0x04 else .ok l.bits)
              else fetchLineOf s t.agent t.flow.pc.line
  | none => fetchLineOf s t.agent t.flow.pc.line
/-- Check a control transfer's target against BT (R37): none when it may land there, else the fault code. -/
def targetFault (s : State) (ag : Agent) (p : Pc) : Option Nat :=
  match fetchLineOf s ag p.line with
  | .error c => some c
  | .ok b => if p.slot ≤ 4 && (lineWord b).getLsbD p.slot then none else some 0x03
/-- The team holds the line of a slot under a domain. -/
def holdsLine (t : Team) (dom : Nat) (p : Pc) : Bool := t.line.any fun l => l.addr == p.line && l.did == dom && !l.bad
/-- The fetch of a target's line for its BT bit (R35, R37, R322), when the team does not hold that line: its walk (R320), its requests, and those of the second fetch when the bytes fail their parity check. DEDUCED, log 94: of a target at which the team goes on, this fetch is the one that FETCH_LINE performs. -/
def targetRead (s : State) (t : Team) (ag : Agent) (p : Pc) : State :=
  if holdsLine t ag.dom p then s else match translate s ag .fetch p.line.toNat 3 with
  | .error _ => tlbFill s ag p.line.toNat
  | .ok (pa, pol) =>
    let s' := fetchTraffic (tlbFill s ag p.line.toNat) ag.core ag.dom pol pa
    if parityOk (memLine s pa) then s' else refetch s' ag.core ag.dom pa
/-- The fetch of a target's line would have to wait for a quiesced segment (R130). -/
def targetStalls (s : State) (t : Team) (ag : Agent) (p : Pc) : Bool :=
  !holdsLine t ag.dom p && match translate s ag .fetch p.line.toNat 3 with
  | .error _ => false
  | .ok (pa, pol) => fetchStalls s ag.core ag.dom pol pa

/-! ## Exceptions -/

/-- What is known of a fault when it is taken. -/
structure TrapInfo where
  code : Nat
  async : Bool
  src : Nat
  rows : RowMask
  addr : Option DWord
  half : Bool
  deriving DecidableEq, Repr

/-- HFLT (R192). -/
def hfltOf (t : Team) (f : TrapInfo) (more : Bool) : Word :=
  BitVec.ofNat 32 (f.code + (if f.async then 256 else 0) + (if more then 512 else 0) + (if t.region.lost then 1024 else 0) + f.src * 65536)
/-- The handler's slot: HVEC.DISP lines from the entry line (R192). -/
def hvecPc (t : Team) : Pc :=
  ⟨t.stamp.entry + ((t.trap.hvec.extractLsb' 8 24).signExtend 64) * 64, (t.trap.hvec.extractLsb' 5 3).toNat⟩

/-- Pre-emption or handler entry wakes an armed monitor with cause 3, unless a wake is already held (R187). -/
def wakePreempt (m : Monitor) : Monitor := if m.woke.isSome then m else { m with woke := some 3 }

/-- Holds of an instruction that waits, which an asynchronous fault may enter the handler from (R119, R237). -/
def Hold.waits (h : Hold) : Bool := h == .waitc || h == .tryw || h == .rvwait || h == .fence || h == .macq
/-- TAKING AN EXCEPTION (R190), at an instruction boundary, 12 ac long: the team ends when HVEC.EN is 0 (R194), a fault in a handler is a double fault (R196), else the trap registers are written and the handler is entered at HVEC, whose slot is checked against BT. -/
def enterTrap (s : State) (t : Team) (f : TrapInfo) : State :=
  let t := t.drainWrites
  let hpc := t.flow.pc.bits ||| (if f.half then 8 else 0)
  let hflt := hfltOf t f (!t.region.pend.isEmpty)
  if !t.trap.hvec.getLsbD 0 then endByFault s t f.code hflt hpc
  else if t.trap.inHandler then endByFault s t 0x3F t.trap.hflt t.trap.hpc
  else
    let trap := { t.trap with hmask := t.flow.mask, hmaskIn := t.flow.mask, hfrow := if f.async then 0 else f.rows, hflt := hflt,
                              hpc := hpc, faddr := f.addr.getD t.trap.faddr, inHandler := true, inFmt := t.flow.fmt, inRs := t.rsDepth,
                              inCs := t.csDepth, inWait := f.async && t.sched.hold.any Hold.waits }
    let t0 := t
    let t := { t with trap := trap, region := { t.region with lost := false, lostCount := 0 },
                      sched := { t.sched with hold := none, waits := [], now := t.sched.now + 12, burst := [], readyAt := s.clock.ac + 12 },
                      sync := { t.sync with tryw := none, mwaitAt := none, mon := t.sync.mon.map wakePreempt } }
    let t := { t.setPc (hvecPc t) with line := none }
    let t := { t with flow := { t.flow with mask := t.liveRows } }
    match targetFault s t.agent (hvecPc t) with
    | none => (s.putTeam t).tick 12
    | some _ => endByFault (if targetStalls s t0 t.agent (hvecPc t) then s else targetRead s t0 t.agent (hvecPc t)) t 0x3F hflt hpc

/-- Truncate the reconvergence stack to a depth (R77, R309). -/
def cutRs (f : Flow) (depth : Nat) : Flow :=
  let n := f.rs.length + f.spilled
  if n ≤ depth then f
  else { f with rs := f.rs.drop (n - depth), spilled := min f.spilled depth }
/-- Truncate the call stack to a depth (R108). -/
def cutCs (f : Flow) (depth : Nat) : Flow := { f with cs := f.cs.drop (f.cs.length - depth) }

/-- The caller's registers back after a gate: sealed ones as they were, the shared window from the callee (R307, R308) or zero (R309). -/
def leaveGate (t : Team) (g : GateCtx) (zero : Bool) : Team :=
  let win := fun (l : List (List Elem)) => (List.range 8).map fun r =>
    if zero then List.replicate t.foot.rows Elem.zero else l.getD r []
  let q4 : BitVec 7 := if zero then 0 else t.regs.q &&& 0x0F
  { t with
    regs := { v := win t.regs.v ++ g.regs.v.drop 8,
              s := (if zero then List.replicate 16 Elem.zero else t.regs.s.take 16) ++ g.regs.s.drop 16,
              p := (if zero then List.replicate 4 0 else t.regs.p.take 4) ++ g.regs.p.drop 4,
              q := q4 ||| (g.regs.q &&& 0x70) },
    foot := { t.foot with vregs := g.vregs, sregs := g.sregs },
    flow := { cutCs (cutRs t.flow g.rs) g.cs with did := g.did, fmt := g.fmt, mask := g.mask &&& ~~~t.flow.retired },
    gate := none, line := none, sched := { t.sched with pend := t.sched.pend.filter fun p => p.reg < 8 } }

/-- The banks of the L1 of a core change as the granules that a team holds do (R164). -/
def carveMoves (s : State) (t : Team) : Bool := regBanks s t.place.core != regBanks (s.putTeam t) t.place.core
/-- The L1 of a core is written back when its banks change as a team's granules do (R164, R165). -/
def carveChange (s : State) (t : Team) : State := if carveMoves s t then l1WriteBack s t.place.core else s
/-- A gate is aborted (R309): the caller takes a gate fault at its CGATE. -/
def gateAbort (s : State) (t : Team) (g : GateCtx) (cause : Nat) : State :=
  let t := { leaveGate t g true with gcause := cause }
  let s := carveChange s t
  let t := (keepWake s t).setPc g.at_
  enterTrap s t ⟨0x30, false, 0, t.flow.mask, none, false⟩

/-- Entering the handler would fetch a line, that of a slot that fails its check, through a segment that is quiesced (R37, R130). -/
def trapStalls (s : State) (t : Team) : Bool :=
  t.trap.hvec.getLsbD 0 && !t.trap.inHandler && (targetFault s t.agent (hvecPc t)).isSome && targetStalls s t t.agent (hvecPc t)
/-- The team is held as it stood before its instruction, until a quiesced segment is released (R130). -/
def holdBack (s : State) (t : Team) : Out := holdTeam s ((s.team? t.tid).getD t) .quiesce
/-- The abort of a gate would wait for a segment that is quiesced: in the write back that the caller's granules need, or in fetching the line of a handler that fails its check (R130). -/
def abortStalls (s : State) (t : Team) (g : GateCtx) : Bool :=
  let t' := leaveGate t g true
  (carveMoves s t' && l1Stalls s t.place.core) || trapStalls (carveChange s t') t'
/-- The team's own instruction aborts its gate (R309), which waits for a segment that is quiesced (R130). -/
def abortNow (s : State) (t : Team) (g : GateCtx) (cause : Nat) : Out :=
  if abortStalls s t g then holdBack s t else .next (gateAbort s t g cause)
/-- A synchronous fault of the instruction at the pc: inside a gate it aborts the gate with cause 5 (R309), else the trap is taken (R190). -/
def raiseAt (s : State) (t : Team) (f : TrapInfo) : Out :=
  match t.gate with
    | some g => abortNow s t g 5
    | none => if trapStalls s t then holdBack s t else .next (enterTrap s t f)
/-- A synchronous fault that names every row of the mask. DESIGN CHOICE, log 93: so does a code that R188 calls per row when it is raised for no row in particular. -/
def raise (s : State) (t : Team) (code : Nat) : Out := raiseAt s t ⟨code, false, 0, t.flow.mask, none, false⟩
/-- A synchronous fault with an address (a fetch of a target, R37). DESIGN CHOICE, log 93: HFROW names every row of the mask. -/
def raiseAddr (s : State) (t : Team) (code : Nat) (a : DWord) : Out :=
  raiseAt s t ⟨code, false, 0, t.flow.mask, if code == 0x03 then none else some a, false⟩
/-- A synchronous fault that names particular rows, with the address of the lowest (R177). -/
def raiseRows (s : State) (t : Team) (code : Nat) (rows : RowMask) (a : Option DWord) : Out := raiseAt s t ⟨code, false, 0, rows, a, false⟩

/-- An engine records an asynchronous fault; ASYNC_FAULT_REPORT delivers it (R189). -/
def State.report (s : State) (tid code src : Nat) (addr : DWord) (dcause : Nat) : State :=
  { s with reports := s.reports ++ [⟨tid, ⟨code, src, addr, dcause⟩⟩] }
/-- Mark an operation of a team completed (R20); OPERATION_RETIRE retires it in order. -/
def State.opDone (s : State) (tid uid : Nat) : State :=
  match s.team? tid with
  | none => s
  | some t => s.putTeam { t with ops := t.ops.map fun o => if o.uid == uid then { o with done := true } else o }

/-! ## Reconvergence stack -/

/-- Where spilled entry k of a team starts in its bed (R78). -/
def spillAt (t : Team) (k : Nat) : Int := ((t.place.place + 1) * t.foot.scratch : Nat) - (320 * (k + 1) : Nat)
/-- The 320 bytes of a spilled entry (R78). -/
def entryBytes (e : RsEntry) : List Byte :=
  natBytes 8 e.join.bits.toNat ++ natBytes 8 ((e.pt.bits ||| (if e.v then 0x8000000000000000 else 0)).toNat) ++ natBytes 4 e.f.toNat
    ++ natBytes 4 (summaryOf e.m).toNat ++ natBytes 128 e.m.toNat ++ natBytes 4 (summaryOf e.t).toNat ++ natBytes 128 e.t.toNat ++ List.replicate 36 0
/-- A spilled entry read back; the masks are ANDed with the rows that exist and have not retired (R78), and F keeps the bits that FMT has (R86). -/
def entryOf (t : Team) (bs : List Byte) : RsEntry :=
  let n := fun o k => bytesNat ((bs.drop o).take k)
  { join := pcOf (BitVec.ofNat 64 (n 0 8)), pt := pcOf (BitVec.ofNat 64 (n 8 8)), v := (BitVec.ofNat 64 (n 8 8)).getLsbD 63,
    f := BitVec.ofNat 32 (n 16 4 % 2 ^ 21), m := BitVec.ofNat 1024 (n 24 128) &&& t.liveRows, t := BitVec.ofNat 1024 (n 156 128) &&& t.liveRows }
/-- The monitors armed on lines of a bed that a range touches wake (R187). -/
def wakeBed (s : State) (plot bed off n : Nat) : State :=
  (unitsOf 128 off n).foldl (fun s u => wakeIf s 1 ((plot * 4 + bed) * 2 ^ 24 + u) 0 fun _ => true) s
/-- Push an entry; with 32 in hardware the oldest spills first, a write to the bed like any other (R187). None when the spill would start below the footprint (R77, R78). -/
def pushRs (s : State) (t : Team) (e : RsEntry) : Option (State × Team) :=
  if t.flow.rs.length < 32 then some (s, { t with flow := { t.flow with rs := e :: t.flow.rs } })
  else match t.flow.rs.getLast? with
    | none => some (s, t)
    | some old =>
      let a := spillAt t t.flow.spilled
      if a < (t.place.place * t.foot.scratch : Nat) || t.gate.isSome then none
      else
        let s := s.modBed t.place.plot t.place.bed fun b => { b with mem := b.mem.write a.toNat (entryBytes old) false }
        let s := wakeBed s t.place.plot t.place.bed a.toNat 320
        some (s, keepWake s { t with flow := { t.flow with rs := e :: t.flow.rs.dropLast, spilled := t.flow.spilled + 1 } })
/-- Refill the newest spilled entry when the hardware has room (R77). -/
def refillRs (s : State) (t : Team) : Team :=
  if t.flow.spilled = 0 || 32 ≤ t.flow.rs.length then t
  else
    let a := (spillAt t (t.flow.spilled - 1)).toNat
    let e := entryOf t ((s.bed t.place.plot t.place.bed).mem.read a 320)
    { t with flow := { t.flow with rs := t.flow.rs ++ [e], spilled := t.flow.spilled - 1 } }
/-- RCV (R77), repeated while the mask it leaves is zero; fuel bounds the entries. In a handler the entries at or below floor are not acted on when a path merely empties. DESIGN CHOICE, log 59: with no entry above the floor left to act on, the team runs on at the last join with an empty mask. -/
def rcvFrom (s : State) : Nat → Nat → Team → Team
  | 0, _, t => t
  | fuel + 1, floor, t =>
    if t.rsDepth ≤ floor then t else
    match t.flow.rs with
    | [] => t
    | e :: r =>
      if e.v then
        let t := { t with flow := { t.flow with mask := e.t &&& ~~~t.flow.retired, fmt := e.f, rs := { e with v := false } :: r } }
        let t := t.setPc e.pt
        if t.flow.mask = 0 then rcvFrom s fuel floor t else t
      else
        let t := { t with flow := { t.flow with mask := e.m &&& ~~~t.flow.retired, fmt := e.f, rs := r } }
        let t := (refillRs s t).setPc e.join
        if t.flow.mask = 0 then rcvFrom s fuel floor t else t
/-- Steps that RCV may take: two for each entry. -/
def rcvFuel (t : Team) : Nat := 2 * t.rsDepth + 1
/-- Every active row of the current path has retired: the path ends as if RCV executed (R77). -/
def endPath (s : State) (t : Team) : Team :=
  if t.flow.mask = 0 then rcvFrom s (rcvFuel t) (if t.trap.inHandler then t.trap.inRs else 0) t else t

/-! ## Returning from an exception -/

/-- RETURN FROM EXCEPTION (R193, R198): mask, FMT and stacks as recorded, and the slot the mode names; none when region is refused (R199). DEDUCED, log 97: skip acts as retry after an asynchronous fault (R198), but for one that was taken while the team was held in a wait, which skip abandons (R119). -/
def leaveTrap (s : State) (t : Team) (mode : Nat) : Option Team :=
  let async := t.trap.hflt.getLsbD 8
  let region := mode == 1 && !async
  if region && (!t.region.valid || t.trap.inRs != t.region.rs || t.trap.inCs != t.region.cs) then none
  else
    let back := pcOf (t.trap.hpc &&& ~~~(8#64))
    let target := if mode == 2 && async && t.trap.inWait then back.next else if mode == 0 || async then back else if mode == 1 then pcOf t.region.regpc else back.next
    let flow := cutCs (cutRs t.flow t.trap.inRs) t.trap.inCs
    let flow := { flow with mask := t.trap.hmask &&& t.trap.hmaskIn &&& t.liveRows, fmt := t.trap.inFmt }
    let t := { t.drainWrites with flow := flow, trap := { t.trap with inHandler := false } }
    let t := refillRs s t
    some (t.setPc target)

/-! ## Issue -/

/-- The gate rules of R307 on instructions; BRD's spill is judged when it pushes, and a nested CGATE by R306. WRSR is allowed only for FMT. -/
def gateAllows (i : Instr) : Bool :=
  match i with
  | .ldc _ => false
  | .ld _ | .st _ | .lds _ | .sts _ | .ldf _ | .stf _ => true
  | .ldp f | .stp f => f.space == .scratchpad
  | .atom f | .cas f | .atomagg f | .pref f | .marm f | .mwait f | .cline f => f.space == .global
  | .bra _ | .brc _ | .brd _ | .loop _ | .call _ | .calli _ | .ret _ | .rcv _ | .nop _ | .yield _ | .cgret _ => true
  | .fence _ | .setfmt _ | .rdsr _ | .clk _ | .rng _ => true
  | .cgate _ => true
  | .exit _ | .trap _ | .hret _ => false
  | .wrsr f => f.imm == 0x008
  | .cpy _ | .cpyg _ | .cpys _ | .cpyf _ | .wmrd _ | .cpyc _ | .cpym _ | .chst _ => false
  | .mloop _ | .mzero _ | .mst _ | .mlda _ | .mstat _ | .mqset _ | .mrel _ | .macq _ => false
  | .group _ | .join _ | .route _ | .combn _ | .gstat _ => false
  | .spawn _ | .qenq _ | .qdeq _ | .qstl _ | .qput _ | .dcnt _ | .govst _ => false
  | .waitc _ | .tryw _ | .rvinit _ | .rvarr _ | .rvwait _ | .carve _ | .tlbi _ | .cctl _ | .halt _ | .bkpt _ => false
  | _ => true

/-- What a team may issue while a graft instruction is not yet applied (R332). -/
def graftAllows (i : Instr) : Bool :=
  match i with
  | .nop _ | .bra _ | .loop _ | .call _ | .calli _ | .ret _ | .exit _ => true
  | .brc f => f.cond.team
  | .rdsr f => !(f.imm == 0x101 || (0x120 ≤ f.imm && f.imm ≤ 0x13F) || (0x040 ≤ f.imm && f.imm ≤ 0x07F))
  | .sadd _ | .ssub _ | .smul _ | .smulh _ | .smad _ | .sdiv _ | .srem _ | .sand _ | .sor _ | .sxor _ | .sshl _ | .sshr _ | .ssra _ => true
  | .smin _ | .smax _ | .sclz _ | .spop _ | .sbfx _ | .sbfi _ | .ssel _ | .smov _ | .scmp _ | .saddx _ | .smadx _ => true
  | .srdv _ | .swrv _ | .sfadd _ | .sfma _ | .sfcmp _ | .scvt _ => true
  | .fence _ | .waitc _ | .tryw _ | .rvinit _ | .rvarr _ | .rvwait _ | .setfmt _ | .wrsr _ | .carve _ | .tlbi _ | .cctl _ => true
  | .clk _ | .rng _ | .halt _ | .bkpt _ => true
  | .cpy _ | .cpyg _ | .cpys _ | .cpyf _ | .wmrd _ | .cpyc _ | .cpym _ | .chst _ => true
  | .mloop _ | .mzero _ | .mst _ | .mlda _ | .mstat _ | .mqset _ | .mrel _ | .macq _ => true
  | .spawn _ | .qenq _ | .qdeq _ | .qstl _ | .qput _ | .dcnt _ | .govst _ => true
  | _ => false


/-- CARVE keeps the mark of a preceding RVWAIT, so that its body can read it (R128). -/
def keepsRvMark (i : Instr) : Bool := match i with
  | .carve _ => true
  | _ => false

/-- A decode fault of the instruction at the pc (R39); half tells whether only half 1 of a paired word raised it (R190). -/
def raiseDecode (s : State) (t : Team) (code : Nat) (half : Bool) : Out := raiseAt s t ⟨code, false, 0, t.flow.mask, none, half⟩
/-- The scalars of an operand of an S form: a pair under TY 3 and 4 (R43). -/
def sNames (ty : STy) (r : BitVec 10) : List Nat := if ty == .i64 || ty == .n64 then [r.toNat, r.toNat + 1] else [r.toNat]
/-- A run of scalars. -/
def sRun (r : BitVec 10) (n : Nat) : List Nat := (List.range n).map (r.toNat + ·)
/-- The scalar registers that an instruction reads or writes (R54): V instructions and paired words name none. -/
def scalarsOf (i : Instr) : List Nat :=
  match i with
  | .sadd f | .ssub f | .smul f | .smulh f | .smad f | .sdiv f | .srem f | .sand f | .sor f | .sxor f | .sshl f | .sshr f | .ssra f | .smin f | .smax f | .sbfx f | .sbfi f | .ssel f | .sfadd f | .sfma f => sNames f.ty f.d ++ sNames f.ty f.a ++ if f.ib then [] else sNames f.ty f.b
  | .sclz f | .spop f | .smov f | .scvt f => sNames f.ty f.d ++ sNames f.ty f.a
  | .scmp f | .sfcmp f => sNames f.ty f.a ++ if f.ib then [] else sNames f.ty f.b
  | .saddx f => sRun f.d 2 ++ sRun f.a 2 ++ if f.ib then [] else [f.b.toNat]
  | .smadx f => sRun f.d 2 ++ f.a.toNat :: if f.ib then [] else [f.b.toNat]
  | .srdv f => sNames f.ty f.d ++ if f.ib then [] else [f.b.toNat]
  | .swrv f => sNames f.ty f.a
  | .ld f | .st f | .lds f | .sts f | .ldp f | .stp f | .ldc f | .atom f | .cas f | .atomagg f | .ldf f | .stf f | .pref f | .marm f | .mwait f | .cline f => sRun f.base 2
  | .loop f => [f.scalar.toNat]
  | .calli f => sRun f.scalar 2
  | .cpy f | .cpyg f | .cpys f | .cpyf f | .wmrd f | .cpyc f | .cpym f | .chst f | .mstat f | .mqset f | .gstat f | .qenq f | .qdeq f | .qstl f | .qput f | .dcnt f | .govst f => sRun f.rbase 8
  | .mloop f | .mst f | .mlda f | .group f | .join f | .route f | .combn f => sRun f.rbase 16
  | .spawn f => sRun f.rbase 32
  | .tryw f => if f.sub == 0 then [f.a.toNat] else [f.a.toNat, f.b.toNat]
  | .setfmt f => if f.ib then [] else [f.a.toNat]
  | .rdsr f => [f.d.toNat]
  | .wrsr f | .carve f | .cctl f => [f.a.toNat]
  | .tlbi f => if f.imm == 2 then [] else sRun f.a 2
  | .clk f => sRun f.d 2
  | .rng f => if f.ty == 4 then sRun f.d 2 else [f.d.toNat]
  | _ => []
/-- A word of the record. -/
def mWd (w : List Word) (i : Nat) : Nat := (w.getD i 0).toNat
/-- K-steps (R241). -/
def mKs (w : List Word) : Nat := mWd w 10 / 65536 + 1
/-- META (R241). -/
def mMeta (w : List Word) : Nat := mWd w 11 / 4096 % 4
/-- Registers that an MLOOP with register metadata reads (R245). -/
def metaRegs (vop : Nat) (w : List Word) : List Nat := if mMeta w = 2 then (List.range (2 * mKs w)).map (vop + ·) else []
/-- A word of a record. -/
def gWd (w : List Word) (i : Nat) : Nat := (w.getD i 0).toNat
/-- Columns of a GROUP record: register and operator (R334). -/
def groupCols (w : List Word) : List (Nat × Nat) :=
  (List.range (gWd w 0 % 32)).map fun c => let e := gWd w (8 + c / 2) / 65536 ^ (c % 2) % 65536
                                           (e / 256, e % 16)
/-- Registers of a column: two for sum.i64. -/
def colRegs (c : Nat × Nat) : List Nat := if c.2 = 1 then [c.1, c.1 + 1] else [c.1]
/-- MCNT. -/
def jMcnt (w : List Word) : Nat := gWd w 1 / 65536 % 256
/-- Result values per slot. -/
def rDom (w : List Word) : Nat := gWd w 6 % 128 + 1
/-- The vector registers that an instance writes in its teams (R332, R334, R337, R347). -/
def instWrites (x : Instance) : List Nat := match x.kind with
  | 0 => (groupCols x.wds).flatMap colRegs
  | 1 => if jMcnt x.wds = 255 then [] else [jMcnt x.wds]
  | 3 => (List.range (rDom x.wds)).map (x.vop + ·)
  | _ => []
/-- The vector registers that a team's graft instruction, not yet applied, has still to write (R54, R332): those of its result, or before there is one all that its instance may write. -/
def graftOwes (s : State) (t : Team) : List Nat := match t.graft.pending, t.graft.result with
  | none, _ => []
  | some _, some r => r.writes.map (·.1)
  | some op, none => ((s.cluster (clusterOf t.place.core)).insts.find? fun x => x.deposits.any fun d => d.tid == t.tid && d.op == op).elim [] instWrites
/-- The vector registers that an instruction which may issue before a graft instruction is applied reads, or for SWRV writes (R54, R55, R332). -/
def vectorsOf (t : Team) (i : Instr) : List Nat := match i with
  | .srdv f => sNames f.ty f.a
  | .swrv f => sNames f.ty f.d
  | .mloop f => metaRegs f.vop.toNat (t.record f.rbase.toNat 16)
  | _ => []
/-- The status words of a team's queue operations that have not completed (R288); inside a gate only the shared scalars are the same registers (R307). -/
def pendingStatus (s : State) (t : Team) : List Nat :=
  (((s.gov.waiting ++ s.gov.sent).filter fun o => o.tid == t.tid).map fun o => o.rbase + 7).filter fun r => t.gate.isNone || decide (r < 16)
/-- The instruction needs a scalar whose value is not yet written, or a vector register that a graft instruction has still to write (R54, R55, R79). -/
def interlocked (s : State) (t : Team) (i : Instr) : Bool := (pendingStatus s t).any (scalarsOf i).contains || (graftOwes s t).any (vectorsOf t i).contains
/-- The team by whose footprint an operand is legal at decode (R39): inside a gate its own registers beside the callee's, whether sealed or not, since a sealed register is no illegal operand and only an access to it is a fault (R307). -/
def Team.legal (t : Team) : Team := match t.gate with
  | none => t
  | some g => { t with gate := none, foot := { t.foot with vregs := max t.foot.vregs g.vregs, sregs := max t.foot.sregs g.sregs } }
/-- Inside a gate, whether the header predicate is sealed: q4 to q6 decide whether the instruction is suppressed (R307). -/
def readsSealed (t : Team) (suppressed : Team → Bool) : Bool :=
  t.gate.isSome && suppressed { t with regs := { t.regs with q := t.regs.q ||| 0x70 } } != suppressed { t with regs := { t.regs with q := t.regs.q &&& 0x0F } }

/-- The common front of every team instruction in the order of R40: illegal instruction, illegal operand, graft hold (R332), predicate, the gate rules (R307, faults of step 9: an instruction not allowed, then a sealed register), interlock (R54), then the body. DESIGN CHOICE, log 111: an instruction that is not suppressed accesses every register that it names. An instruction other than RVWAIT clears the mark that CARVE looks for (R128). half01 and half02 say when only half 1 of a paired word is illegal. DESIGN CHOICE, log 84: a suppressed instruction takes one ac and no passes. -/
def issueWith (i : Instr) (s : State) (stl : BitVec 4) (operandsOk : Team → Bool) (suppressed : Team → Bool) (half01 : Bool) (half02 : Team → Bool)
    (body : State → Team → Out) : Out :=
  match s.focus.bind s.team? with
  | none => .refused .noTeamSelected
  | some t =>
    let t := t.unhold s.clock.ac
    if !i.wf then raiseDecode s t 0x01 half01
    else if !operandsOk t.legal then raiseDecode s t 0x02 (half02 t.legal)
    else if t.gate.isNone && t.graft.pending.isSome && !graftAllows i then holdTeam s t .graft
    else if readsSealed t suppressed then raiseDecode s t 0x02 false
    else if suppressed t then finish s { t with sync := { t.sync with rvLive := false } } stl 1
    else match t.gate.filter fun _ => !gateAllows i with
      | some g => abortNow s t g 8
      | none =>
        if !operandsOk t then raiseDecode s t 0x02 false
        else if interlocked s t i then holdTeam s t .interlock
        else body s { t with sync := { t.sync with rvLive := keepsRvMark i && t.sync.rvLive } }
/-- issueWith for an instruction that is no paired word. -/
def issue (i : Instr) (s : State) (stl : BitVec 4) (operandsOk : Team → Bool) (suppressed : Team → Bool) (body : State → Team → Out) : Out :=
  issueWith i s stl operandsOk suppressed false (fun _ => false) body
/-- In a gate, predicates p4 to p6 and q4 to q6 are sealed (R307). -/
def Team.predOk (t : Team) (n : Nat) : Bool := t.gate.isNone || n % 8 < 4 || n % 8 == 7

/-! ## A team as placed -/

/-- A team's state at its first instruction (R28, R72, R86, R120, R192): registers zero but for the scalars given, every row below TEAMROWS active. -/
def newTeam (tid : Nat) (place : Place) (foot : Foot) (stamp : Stamp) (ac : Nat) (scalars : List Elem) : Team :=
  { tid := tid, place := place, foot := foot, grans := [], stamp := stamp,
    regs := { v := List.replicate foot.vregs (List.replicate foot.rows Elem.zero),
              s := scalars.take foot.sregs ++ List.replicate (foot.sregs - scalars.length) Elem.zero, p := List.replicate 7 0, q := 0 },
    flow := { pc := ⟨stamp.entry, stamp.entrySlot⟩, mask := rowsBelow foot.rows, retired := 0, fmt := 0, did := stamp.home, rs := [], spilled := 0,
              cs := [], entered := false },
    schk := 0,
    trap := { hvec := 0, hflt := 0, hpc := 0, hmask := 0, hmaskIn := 0, hfrow := 0, faddr := 0, trapArg := 0, inHandler := false, inFmt := 0,
              inRs := 0, inCs := 0, inWait := false, dcause := 0 },
    region := { hrgn := 0, regpc := 0, valid := false, rs := 0, cs := 0, pend := [], lost := false, lostCount := 0 },
    gate := none, gcause := 0, ops := [],
    sync := { want := List.replicate 24 1, mon := none, mwcause := 0, tryw := none, trywFrom := 0, mwaitAt := none, lastSpurious := none,
              rvLive := false },
    sched := { now := 0, pend := [], burst := [], gap := 0, lastIssue := ac, readyAt := ac, yielded := false, status := .running, hold := none,
               waits := [], wish := [], landing := 0, since := 0, haltAt := ac },
    graft := { kind := 0, last := 0, inrows := 0, outn := 0, spilled := 0, dropped := 0, nans := 0, seq := 0, pending := none, result := none },
    mat := ⟨0, 0⟩, line := none }

end Sys2Proof.Machine
end

