-- ==== Sys2Proof/Machine/Operands.lean ====
section
/-! DEFINITION. Operand forms and what makes an operand illegal, fault 0x02 (R39, R42, R43, R44, R46): blocks and runs of vector registers, scalars, even pairs, records and predicate numbers. -/

namespace Sys2Proof.Machine

/-- A vector register below .vregs. -/
def vregOk (t : Team) (r : Nat) : Bool := decide (r < t.foot.vregs)
/-- A block of registers inside the 16 by 16 grid and below .vregs (R42). -/
def blockOk (t : Team) (b eh ew : Nat) : Bool :=
  decide (b % 16 + ew ≤ 15) && decide (b / 16 + eh ≤ 15) && vregOk t (b + 16 * eh + ew)
/-- A run of consecutively numbered registers that ends at or below v255 and below .vregs (R136). -/
def runOk (t : Team) (b n : Nat) : Bool := decide (b + n ≤ 256) && decide (b + n ≤ t.foot.vregs)
/-- A scalar register below .sregs (R43). -/
def sregOk (t : Team) (r : Nat) : Bool := decide (r < t.foot.sregs)
/-- An even scalar pair below .sregs (R43, R44). -/
def xregOk (t : Team) (r : Nat) : Bool := r % 2 == 0 && decide (r + 1 < t.foot.sregs)
/-- A scalar record whose base is a multiple of 8 and that lies below .sregs (R46). -/
def recordOk (t : Team) (r n : Nat) : Bool := r % 8 == 0 && decide (r + n ≤ t.foot.sregs)
/-- A field that holds a predicate number 0 to 15 (R42). -/
def prednumOk (t : Team) (n : Nat) : Bool := decide (n < 16) && t.predOk n
/-- RV: 24 to 30 are illegal, 31 means none (R46). -/
def rvOk (n : Nat) : Bool := decide (n < 24) || n == 31

/-- How a field of a V instruction is used. -/
inductive Use where
  | unused | block | run (n : Nat) | anyPred | rowPred | teamPred
  deriving DecidableEq, Repr

/-- Whether a field's value is legal for its use. DESIGN CHOICE, log 88: a D outside the range of VCMP, FCMP or VOTE (R142) counts as an operand that is illegal at decode, before the predicate. -/
def useOk (t : Team) (f : VForm) (u : Use) (x : BitVec 8) : Bool :=
  match u with
  | .unused => true
  | .block => blockOk t x.toNat f.eh.toNat f.ew.toNat
  | .run n => runOk t x.toNat n
  | .anyPred => prednumOk t x.toNat
  | .rowPred => decide (x.toNat < 8) && t.predOk x.toNat
  | .teamPred => decide (8 ≤ x.toNat) && prednumOk t x.toNat

/-- How a V instruction uses D, A, B and C. -/
structure Uses where
  d : Use
  a : Use
  b : Use
  c : Use
  deriving DecidableEq, Repr

/-- D and A are blocks. -/
def usesDA : Uses := ⟨.block, .block, .unused, .unused⟩
/-- D, A and B are blocks. -/
def usesDAB : Uses := ⟨.block, .block, .block, .unused⟩
/-- D, A, B and C are blocks. -/
def usesDABC : Uses := ⟨.block, .block, .block, .block⟩

/-- The operands of a V instruction are legal: B is no register when it is the immediate (VLOP3 keeps it), and a broadcast A is one register (R42). -/
def vOperandsOk (u : Uses) (keepB : Bool) (f : VForm) (t : Team) : Bool :=
  t.predOk f.prd.index.toNat && useOk t f u.d f.d
    && (if f.ba && u.a == .block then vregOk t f.a.toNat else useOk t f u.a f.a)
    && (if f.ib && !keepB then true else useOk t f u.b f.b) && useOk t f u.c f.c

/-- Registers of a block in the order of R74: grid rows, then columns. -/
def blockRegs (b eh ew : Nat) : List Nat :=
  (List.range (eh + 1)).flatMap fun i => (List.range (ew + 1)).map fun j => b + 16 * i + j
/-- The registers of a field of a V form. -/
def fieldRegs (f : VForm) (x : BitVec 8) : List Nat := blockRegs x.toNat f.eh.toNat f.ew.toNat
/-- The registers that A names, one for each element: a broadcast A repeats (R41). -/
def aRegs (f : VForm) : List Nat :=
  if f.ba then (fieldRegs f f.d).map fun _ => f.a.toNat else fieldRegs f f.a

/-- Whether TY of an S form names a pair (R43). -/
def STy.wide (t : STy) : Bool := t == .i64 || t == .n64
/-- A scalar operand of an S form: a pair under TY 3 and 4 (R43). -/
def sOpOk (t : Team) (f : SForm) (x : BitVec 10) : Bool := if STy.wide f.ty then xregOk t x.toNat else sregOk t x.toNat
/-- The header predicate of a form whose kind is 1. -/
def qHeaderOk (t : Team) (i : BitVec 3) : Bool := t.predOk i.toNat
/-- D, A and B (unless immediate) of an S form. -/
def sDAB (f : SForm) (t : Team) : Bool :=
  qHeaderOk t f.pq && sOpOk t f f.d && sOpOk t f f.a && (f.ib || sOpOk t f f.b)
/-- D and A of an S form. -/
def sDA (f : SForm) (t : Team) : Bool := qHeaderOk t f.pq && sOpOk t f f.d && sOpOk t f f.a
/-- A and B of a compare, whose D is a predicate number 8 to 15 (R60). -/
def sCmpOk (f : SForm) (t : Team) : Bool :=
  qHeaderOk t f.pq && decide (8 ≤ f.d.toNat) && prednumOk t f.d.toNat && sOpOk t f f.a && (f.ib || sOpOk t f f.b)

/-- The header predicate of an S, B, E or Y form (R38). -/
def hdr (neg : Bool) (pq : BitVec 3) : Prd := ⟨neg, true, pq⟩

/-- Whether a row's lane of a V form is suppressed as a whole. -/
def vSuppressed (f : VForm) (t : Team) : Bool := t.suppressed f.prd
/-- Suppression of an S form. -/
def sSuppressed (f : SForm) (t : Team) : Bool := t.suppressed (hdr f.neg f.pq)
/-- Suppression of an M form. -/
def mSuppressed (f : MForm) (t : Team) : Bool := t.suppressed f.prd
/-- Suppression of a B form. -/
def bSuppressed (f : BForm) (t : Team) : Bool := t.suppressed (hdr f.neg f.pq)
/-- Suppression of an E form. -/
def eSuppressed (f : EForm) (t : Team) : Bool := t.suppressed (hdr f.neg f.pq)
/-- Suppression of a Y form. -/
def ySuppressed (f : YForm) (t : Team) : Bool := t.suppressed (hdr f.neg f.pq)

/-- The record of an E form of n scalars lies below .sregs, and RV is legal (R46). -/
def eOk (n : Nat) (f : EForm) (t : Team) : Bool := qHeaderOk t f.pq && recordOk t f.rbase.toNat n && rvOk f.rv.toNat

end Sys2Proof.Machine
end

