-- ==== Sys2Proof/Machine/Place.lean ====
section
/-! DEFINITION. Partition registers as the device reads them (R298-R301) and what of a quadrant is taken (R70). -/

namespace Sys2Proof.Machine

/-- VALID of a core slot. -/
def slotValid (w : List Word) : Bool := (w.getD 0 0).getLsbD 31
/-- DOMAIN of a core slot. -/
def slotDomain (w : List Word) : Nat := ((w.getD 0 0).extractLsb' 0 6).toNat
/-- SLICED of a core slot. -/
def slotSliced (w : List Word) : Bool := (w.getD 0 0).getLsbD 30
/-- WEIGHT of a core slot: W_d of R81. -/
def slotWeight (w : List Word) : Nat := ((w.getD 0 0).extractLsb' 16 8).toNat
/-- MSHARE of a core slot. -/
def slotShare (w : List Word) : Nat := ((w.getD 0 0).extractLsb' 12 4).toNat
/-- DEBUG of a core slot. -/
def slotDebug (w : List Word) : Bool := (w.getD 0 0).getLsbD 9
/-- ROWBASE of a core slot. -/
def slotRowBase (w : List Word) : Nat := ((w.getD 1 0).extractLsb' 0 10).toNat
/-- ROWLIM of a core slot. -/
def slotRowLim (w : List Word) : Nat := ((w.getD 1 0).extractLsb' 16 10).toNat
/-- A granule lies in the register range of a core slot. -/
def slotGran (w : List Word) (g : Nat) : Bool := decide (slotRowBase w ≤ g) && decide (g < slotRowLim w)
/-- BSMASK bit of a bank. -/
def slotBank (w : List Word) (b : Nat) : Bool := (w.getD (2 + b / 32) 0).getLsbD (b % 32)
/-- CHAN of a core slot. -/
def slotChans (w : List Word) : BitVec 16 := (w.getD 5 0).extractLsb' 0 16
/-- LEN of a core slot in microseconds. -/
def slotLen (w : List Word) : Nat := ((w.getD 8 0).extractLsb' 0 16).toNat
/-- CAP of a core slot in slices. -/
def slotCap (w : List Word) : Nat := ((w.getD 8 0).extractLsb' 16 3).toNat
/-- STATE of a core slot. -/
def slotState (w : List Word) : Nat := ((w.getD 10 0).extractLsb' 0 2).toNat
/-- The index of the valid slot of a core that names a domain (R298). -/
def slotIndex (c : Core) (dom : Nat) : Option Nat := (List.range 8).find? fun i => slotValid (c.slots.getD i []) && slotDomain (c.slots.getD i []) == dom
/-- The slot of a core that names a domain. -/
def coreSlot (s : State) (core dom : Nat) : Option (List Word) :=
  match slotIndex (s.core core) dom with
  | some i => (s.core core).slots[i]?
  | none => none

/-- Teams that hold a team slot of a quadrant. -/
def quadTeams (s : State) (core quad : Nat) : List Team :=
  s.teams.filter fun t => t.place.core == core && t.place.quad == quad && !s.partOut t.tid 1
/-- Scalars that a team takes of its quadrant's file. -/
def teamSregs (t : Team) : Nat := match t.gate with
  | some g => g.sregs + (t.foot.sregs - 16)
  | none => t.foot.sregs
/-- The granules of a slot's range that no team of the quadrant holds, whatever its domain (R70, R299). -/
def freeGrans (s : State) (core quad : Nat) (w : List Word) : List Nat :=
  let taken := quadGrans s core quad
  ((List.range (slotRowLim w)).drop (slotRowBase w)).filter fun g => !taken.contains g
/-- Free granules dealt to n groups, so many to each. DESIGN CHOICE, log 60: the lowest free granules are taken; R70 lets the governor take any and shows software none of it. -/
def dealGrans : Nat → Nat → List Nat → List (List Nat)
  | 0, _, _ => []
  | n + 1, per, l => l.take per :: dealGrans n per (l.drop per)
/-- Granules of the vector carve that each quadrant has once a bed's banks are taken and 2 banks stay in the L1 (R164). -/
def carveRoom (s : State) (core more : Nat) : Nat := (94 - (bedBanks s core + more)) / 4 * 32
/-- What every quadrant holds still fits once a bed's banks are taken (R164). -/
def carveKept (s : State) (core more : Nat) : Bool := decide (regBanks s core + bedBanks s core + more ≤ 94)
/-- Granules that a quadrant can still give to teams of a slot (R70, R164, R299). -/
def granRoom (s : State) (core quad : Nat) (w : List Word) (more : Nat) : Nat :=
  min (freeGrans s core quad w).length (carveRoom s core more - (quadGrans s core quad).length)
/-- Scalars that a quadrant's file has left (R70). -/
def scalRoom (s : State) (core quad : Nat) : Nat := 4096 - ((quadTeams s core quad).map teamSregs).sum
/-- Whether a domain's range of a quadrant has room for so many granules and scalars (R70, R305). -/
def quadRoom (s : State) (core quad dom : Nat) (vec scal : Nat) : Bool :=
  match coreSlot s core dom with
  | none => false
  | some w => decide (vec ≤ granRoom s core quad w 0) && decide (scal ≤ scalRoom s core quad)

end Sys2Proof.Machine
end

