-- ==== Sys2Proof/Machine/StreamGeo.lean ====
section
/-! DEFINITION. The geometry of copies (R205-R212), scratchpad regions and hulls (R162), and how the scoreboard and watermarks hold accesses (R23-R27, R212). -/

namespace Sys2Proof.Machine

/-- A word of a copy's record (R205). -/
def Copy.wd (c : Copy) (i : Nat) : Nat := (c.wds.getD i 0).toNat
/-- Element size in bytes of a control word (R206). -/
def ctlEsize (ctl : Nat) : Nat := 2 ^ (ctl / 16 % 8)
/-- Element size in bytes. -/
def Copy.esize (c : Copy) : Nat := ctlEsize (c.wd 3)
/-- DIR (R206). -/
def Copy.dir (c : Copy) : Nat := c.wd 3 / 256 % 4
/-- MQ (R206). -/
def Copy.mq (c : Copy) : Nat := c.wd 3 / 1024 % 4
/-- The pair GHI:GLO (R205). -/
def Copy.g (c : Copy) : Nat := c.wd 0 + 2 ^ 32 * c.wd 1
/-- A dimension: count, scratchpad-side pitch, global-side pitch. -/
abbrev Dim := Nat × Nat × Int
/-- Number of elements. -/
def dimsTotal (l : List Dim) : Nat := l.foldl (fun n d => n * d.1) 1
/-- Scratchpad-side displacement of element k (R208). -/
def dimsSp : List Dim → Nat → Nat
  | [], _ => 0
  | d :: r, k => k % d.1 * d.2.1 + dimsSp r (k / d.1)
/-- Global-side displacement of element k (R208). -/
def dimsG : List Dim → Nat → Int
  | [], _ => 0
  | d :: r, k => (k % d.1 : Nat) * d.2.2 + dimsG r (k / d.1)
/-- Size of the hull on the scratchpad side, for dimensions with no zero count (R208). -/
def dimsSpan (esize : Nat) (l : List Dim) : Nat := l.foldl (fun n d => n + (d.1 - 1) * d.2.1) esize
/-- The pitch condition of R208: each pitch of a repeated dimension is at least the span below it. DESIGN CHOICE, log 92: a dimension of count 0 adds nothing to the span. -/
def pitchOk (esize : Nat) : List Dim → Bool
  | [] => true
  | l@(d :: _) => pitchFrom (d.1 * esize) l.tail
where
  pitchFrom (span : Nat) : List Dim → Bool
    | [] => true
    | d :: r => (decide (d.1 ≤ 1) || decide (span ≤ d.2.1)) && pitchFrom (span + (d.1 - 1) * d.2.1) r
/-- Lowest and one past the highest byte of the global side, relative to G. -/
def dimsReach (esize : Nat) (l : List Dim) : Int × Int :=
  l.foldl (fun x d => let e := ((d.1 - 1 : Nat) : Int) * d.2.2
                      (x.1 + min 0 e, x.2 + max 0 e)) (0, esize)

/-- Number of elements of a copy. -/
def Copy.total (c : Copy) : Nat := dimsTotal c.dims
/-- Whether a copy goes to the metadata queue. -/
def Copy.toQueue (c : Copy) : Bool := c.kind == 6
/-- Whether a copy writes global memory. -/
def Copy.toGlobal (c : Copy) : Bool := c.kind == 2 || (c.kind == 0 && c.dir == 1)
/-- Scratchpad-side offset of element k; for CPYM the bytes delivered before it (R208, R209). -/
def Copy.spOf (c : Copy) (k : Nat) : Nat := if c.toQueue then k * c.esize else c.wd 2 + dimsSp c.dims k
/-- Global-side address of element k of an unindexed copy (R208). -/
def Copy.gOf (c : Copy) (k : Nat) : Nat := (((c.g : Int) + dimsG c.dims k) % (2 ^ 64 : Int)).toNat
/-- Start of the hull. -/
def Copy.lo (c : Copy) : Nat := if c.toQueue then 0 else c.wd 2
/-- End of the hull; an empty copy has none (R208). -/
def Copy.hi (c : Copy) : Nat :=
  if c.total = 0 then c.lo else if c.toQueue then c.total * c.esize else c.wd 2 + dimsSpan c.esize c.dims
/-- Start of element k, or the hull's end when there is none (R211). -/
def Copy.startOf (c : Copy) (k : Nat) : Nat := if c.total ≤ k then c.hi else c.spOf k
/-- The watermark W (R211); mark counts the elements whose granules have their poison marks, which W has passed (R226). -/
def Copy.water (c : Copy) : Nat :=
  if c.mark ≤ c.next then c.startOf c.next
  else if c.toGlobal || c.toQueue then c.startOf c.mark
  else max (c.startOf c.next) (min c.hi ((c.spOf (c.mark - 1) + c.esize + 15) / 16 * 16))
/-- Whether a copy has passed an offset (R212). -/
def Copy.passed (c : Copy) (a : Nat) : Bool := decide (a < c.water)
/-- Bytes landed, read or delivered (R229). -/
def Copy.bytes (c : Copy) : Nat := c.next * c.esize

/-! ## Regions -/

/-- Where an offset of a scratchpad region stands in its home (R162): plot scratchpad counts from 0x40_0000. -/
def homeOff (off : Nat) : Nat := if 0x400000 ≤ off then off - 0x400000 else off
/-- Whether every bank of plot scratchpad that a range touches is the domain's and in a mode. -/
def banksOk (c : Cluster) (dom : Nat) (mode : BankMode) (off n : Nat) : Bool :=
  (unitsOf 131072 off n).all fun b => let k := c.banks.getD b Bank.reset
                                      k.owner == dom && k.mode == mode
/-- The region that a range lies in (R162): its home, or 0x11 when it leaves the map or spans two regions, or 0x0C for a bank. -/
def spRegion (s : State) (ag : SpAgent) (off n : Nat) : Except Nat SpHome :=
  let e := extBase s ag.plot ag.bed
  if off + n ≤ footBytes s ag.plot ag.bed then .ok (.bed ag.plot ag.bed)
  else if e ≤ off && off + n ≤ e + 32768 * (s.bed ag.plot ag.bed).ext.length then .ok (.bed ag.plot ag.bed)
  else if 0x400000 ≤ off && off + n ≤ 0xC00000 then
    (if banksOk (s.cluster ag.cluster) ag.dom .plot (off - 0x400000) n then .ok .banks else .error 0x0C)
  else .error 0x11
/-- Whether a range lies in the bed's footprints or extension (R207). -/
def inBed (s : State) (ag : SpAgent) (off n : Nat) : Bool := match spRegion s ag off n with
  | .ok .banks => false
  | .ok _ => true
  | .error _ => false
/-- Bytes of a range that lies in one region, and whether one is poisoned. -/
def spReadRange (s : State) (ag : SpAgent) (off n : Nat) : List Byte × Bool :=
  let parts := (List.range n).map fun i => match spPlace s ag (off + i) with
    | .ok p => spRead s ag.cluster p 1
    | .error _ => ([0], false)
  (parts.flatMap (·.1), parts.any (·.2))
/-- Write bytes over a range that lies in one region. -/
def spWriteRange (s : State) (ag : SpAgent) : Nat → List Byte → Bool → State
  | _, [], _ => s
  | off, bs@(_ :: _), poison => go s off bs poison (bs.length / 16 + 2)
where
  go (s : State) (off : Nat) (bs : List Byte) (poison : Bool) : Nat → State
    | 0 => s
    | fuel + 1 =>
      if bs.isEmpty then s else
      let n := 16 - off % 16
      let s := match spPlace s ag off with
        | .ok p => spWrite s ag.cluster p (bs.take n) poison
        | .error _ => s
      go s (off + n) (bs.drop n) poison fuel
/-- A bank of plot scratchpad that an offset lies in has been quiesced by the domain (R130). -/
def bankQuiesced (s : State) (cluster dom off : Nat) : Bool :=
  0x400000 ≤ off && off < 0xC00000 &&
    let b := (s.cluster cluster).banks.getD ((off - 0x400000) / 131072) Bank.reset
    b.owner == dom && b.quiesced.isSome

/-- A range touches a bank of plot scratchpad that the domain has quiesced (R130). -/
def rangeQuiesced (s : State) (cluster dom lo hi : Nat) : Bool :=
  decide (lo < hi) && (unitsOf 131072 lo (hi - lo)).any fun k => bankQuiesced s cluster dom (k * 131072)

/-! ## The scoreboard -/

/-- A copy of a core by its operation. -/
def coreCopy (c : Core) (op : Nat) : Option Copy := (c.chans.flatMap (·.q)).find? fun x => x.op == op
/-- Entries of a domain whose granules a range meets and that issued before a point (R25). -/
def sbHits (c : Core) (dom : Nat) (home : SpHome) (off n before : Nat) : List SbEntry :=
  c.sb.filter fun e => e.dom == dom && e.home == home && decide (e.seq < before) && decide (e.lo / 128 * 128 < (off + n + 127) / 128 * 128)
    && decide (off / 128 * 128 < (e.hi + 127) / 128 * 128) && decide (0 < n)
/-- A home offset back as an offset of the scratchpad map. -/
def mapOff (home : SpHome) (off : Nat) : Nat := match home with
  | .banks => off + 0x400000
  | _ => off
/-- Whether a copy's destination holds back a read of n bytes at a home offset (R212): a byte of its hull not yet passed. -/
def copyHolds (c : Core) (e : SbEntry) (off n : Nat) : Bool :=
  match coreCopy c e.op with
  | none => false
  | some x => decide (max (mapOff e.home off) (max x.lo x.water) < min (mapOff e.home off + n) x.hi)
/-- What holds a read of a range: the watermark of a copy, or the scoreboard; a .keep or .take load looks at no watermark (R25). -/
def readHeld (s : State) (core dom : Nat) (home : SpHome) (off n before : Nat) (fe : Bool) : Option Hold :=
  let c := s.core core
  let h := sbHits c dom home off n before
  if h.any fun e => e.write && !e.copy then some .scoreboard
  else if !fe && h.any (fun e => e.write && e.copy && copyHolds c e off n) then some .watermark
  else none
/-- What holds a write of a range: any earlier entry it meets (R25). -/
def writeHeld (s : State) (core dom : Nat) (home : SpHome) (off n before : Nat) : Option Hold :=
  if (sbHits (s.core core) dom home off n before).isEmpty then none else some .scoreboard
/-- A plain row-engine access of the domain that issued before a point is held and names a byte of a range, for a write of it, or stores to one, for a read (R213, R249). -/
def accHeld (s : State) (core dom : Nat) (home : SpHome) (off n before : Nat) (write : Bool) : Bool :=
  s.teams.any fun t => t.place.core == core && t.flow.did == dom && decide (t.sched.since ≤ before) && !s.partOut t.tid 1 &&
    t.sched.waits.any fun a => a.home == home && (write || a.write) && decide (a.off < off + n) && decide (off < a.off + a.bytes)
/-- Entries that a domain may hold on a core (R24). -/
def sbCap (s : State) (core : Nat) : Nat :=
  64 / max 1 ((((s.teams.filter fun t => t.place.core == core && !s.partOut t.tid 1).map fun t => t.stamp.home).eraseDups).length)
/-- Entries that a domain holds on a core. -/
def sbUsed (s : State) (core dom : Nat) : Nat := ((s.core core).sb.filter fun e => e.dom == dom).length
/-- Whether n more entries fit: a command that takes none always does (R24). -/
def sbRoom (s : State) (core dom n : Nat) : Bool :=
  n == 0 || decide (sbUsed s core dom + n ≤ sbCap s core) && decide ((s.core core).sb.length + n ≤ 64)
/-- Take entries for an operation. -/
def sbTake (s : State) (core : Nat) (l : List SbEntry) : State := s.modCore core fun c => { c with sb := c.sb ++ l }
/-- Free the entries of an operation (R23). -/
def sbFree (s : State) (core op : Nat) : State := s.modCore core fun c => { c with sb := c.sb.filter fun e => e.op != op }
/-- Free the read entries of an operation: its last read has finished (R23). -/
def sbFreeReads (s : State) (core op : Nat) : State :=
  s.modCore core fun c => { c with sb := c.sb.filter fun e => e.op != op || e.write }

/-- Whether a copy is indexed (CPYG, CPYS). -/
def Copy.indexed (c : Copy) : Bool := c.kind == 1 || c.kind == 2
/-- Whether the source is scratchpad by address: CPY and CPYM with DIR 2. -/
def Copy.fromSp (c : Copy) : Bool := (c.kind == 0 || c.kind == 6) && c.dir == 2
/-- Whether a copy lands FIFO entries. -/
def Copy.fromFifo (c : Copy) : Bool := c.kind == 0 && c.dir == 3
/-- The scratchpad ranges that a copy names: offset, length, whether it writes (R210, R232). A range below zero leaves the map. -/
def Copy.ranges (c : Copy) : List (Int × Nat × Bool) :=
  if c.total = 0 then [] else
  (if c.toQueue then [] else [((c.wd 2 : Int), c.hi - c.lo, !c.toGlobal)])
    ++ (if c.fromSp then let r := dimsReach c.esize c.dims
                         [((c.g : Int) + r.1, (r.2 - r.1).toNat, false)] else [])
    ++ (if c.indexed then [((c.wd 5 : Int), 4 * c.wd 4, false)] else [])

end Sys2Proof.Machine
end

