-- ==== Sys2Proof/Machine/Rendezvous.lean ====
section
/-! DEFINITION. Rendezvous points (R120-R125), halting in place and resuming (R133, R195, R285, R313). -/

namespace Sys2Proof.Machine

/-- A point as placement leaves it (R120). -/
def Point.reset : Point := ⟨true, 0, [], 0, 0, false, []⟩
/-- Point n of a plot. -/
def State.point (s : State) (plot n : Nat) : Point := match s.plot? plot with
  | some p => p.points.getD n Point.reset
  | none => Point.reset
/-- Change point n of a plot. -/
def State.modPoint (s : State) (plot n : Nat) (f : Point → Point) : State := match s.plot? plot with
  | some p => s.putPlot { p with points := p.points.modify n f }
  | none => s
/-- The live set: TEAMIX of the plot's teams that are placed and not yet freed (R122). -/
def liveSet (s : State) (plot : Nat) : List Nat := (s.teams.filter fun t => t.place.plot == plot).map fun t => t.place.teamix
/-- Whether a point's phase is met (R122): in live mode with at least one arrival. -/
def pointMet (live : List Nat) (p : Point) : Bool :=
  if p.live then !p.arrived.isEmpty && live.all p.arrived.contains else p.count == p.expect
/-- A phase completes (R122). -/
def pointAdvance (p : Point) : Point := { p with phase := p.phase + 1, arrived := [], count := 0, bound := [] }
/-- Set WANT(n) of a team of a plot (R120). -/
def setWant (s : State) (plot teamix n : Nat) (w : BitVec 24) : State :=
  { s with teams := s.teams.map fun t => if t.place.plot == plot && t.place.teamix == teamix
                                         then { t with sync := { t.sync with want := t.sync.want.set n w } } else t }
/-- Count one arrival (R122). -/
def countArrival (p : Point) (teamix : Nat) (poison : Bool) : Point :=
  let p := { p with poison := p.poison || poison }
  if p.live then { p with arrived := setIns p.arrived teamix } else { p with count := p.count + 1 }
/-- Apply arrivals one after another: in live mode one of a team already counted waits for the next phase; when a phase completes the waiting ones are applied (R122). -/
def deliver : Nat → State → Nat → Nat → List (Nat × Bool) → State
  | 0, s, _, _, _ => s
  | _ + 1, s, _, _, [] => s
  | fuel + 1, s, plot, n, (tix, poison) :: rest =>
    let p := s.point plot n
    if p.live && p.arrived.contains tix then
      deliver fuel (s.modPoint plot n fun p => { p with bound := p.bound ++ [(tix, poison)] }) plot n rest
    else
      let s := (setWant s plot tix n (p.phase + 1)).modPoint plot n fun p => countArrival p tix poison
      let p := s.point plot n
      if pointMet (liveSet s plot) p then deliver fuel (s.modPoint plot n pointAdvance) plot n (p.bound ++ rest)
      else deliver fuel s plot n rest
/-- Steps that delivering may take. -/
def deliverFuel (p : Point) (extra : Nat) : Nat := (p.bound.length + extra + 1) * (p.bound.length + extra + 2)
/-- One arrival at point n on behalf of a team (R122). -/
def arriveAt (s : State) (plot n teamix : Nat) (poison : Bool) : State :=
  deliver (deliverFuel (s.point plot n) 1) s plot n [(teamix, poison)]
/-- A team of the plot has been freed: it leaves ARRIVED, and each point is judged again (R122). DESIGN CHOICE, log 68: a bound arrival of the team that waits for the next phase goes with it, its poison too. -/
def recheckPoints (s : State) (plot teamix : Nat) : State :=
  (List.range 24).foldl (fun s n =>
    let s := s.modPoint plot n fun p => { p with arrived := setDel p.arrived teamix, bound := p.bound.filter fun b => b.1 != teamix }
    let p := s.point plot n
    if pointMet (liveSet s plot) p then deliver (deliverFuel p 0) (s.modPoint plot n pointAdvance) plot n p.bound else s) s
/-- Whether PHASE - WANT(n) is at least zero, as a signed 24-bit difference (R120, R123). -/
def wantMet (p : Point) (want : BitVec 24) : Bool := !(p.phase - want).msb
/-- Whether an RVWAIT of a team on point n would complete now (R123). -/
def rvReady (s : State) (t : Team) (n : Nat) : Bool := wantMet (s.point t.place.plot n) (t.sync.want.getD n 1)
/-- A copy of the plot that is not complete, in a channel or saved with a bed, is bound to point n. -/
def copyBound (s : State) (plot n : Nat) : Bool :=
  let has := fun (ch : Channel) => ch.q.any fun x => x.plot == plot && x.rv == n
  s.cores.any (fun c => c.chans.any has) || s.gov.plots.any fun p => p.beds.any fun b => b.parked.any fun k => has k.2
/-- A bound arrival naming the point is pending (R121): a copy of the plot not yet complete, or an arrival that waits. -/
def boundPending (s : State) (plot n : Nat) : Bool := !(s.point plot n).bound.isEmpty || copyBound s plot n

/-- Stop the count of a TRYW (R118). -/
def pauseTryw (s : State) (t : Team) : Team :=
  match t.sync.tryw with
  | some n => { t with sync := { t.sync with tryw := some (n + (s.clock.ac - t.sync.trywFrom)) } }
  | none => t
/-- A team stands at an instruction boundary outside a handler and a gate (R138, R195, R310). -/
def Team.atRest (t : Team) : Bool := t.sched.burst.isEmpty && !t.trap.inHandler && t.gate.isNone
/-- Halt a team in place at its next instruction (R57, R119, R133, R187); other halts that wait for it go on waiting. -/
def haltInPlace (s : State) (t : Team) (st : Status) : State :=
  let t := pauseTryw s t.drainWrites
  let t := { t with sync := { t.sync with mon := t.sync.mon.map wakePreempt },
                    sched := { t.sched with status := st, wish := t.sched.wish.filter (· != st), haltAt := s.clock.ac } }
  runStop (s.putTeam t) t.place.plot
/-- The halts that wait for a team are granted when it is at rest; one for debugging prevails (R195, R313). -/
def grantWish (s : State) (tid : Nat) : State :=
  match s.team? tid with
  | none => s
  | some t => if !t.atRest then s else match t.sched.wish with
    | [] => s
    | st :: r => haltInPlace s { t with sched := { t.sched with wish := [] } } (if r.contains .haltDebug then .haltDebug else st)
/-- A debug halt asked for while the team is halted for another reason takes that reason's place (R133), or waits for the end of its handler or gate, a save included (R195, R284); other requests leave it. DESIGN CHOICE, log 106: a request that finds the handler halted by its own HALT or BKPT adds nothing. -/
def haltAgain (s : State) (t : Team) (st : Status) : State :=
  if st == .haltDebug && (t.sched.status == .haltSlice || t.sched.status == .haltRecall || t.sched.status == .haltSave) then
    (if t.trap.inHandler || t.gate.isSome then s.putTeam { t with sched := { t.sched with wish := t.sched.wish.filter (· != st) ++ [st] } }
     else if t.sched.status == .haltSave then s.putTeam { t with sched := { t.sched with wish := t.sched.wish.filter (· != st) ++ [st] } }
     else s.putTeam { t with sched := { t.sched with status := st } })
  else s
/-- Ask a team to halt: it does at its next boundary, and out of a handler or a gate unless forced (R195, R310); a forced halt issues the passes that remain (R315). -/
def askHalt (s : State) (t : Team) (st : Status) (force : Bool) : State :=
  if t.sched.status != .running then haltAgain s t st
  else if force then match (runOut s t).team? t.tid with
    | some u => haltInPlace (runOut s t) u st
    | none => s
  else if t.atRest then haltInPlace s t st
  else s.putTeam { t with sched := { t.sched with wish := t.sched.wish.filter (· != st) ++ [st] } }
/-- A halted team runs on, unless a debug halt waits for it and it is at rest; frozen work still in the matrix unit it holds goes on at once (R195, R256). It fetches its line again, which software may have written while it was halted (R36). -/
def resumeTeam (s : State) (t : Team) : State :=
  if t.sched.wish.contains .haltDebug && t.atRest then s.putTeam { t with sched := { t.sched with status := .haltDebug, wish := [] } }
  else
    let s := s.modCore t.place.core fun c => if c.mx.holder == some t.tid then { c with mx := { c.mx with frozen := false } } else c
    runStart (s.putTeam { t with sync := { t.sync with trywFrom := s.clock.ac }, sched := { t.sched with status := .running }, line := none }) t.place.plot
/-- A live-mode point, or a plot-scope graft instance, of its plot waits for a team that has not arrived (R125, R285). -/
def awaited (s : State) (t : Team) : Bool :=
  (match s.plot? t.place.plot with
    | some p => p.points.any fun x => x.live && !x.arrived.isEmpty && !x.arrived.contains t.place.teamix
    | none => false)
  || (s.cluster (clusterOf t.place.core)).insts.any fun x => x.plot == t.place.plot && x.scope == 2 && !x.deposits.any fun d => d.tid == t.tid

end Sys2Proof.Machine
end

