-- ==== Sys2Proof/Machine/Control.lean ====
section
/-! DEFINITION. Control transfers (R104-R113), the reconvergence stack's instructions (R76, R77), HRET (R198) and call gates (R305-R310). -/

namespace Sys2Proof.Machine

/-- The target of a B instruction: its line plus 64 times DISP, at SLOT (R45). -/
def bTarget (t : Team) (disp : BitVec 24) (slot : Nat) : Pc := ⟨t.flow.pc.line + (disp.signExtend 64) * 64, slot⟩
/-- The operands of a B instruction: the header and condition predicates. -/
def bOk (f : BForm) (t : Team) : Bool := qHeaderOk t f.pq && t.predOk f.cond.index.toNat
/-- A target may not be landed at: its line has been fetched, and the transfer faults (R37). -/
def raiseTarget (s : State) (t : Team) (ag : Agent) (c : Nat) (p : Pc) : Out :=
  if targetStalls s t ag p then holdTeam s t .quiesce
  else raiseAddr (targetRead s t ag p) (keepWake (targetRead s t ag p) t) c p.line
/-- Continue at a checked target, or fault there (R37). -/
def goTo (s : State) (t : Team) (p : Pc) (k : Unit → Out) : Out :=
  match targetFault s t.agent p with
  | some c => raiseTarget s t t.agent c p
  | none => k ()
/-- The state after the lines of some targets have been fetched, one after another (R37). -/
def targetsRead (s : State) (t : Team) (l : List Pc) : State := l.foldl (fun s p => targetRead s t t.agent p) s
/-- Go on once the lines of some targets have been fetched (R37), which waits for a segment that is quiesced (R130). -/
def readTargets (s : State) (t : Team) (l : List Pc) (k : State → Team → Out) : Out :=
  if l.any (targetStalls s t t.agent) then holdTeam s t .quiesce else k (targetsRead s t l) (keepWake (targetsRead s t l) t)
/-- A transfer's condition as rows of the mask (R76). -/
def condRows (t : Team) (c : Prd) : RowMask := t.part c
/-- Whether BRC transfers (R105). -/
def brcTaken (t : Team) (c : Prd) : Bool :=
  if c.team then t.qget c.index.toNat != c.neg else t.flow.mask != 0 && condRows t c == t.flow.mask

/-- BRA (R105). -/
def execBra (f : BForm) (s : State) : Out :=
  issue (.bra f) s f.stl (bOk f) (bSuppressed f) fun s t =>
    let p := bTarget t f.disp f.slot.toNat
    goTo s t p fun _ => finishAt s (t.setPc p) f.stl 1
/-- BRC (R105). -/
def execBrc (f : BForm) (s : State) : Out :=
  issue (.brc f) s f.stl (bOk f) (bSuppressed f) fun s t =>
    if brcTaken t f.cond then
      let p := bTarget t f.disp f.slot.toNat
      goTo s t p fun _ => finishAt s (t.setPc p) f.stl 1
    else finish s t f.stl 1
/-- Where BRD reconverges: IMM32[31:8] lines on, at slot IMM32[7:5] (R45). -/
def brdJoin (t : Team) (imm : Word) : Pc := bTarget t (imm.extractLsb' 8 24) (imm.extractLsb' 5 3).toNat
/-- Push the entry of a BRD whose rows tk are taken, and go on with the others, or with those when there are no others (R76). -/
def brdTo (s : State) (t : Team) (stl : BitVec 4) (tk : RowMask) (p j : Pc) : Out :=
  let rest := t.flow.mask &&& ~~~tk
  match pushRs s t ⟨j, t.flow.mask, t.flow.fmt, tk, p, tk != 0 && rest != 0⟩ with
  | none => match t.gate with
    | some g => abortNow s t g 8
    | none => raise s t 0x02
  | some (s', t') =>
    if rest = 0 then finishAt s' (({ t' with flow := { t'.flow with mask := tk } } : Team).setPc p) stl 1
    else finish s' { t' with flow := { t'.flow with mask := rest } } stl 1
/-- BRD (R76, R106): both targets are fetched and checked, the taken one first (R37), the entry is pushed, and the fall-through rows go first. -/
def execBrd (f : BForm) (s : State) : Out :=
  issue (.brd f) s f.stl (bOk f) (bSuppressed f) fun s t =>
    let p := bTarget t f.disp f.slot.toNat
    let j := brdJoin t f.imm
    goTo s t p fun _ => readTargets s t [p, j] fun s' t => match targetFault s t.agent j with
      | some c => raiseAddr s' t c j.line
      | none => brdTo s' t f.stl (condRows t f.cond) p j
/-- The depth below which an RCV does not go: in a handler the entries that it found at its entry, but for the one on which RCV itself acts (R77). -/
def rcvFloor (t : Team) : Nat := if t.trap.inHandler then min t.trap.inRs (t.rsDepth - 1) else 0
/-- RCV (R77). -/
def execRcv (f : BForm) (s : State) : Out :=
  issue (.rcv f) s f.stl (bOk f) (bSuppressed f) fun s t =>
    if t.rsDepth = 0 then raise s t 0x02 else finishAt s (rcvFrom s (rcvFuel t) (rcvFloor t) t) f.stl 1
/-- LOOP (R107). -/
def execLoop (f : BForm) (s : State) : Out :=
  issue (.loop f) s f.stl (fun t => bOk f t && sregOk t f.scalar.toNat) (bSuppressed f) fun s t =>
    let r := f.scalar.toNat
    let x := t.sget r
    if x.poison then raise s t 0x38
    else if x.bits = 0 then finish s t f.stl 1
    else if x.bits = 1 then finish s (t.sset r (Elem.clean 0)) f.stl 1
    else
      let p := bTarget t f.disp f.slot.toNat
      goTo s t p fun _ => finishAt s ((t.sset r (Elem.clean (x.bits - 1))).setPc p) f.stl 1
/-- Push the return slot and go on at a target (R108).
DEDUCED, log 77: the target's line has been fetched and checked before the depth (R40). -/
def callTo (s : State) (t : Team) (stl : BitVec 4) (p : Pc) : Out :=
  if 32 ≤ t.csDepth then readTargets s t [p] fun s t => raise s t 0x02
  else finishAt s (({ t with flow := { t.flow with cs := t.flow.pc.next :: t.flow.cs } } : Team).setPc p) stl 1
/-- CALL (R108). -/
def execCall (f : BForm) (s : State) : Out :=
  issue (.call f) s f.stl (bOk f) (bSuppressed f) fun s t =>
    let p := bTarget t f.disp f.slot.toNat
    goTo s t p fun _ => callTo s t f.stl p
/-- RET (R108). -/
def execRet (f : BForm) (s : State) : Out :=
  issue (.ret f) s f.stl (bOk f) (bSuppressed f) fun s t =>
    if t.csDepth ≤ (if t.trap.inHandler then t.trap.inCs else 0) then raise s t 0x02
    else match t.flow.cs with
      | [] => raise s t 0x02
      | p :: r => finishAt s (({ t with flow := { t.flow with cs := r } } : Team).setPc p) f.stl 1
/-- CALLI (R108). DESIGN CHOICE, log 86: a poisoned pair faults before its bits are looked at. -/
def execCalli (f : BForm) (s : State) : Out :=
  issue (.calli f) s f.stl (fun t => bOk f t && xregOk t f.scalar.toNat) (bSuppressed f) fun s t =>
    let x := t.xget f.scalar.toNat
    if t.xpois f.scalar.toNat then raise s t 0x38
    else if x.extractLsb' 55 9 != 0 || x.extractLsb' 3 3 != 0 || 4 < (x.extractLsb' 0 3).toNat then raise s t 0x03
    else goTo s t (pcOf x) fun _ => callTo s t f.stl (pcOf x)
/-- EXIT (R22, R109). -/
def execExit (f : BForm) (s : State) : Out :=
  issue (.exit f) s f.stl (bOk f) (bSuppressed f) fun s t =>
    .next (((stopTeam s t).charge t.place.core (payer t) 1).tick 1)
/-- TRAP (R110): TRAPARG changes only when the handler is entered. -/
def execTrap (f : BForm) (s : State) : Out :=
  issue (.trap f) s f.stl (bOk f) (bSuppressed f) fun s t =>
    raise s (if t.trap.hvec.getLsbD 0 && !t.trap.inHandler then { t with trap := { t.trap with trapArg := f.imm } } else t) 0x00
/-- HRET (R111, R195, R198, R199): the resumed slot issues 6 ac after it, and a halt that waited for HRET takes place before that. -/
def execHret (f : BForm) (s : State) : Out :=
  issue (.hret f) s f.stl (bOk f) (bSuppressed f) fun s t =>
    if !t.trap.inHandler then raise s t 0x01
    else match leaveTrap s t f.imm.toNat with
      | none => .next (endByFault s t 0x3F t.trap.hflt t.trap.hpc)
      | some t' => thenDo (finishTime s t' (max 5 f.stl.toNat) [1]) fun s => grantWish s t.tid
/-- YIELD (R112). -/
def execYield (f : BForm) (s : State) : Out :=
  issue (.yield f) s f.stl (bOk f) (bSuppressed f) fun s t => finish s { t with sched := { t.sched with yielded := true } } f.stl 1
/-- NOP (R62). -/
def execNop (f : BForm) (s : State) : Out := issue (.nop f) s f.stl (bOk f) (bSuppressed f) fun s t => finish s t f.stl 1

/-! ## Call gates -/

/-- A gate-table entry of eight words (R305). -/
def gateEntry (s : State) (n : Nat) : List Word := agetD s.mgmt.gates n (List.replicate 8 0)
/-- ENTRY of a gate. -/
def gateCode (g : List Word) : DWord := (g.getD 1 0) ++ (g.getD 0 0)
/-- CALLERS bit. -/
def gateCaller (g : List Word) (d : Nat) : Bool := ((g.getD 3 0) ++ (g.getD 2 0)).getLsbD d
/-- CTL of a gate. -/
def gateCtl (g : List Word) : Word := g.getD 4 0
/-- Whether an entry is enabled and well formed (R305, R306). -/
def gateUsable (g : List Word) : Bool :=
  let c := gateCtl g
  c.getLsbD 31 && c.extractLsb' 22 9 == 0 && c.extractLsb' 11 5 == 0 && !c.getLsbD 7 && c.extractLsb' 0 7 != 127
    && g.getD 6 0 == 0 && g.getD 7 0 == 0 && gateCode g &&& 0xFF80000000000038 == 0
/-- CALLEE. -/
def gateCallee (g : List Word) : Nat := ((gateCtl g).extractLsb' 16 6).toNat
/-- Vector and scalar registers of the scratch area. -/
def gateScratch (g : List Word) : Nat × Nat := (8 * ((gateCtl g).extractLsb' 8 3).toNat, 8 * ((gateCtl g).extractLsb' 0 7).toNat)
/-- A gate fault at CGATE with its cause (R306). -/
def gateFault (s : State) (t : Team) (cause : Nat) : Out :=
  match t.gate with
  | some g => abortNow s t g cause
  | none => raise s { t with gcause := cause } 0x30
/-- The granules of a gate's scratch area, for each 32-row group, from the callee's own range in the team's quadrant (R305). -/
def scratchGrans (s : State) (t : Team) (g : List Word) : List (List Nat) :=
  match coreSlot s t.place.core (gateCallee g) with
  | none => []
  | some w => dealGrans (t.foot.alloc / 32) ((gateScratch g).1 / 8) (freeGrans s t.place.core t.place.quad w)
/-- The team inside the gate: window shared, scratch area zero, everything else sealed (R306, R307). -/
def enterGate (s : State) (t : Team) (n : Nat) (g : List Word) : Team :=
  let (nv, ns) := gateScratch g
  let ctx : GateCtx := { regs := t.regs, grans := scratchGrans s t g, vregs := t.foot.vregs, sregs := t.foot.sregs, did := t.flow.did, fmt := t.flow.fmt, mask := t.flow.mask,
                         rs := t.rsDepth, cs := t.csDepth, at_ := t.flow.pc, gate := n, deadline := s.clock.ac + (g.getD 5 0).toNat }
  let regs : Regs := { t.regs with v := t.regs.v.take 8 ++ List.replicate nv (List.replicate t.foot.rows Elem.zero),
                                   s := t.regs.s.take 16 ++ List.replicate ns Elem.zero }
  { t.setPc (pcOf (gateCode g)) with
    regs := regs, foot := { t.foot with vregs := 8 + nv, sregs := 16 + ns }, gate := some ctx, line := none,
    flow := { (t.setPc (pcOf (gateCode g))).flow with did := gateCallee g, fmt := 0 },
    sched := { t.sched with pend := t.sched.pend.filter fun p => p.reg < 8 } }
/-- CGATE (R306): the callee's first instruction issues 14 ac after it. -/
def execCgate (f : BForm) (s : State) : Out :=
  issue (.cgate f) s f.stl (bOk f) (bSuppressed f) fun s t =>
    let g := gateEntry s f.imm.toNat
    let (nv, ns) := gateScratch g
    if t.gate.isSome then gateFault s t 3
    else if !gateUsable g then gateFault s t 1
    else if !gateCaller g t.flow.did then gateFault s t 2
    else if t.foot.vregs < 8 || t.foot.sregs < 16 then gateFault s t 10
    else if !quadRoom s t.place.core t.place.quad (gateCallee g) (t.foot.alloc / 32 * (nv / 8)) ns then gateFault s t 4
    else match targetFault s { t.agent with dom := gateCallee g } (pcOf (gateCode g)) with
      | some c => raiseTarget s t { t.agent with dom := gateCallee g } c (pcOf (gateCode g))
      | none =>
        let t' := enterGate s t f.imm.toNat g
        if carveMoves s t' && l1Stalls s t.place.core then holdTeam s t .quiesce
        else finishTime (carveChange s t') (keepWake (carveChange s t') t') (max 13 f.stl.toNat) [1]
/-- CGRET (R308): the caller's next instruction issues 10 ac after it, and a halt that waited for it takes place before that (R310). -/
def execCgret (f : BForm) (s : State) : Out :=
  issue (.cgret f) s f.stl (bOk f) (bSuppressed f) fun s t =>
    match t.gate with
    | none => raise s t 0x01
    | some g =>
      if t.rsDepth != g.rs || t.csDepth != g.cs then abortNow s t g 9
      else
        let t' := (leaveGate t g false).setPc g.at_.next
        if carveMoves s t' && l1Stalls s t.place.core then holdTeam s t .quiesce
        else thenDo (finishTime (carveChange s t') (keepWake (carveChange s t') t') (max 9 f.stl.toNat) [1]) fun s => grantWish s t.tid

end Sys2Proof.Machine
end

