-- ==== Sys2Proof/Machine/Flags.lean ====
section
/-! DEFINITION. Conditions: what a compare writes into a predicate (R142, R144, R101), for integers and for the order of two numbers. The device keeps no other flags (R95). -/

namespace Sys2Proof.Machine

/-- How two values stand to each other; a NaN stands to nothing. -/
inductive Rel where
  | lt | eq | gt | unordered
  deriving DecidableEq, Repr

/-- A condition of SUB: 0 .eq, 1 .ne, 2 .lt, 3 .le (R142). A NaN operand makes .ne true and the others false (R95). -/
def condHolds (sub : BitVec 2) (r : Rel) : Bool :=
  match sub.toNat with
  | 0 => r == .eq
  | 1 => r != .eq
  | 2 => r == .lt
  | _ => r == .lt || r == .eq

/-- The order of two integers. -/
def relInt (a b : Int) : Rel := if a < b then .lt else if a = b then .eq else .gt
/-- A word as an integer, signed or not. -/
def wordInt (signed : Bool) (w : Word) : Int := if signed then w.toInt else (w.toNat : Int)
/-- A dword as an integer, signed or not. -/
def dwordInt (signed : Bool) (w : DWord) : Int := if signed then w.toInt else (w.toNat : Int)

end Sys2Proof.Machine
end

