-- ==== Sys2Proof/Machine/Float.lean ====
section
/-! DEFINITION. Numbers and formats (R87-R95, R145): values exactly as sign, magnitude and power of two, formats by code, rounding, overflow, subnormals, NaN, exact sums, division, square root, and the approximate functions within their bounds. -/

namespace Sys2Proof.Machine

/-- An exact value: NaN, an infinity, or (-1)^neg * m * 2^e with signed zeros. -/
inductive FVal where
  | nan
  | inf (neg : Bool)
  | fin (neg : Bool) (m : Nat) (e : Int)
  deriving DecidableEq, Repr

/-- How a format treats its top exponent (R88). -/
inductive FKind where
  | ieee | e4m3 | e2m1
  deriving DecidableEq, Repr

/-- A floating-point format: exponent bits, mantissa bits, bias (R88). -/
structure FFmt where
  eb : Nat
  mb : Nat
  bias : Nat
  kind : FKind
  deriving DecidableEq, Repr

/-- FP32. -/
def fp32 : FFmt := ⟨8, 23, 127, .ieee⟩
/-- BF16. -/
def bf16 : FFmt := ⟨8, 7, 127, .ieee⟩
/-- FP16. -/
def fp16 : FFmt := ⟨5, 10, 15, .ieee⟩
/-- E4M3. -/
def fpE4m3 : FFmt := ⟨4, 3, 7, .e4m3⟩
/-- E5M2. -/
def fpE5m2 : FFmt := ⟨5, 2, 15, .ieee⟩
/-- The E2M1 element of F4X. -/
def fpE2m1 : FFmt := ⟨2, 1, 1, .e2m1⟩

/-- A format code as FMT and CVT name it (R88, R146): a float format, or integers of a width and signedness. -/
inductive Code where
  | flt (f : FFmt)
  | int (w : Nat) (signed : Bool)
  deriving DecidableEq, Repr

/-- The format of a code, 0 to 12 (R146); 10 to 12 exist in CVT with TY 0 only. -/
def codeOf (n : Nat) : Option Code :=
  match n with
  | 0 => some (.flt fp32)
  | 1 => some (.flt bf16)
  | 2 => some (.flt fp16)
  | 3 => some (.flt fpE4m3)
  | 4 => some (.flt fpE5m2)
  | 5 => some (.flt fpE2m1)
  | 6 => some (.int 8 true)
  | 7 => some (.int 8 false)
  | 8 => some (.int 4 true)
  | 9 => some (.int 32 true)
  | 10 => some (.int 32 false)
  | 11 => some (.int 16 true)
  | 12 => some (.int 16 false)
  | _ => none
/-- Bits of a lane of a code. -/
def Code.width (c : Code) : Nat := match c with
  | .flt f => 1 + f.eb + f.mb
  | .int w _ => w
/-- Whether a code is a float format. -/
def Code.isFloat (c : Code) : Bool := match c with
  | .flt _ => true
  | .int _ _ => false
/-- FP32, BF16 and FP16, which FMT.ftz flushes (R94). -/
def FFmt.flushes (f : FFmt) : Bool := f == fp32 || f == bf16 || f == fp16

/-- The value that bits encode (R88). -/
def numOf (f : FFmt) (x : Nat) : FVal :=
  let neg := x / 2 ^ (f.eb + f.mb) % 2 == 1
  let ef := x / 2 ^ f.mb % 2 ^ f.eb
  let mf := x % 2 ^ f.mb
  if f.kind == .ieee && ef == 2 ^ f.eb - 1 then (if mf = 0 then .inf neg else .nan)
  else if f.kind == .e4m3 && ef == 15 && mf == 7 then .nan
  else if ef = 0 then .fin neg mf (1 - (f.bias : Int) - f.mb)
  else .fin neg (2 ^ f.mb + mf) ((ef : Int) - f.bias - f.mb)
/-- Bits read under FMT.ftz: those of a subnormal become those of zero of the same sign (R94). -/
def flushBits (f : FFmt) (ftz : Bool) (x : Nat) : Nat :=
  if ftz && f.flushes && x / 2 ^ f.mb % 2 ^ f.eb == 0 then x / 2 ^ (f.eb + f.mb) % 2 * 2 ^ (f.eb + f.mb) else x
/-- An operand read under FMT.ftz: a subnormal is zero of the same sign (R94). -/
def numIn (f : FFmt) (ftz : Bool) (x : Nat) : FVal :=
  if ftz && f.flushes && x / 2 ^ f.mb % 2 ^ f.eb == 0 then .fin (x / 2 ^ (f.eb + f.mb) % 2 == 1) 0 0 else numOf f x

/-- Bits of the largest finite magnitude (R88). -/
def FFmt.maxBits (f : FFmt) : Nat := match f.kind with
  | .ieee => (2 ^ f.eb - 1) * 2 ^ f.mb - 1
  | .e4m3 => 0x7E
  | .e2m1 => 7
/-- The canonical NaN; an E2M1 element receives code 0 (R88, R93, R95). -/
def FFmt.nanBits (f : FFmt) : Nat := match f.kind with
  | .ieee => (2 ^ f.eb - 1) * 2 ^ f.mb + 2 ^ (f.mb - 1)
  | .e4m3 => 0x7F
  | .e2m1 => 0

/-- How a result is rounded: the FMT fields that govern it, and the 16 random bits when rounding is stochastic (R92). -/
structure RCtx where
  mode : Nat
  sat : Bool
  ftz : Bool
  stoch : Option Nat
  deriving DecidableEq, Repr

/-- The multiple of 2^u that m * 2^e rounds to (R92). -/
def roundNat (neg : Bool) (mode : Nat) (stoch : Option Nat) (m : Nat) (e u : Int) : Nat :=
  if u ≤ e then m * 2 ^ (e - u).toNat
  else
    let d := (u - e).toNat
    let i := m / 2 ^ d
    let r := m % 2 ^ d
    if r = 0 then i else
    match stoch with
    | some rnd => if 65536 ≤ r * 65536 / 2 ^ d + rnd then i + 1 else i
    | none => match mode with
      | 0 => if 2 ^ d < 2 * r || (2 * r == 2 ^ d && i % 2 == 1) then i + 1 else i
      | 1 => i
      | 2 => if neg then i else i + 1
      | _ => if neg then i + 1 else i

/-- Place the sign bit. -/
def withSign (f : FFmt) (neg : Bool) (x : Nat) : Nat := if neg then x + 2 ^ (f.eb + f.mb) else x
/-- What an infinite or too large result becomes (R93). -/
def overflowBits (f : FFmt) (c : RCtx) (neg infinite : Bool) : Nat :=
  let toInf := !c.sat && (infinite || c.stoch.isSome || c.mode == 0 || (c.mode == 2 && !neg) || (c.mode == 3 && neg))
  match f.kind with
  | .ieee => withSign f neg (if toInf then (2 ^ f.eb - 1) * 2 ^ f.mb else f.maxBits)
  | .e4m3 => if toInf then 0x7F else withSign f neg f.maxBits
  | .e2m1 => withSign f neg f.maxBits
/-- Round a value to a float format (R92-R95). -/
def toFloat (f : FFmt) (c : RCtx) (x : FVal) : Nat :=
  let c := if f == fp32 then { c with stoch := none } else c
  match x with
  | .nan => f.nanBits
  | .inf neg => overflowBits f c neg true
  | .fin neg m e =>
    if m = 0 then withSign f neg 0 else
    let umin : Int := 1 - (f.bias : Int) - f.mb
    let u := max ((Nat.log2 m : Int) + e - f.mb) umin
    let bits := (u - umin).toNat * 2 ^ f.mb + roundNat neg c.mode c.stoch m e u
    if f.maxBits < bits then overflowBits f c neg false
    else if c.ftz && f.flushes && bits < 2 ^ f.mb then withSign f neg 0
    else withSign f neg bits

/-- Clamp an integer to a width (R93). -/
def clampInt (w : Nat) (signed : Bool) (x : Int) : Int :=
  if signed then max (-(2 ^ (w - 1) : Nat)) (min x ((2 ^ (w - 1) : Nat) - 1)) else max 0 (min x ((2 ^ w : Nat) - 1))
/-- The w low bits of an integer, two's complement. -/
def intBits (w : Nat) (x : Int) : Nat := (x % (2 ^ w : Nat)).toNat
/-- The integer that w bits encode. -/
def intOf (w : Nat) (signed : Bool) (x : Nat) : Int :=
  let y := x % 2 ^ w
  if signed && 2 ^ w ≤ 2 * y then (y : Int) - (2 ^ w : Nat) else y
/-- A value rounded to an integer, NaN giving 0, clamped to the range (R93, R95). -/
def toIntBits (w : Nat) (signed : Bool) (c : RCtx) (x : FVal) : Nat :=
  match x with
  | .nan => 0
  | .inf neg => intBits w (if neg then clampInt w signed (-(2 ^ 64 : Nat)) else clampInt w signed ((2 ^ 64 : Nat)))
  | .fin neg m e =>
    let i := roundNat neg c.mode (if w ≤ 8 then c.stoch else none) m e 0
    intBits w (clampInt w signed (if neg then -(i : Int) else i))
/-- Integer arithmetic's result: clamped under saturate, else wrapped (R93). -/
def intResult (w : Nat) (signed sat : Bool) (x : Int) : Nat := intBits w (if sat then clampInt w signed x else x)
/-- An integer as a value. -/
def numInt (x : Int) : FVal := .fin (decide (x < 0)) x.natAbs 0

/-- Exchange the sign. -/
def FVal.neg (x : FVal) : FVal := match x with
  | .nan => .nan
  | .inf n => .inf (!n)
  | .fin n m e => .fin (!n) m e
/-- Magnitude. -/
def FVal.abs (x : FVal) : FVal := match x with
  | .nan => .nan
  | .inf _ => .inf false
  | .fin _ m e => .fin false m e
/-- Whether the value is NaN. -/
def FVal.isNan (x : FVal) : Bool := x == .nan
/-- The sign. -/
def FVal.isNeg (x : FVal) : Bool := match x with
  | .nan => false
  | .inf n => n
  | .fin n _ _ => n
/-- Whether the value is a zero. -/
def FVal.isZero (x : FVal) : Bool := match x with
  | .fin _ 0 _ => true
  | _ => false
/-- Exact product. -/
def FVal.mul (x y : FVal) : FVal :=
  match x, y with
  | .nan, _ => .nan
  | _, .nan => .nan
  | .inf a, .inf b => .inf (a != b)
  | .inf a, .fin b m _ => if m = 0 then .nan else .inf (a != b)
  | .fin b m _, .inf a => if m = 0 then .nan else .inf (a != b)
  | .fin a m e, .fin b n g => .fin (a != b) (m * n) (e + g)
/-- The smallest exponent of a list of finite values. -/
def minExp (l : List FVal) : Int := l.foldl (fun k x => match x with
  | .fin _ _ e => min k e
  | _ => k) 0
/-- A finite value as a multiple of 2^k, for k at or below its exponent. -/
def FVal.scaled (x : FVal) (k : Int) : Int := match x with
  | .fin n m e => let v : Int := (m * 2 ^ (e - k).toNat : Nat)
                  if n then -v else v
  | _ => 0
/-- Exact sum of a list; an exact zero of operands that do not all agree in sign is -0 under RD and +0 otherwise (R95, R98). -/
def FVal.sum (mode : Nat) (l : List FVal) : FVal :=
  let pos := l.contains (.inf false)
  let negi := l.contains (.inf true)
  if l.any FVal.isNan || (pos && negi) then .nan
  else if pos then .inf false
  else if negi then .inf true
  else
    let k := minExp l
    let v : Int := (l.map fun x => x.scaled k).sum
    if v = 0 then
      (if l.all (fun x => x.isZero && x.isNeg) && !l.isEmpty then .fin true 0 0
       else if l.all (fun x => x.isZero && !x.isNeg) then .fin false 0 0
       else .fin (mode == 3) 0 0)
    else .fin (decide (v < 0)) v.natAbs k
/-- Exact sum of two values. -/
def FVal.add (mode : Nat) (x y : FVal) : FVal := FVal.sum mode [x, y]
/-- A quotient to at least 96 significant bits, the last of them sticky; enough to round it correctly (R143). -/
def FVal.div (x y : FVal) : FVal :=
  match x, y with
  | .nan, _ => .nan
  | _, .nan => .nan
  | .inf _, .inf _ => .nan
  | .inf a, .fin b _ _ => .inf (a != b)
  | .fin a _ _, .inf b => .fin (a != b) 0 0
  | .fin a m e, .fin b n g =>
    if n = 0 then (if m = 0 then .nan else .inf (a != b))
    else
      let k := 96 + Nat.log2 n
      let q := m * 2 ^ k / n
      let r := m * 2 ^ k % n
      .fin (a != b) (2 * q + (if r = 0 then 0 else 1)) (e - g - k - 1)
/-- Integer square root, one result bit for each unit of fuel. -/
def isqrtFrom : Nat → Nat → Nat → Nat
  | 0, _, r => r
  | n + 1, x, r => let c := r + 2 ^ n
                   isqrtFrom n x (if c * c ≤ x then c else r)
/-- Integer square root. -/
def isqrt (x : Nat) : Nat := isqrtFrom (Nat.log2 x / 2 + 1) x 0
/-- A square root to at least 96 bits, the last sticky (R143). -/
def FVal.sqrt (x : FVal) : FVal :=
  match x with
  | .nan => .nan
  | .inf n => if n then .nan else .inf false
  | .fin n m e =>
    if m = 0 then .fin n 0 0 else if n then .nan else
    let odd := e % 2
    let y := m * 2 ^ (200 + odd.toNat)
    let q := isqrt y
    .fin false (2 * q + (if q * q = y then 0 else 1)) ((e - odd) / 2 - 101)
/-- How two values stand (R95, R144): zeros are equal. -/
def FVal.rel (x y : FVal) : Rel :=
  match x, y with
  | .nan, _ => .unordered
  | _, .nan => .unordered
  | .inf a, .inf b => if a = b then .eq else if a then .lt else .gt
  | .inf a, _ => if a then .lt else .gt
  | _, .inf b => if b then .gt else .lt
  | a, b => relInt (a.scaled (minExp [a, b])) (b.scaled (minExp [a, b]))
/-- Whether x orders below y in minimumNumber's order: -0 below +0 (R95). -/
def FVal.below (x y : FVal) : Bool := match x.rel y with
  | .lt => true
  | .eq => x.isNeg && !y.isNeg
  | _ => false
/-- minimumNumber of IEEE 754-2019 (R95). -/
def FVal.minN (x y : FVal) : FVal := if x.isNan then y else if y.isNan then x else if y.below x then y else x
/-- maximumNumber of IEEE 754-2019 (R95). -/
def FVal.maxN (x y : FVal) : FVal := if x.isNan then y else if y.isNan then x else if x.below y then y else x
/-- A value rounded to an integral value; a zero keeps the sign (R143). -/
def FVal.rint (mode : Nat) (x : FVal) : FVal := match x with
  | .fin n m e => .fin n (roundNat n mode none m e 0) 0
  | y => y
/-- A value times 2^b; beyond 4,000 every result has over- or underflowed. -/
def FVal.scale (x : FVal) (b : Int) : FVal := match x with
  | .fin n m e => .fin n m (e + max (-4000) (min b 4000))
  | y => y
/-- floor(log2 of a magnitude). -/
def FVal.exponent (x : FVal) : Int := match x with
  | .fin _ m e => (Nat.log2 m : Int) + e
  | _ => 0

/-! ## Approximate functions (R145) -/

/-- Fixed-point 2^(f / 2^64) at 96 bits for f below 2^64: the factors 2^(2^-i), found by repeated square roots, for the bits of f from the top. -/
def exp2Frac : Nat → Nat → Nat → Nat → Nat
  | 0, _, _, acc => acc
  | n + 1, f, c, acc =>
    let c := isqrt (c * 2 ^ 96)
    exp2Frac n f c (if f / 2 ^ n % 2 = 1 then acc * c / 2 ^ 96 else acc)
/-- 2^x to about 60 bits, for the next multiple of 2^-64 at or below x, or above a positive x below them all: on the side of 1 on which 2^x lies, so that a result is judged by the spacing of its own binade (R92, R145). -/
def exp2Real (x : FVal) : FVal :=
  match x with
  | .fin neg m e =>
    if 10 ≤ (FVal.fin neg m e).exponent && m != 0 then .fin false 1 (if neg then -2000 else 2000)
    else
      let x : Int := if neg then -(m : Int) else m
      let v : Int := if 0 ≤ e + 64 then x * (2 ^ (e + 64).toNat : Nat) else x / (2 ^ (-(e + 64)).toNat : Nat)
      let v := if 0 < x && v = 0 then 1 else v
      let n := v / (2 ^ 64 : Nat)
      let f := (v % (2 ^ 64 : Nat)).toNat
      .fin false (exp2Frac 64 f (2 ^ 97) (2 ^ 96)) (n - 96)
  | y => y
/-- Bits of log2 of y / 2^200 for y / 2^200 in [1, 2), by repeated squaring. -/
def log2Frac : Nat → Nat → Nat → Nat
  | 0, _, acc => acc
  | n + 1, y, acc =>
    let z := y * y / 2 ^ 200
    if 2 ^ 201 ≤ z then log2Frac n (z / 2) (2 * acc + 1) else log2Frac n z (2 * acc)
/-- log2 of a positive value, to 80 bits after the point. -/
def log2Real (x : FVal) : FVal :=
  match x with
  | .fin _ m e =>
    let l := Nat.log2 m
    let fr := log2Frac 80 (m * 2 ^ 200 / 2 ^ l) 0
    let v : Int := (e + l) * (2 ^ 80 : Nat) + fr
    .fin (decide (v < 0)) v.natAbs (-80)
  | y => y
/-- floor(2 * pi * 2^124). -/
def twoPi : Nat := 0x6487ED5110B4611A62633145C06E0E68
/-- The Taylor terms of sine (start 1) or cosine (start 0) of x / 2^160: k counts up by two, t is the last term. -/
def taylor : Nat → Nat → Int → Nat → Int → Int
  | 0, _, _, _, acc => acc
  | n + 1, k, t, x, acc =>
    let t := -(t * x / (2 ^ 160 : Nat) * x / (2 ^ 160 : Nat) / ((k + 1) * (k + 2) : Nat))
    taylor n (k + 2) t x (acc + t)
/-- sin (2 pi a), or cos when cosine is set, to about 100 bits. -/
def trigReal (cosine : Bool) (x : FVal) : FVal :=
  match x with
  | .fin neg m e =>
    let fr : Nat := if 0 ≤ e then 0 else (m % 2 ^ (-e).toNat) * 2 ^ 160 / 2 ^ (-e).toNat
    let q := fr / 2 ^ 158
    let th : Nat := (fr % 2 ^ 158) * twoPi / 2 ^ 124
    let one : Int := (2 ^ 160 : Nat)
    let sn := taylor 30 1 (th : Int) th (th : Int)
    let cs := taylor 30 0 one th one
    let v := if cosine then (match q with
        | 0 => cs
        | 1 => -sn
        | 2 => -cs
        | _ => sn)
      else (match q with
        | 0 => sn
        | 1 => cs
        | 2 => -sn
        | _ => -cs)
    let v := if neg && !cosine then -v else v
    .fin (decide (v < 0)) v.natAbs (-160)
  | y => y
/-- log2 e as a value to 127 bits. -/
def log2e : FVal := .fin false 0xB8AA3B295C17F0BBBE87FED0691D3E88 (-127)
/-- One as a value. -/
def numOne : FVal := .fin false 1 0
/-- tanh of a finite value. -/
def tanhReal (x : FVal) : FVal :=
  match x with
  | .fin neg m e =>
    let a := FVal.fin false m e
    let r := if 4 ≤ a.exponent then .fin false (2 ^ 60 - 1) (-60)
      else if a.exponent < -13 then
        let a3 := a.mul (a.mul a)
        FVal.sum 0 [a, (a3.div (.fin false 3 0)).neg, (a3.mul (a.mul a)).div (.fin false 15 (-1))]
      else
        let z := exp2Real ((a.mul log2e).scale 1)
        (FVal.sum 0 [z, numOne.neg]).div (FVal.sum 0 [z, numOne])
    match r with
    | .fin _ m e => .fin neg m e
    | y => y
  | y => y

/-- The approximate instructions by the order of their OPs. -/
inductive Approx where
  | rcp | rsq | ex2 | lg2 | sin | cos | tnh
  deriving DecidableEq, Repr

/-- A number for each function. -/
def Approx.num (k : Approx) : Nat := match k with
  | .rcp => 0 | .rsq => 1 | .ex2 => 2 | .lg2 => 3 | .sin => 4 | .cos => 5 | .tnh => 6
/-- The exact value, or an approximation far inside the bound, for operands that are not special. -/
def Approx.real (k : Approx) (x : FVal) : FVal := match k with
  | .rcp => numOne.div x
  | .rsq => (numOne.div x).sqrt
  | .ex2 => exp2Real x
  | .lg2 => log2Real x
  | .sin => trigReal false x
  | .cos => trigReal true x
  | .tnh => tanhReal x
/-- Whether the exact value is a power of two. -/
def isPow2 (x : FVal) : Bool := match x with
  | .fin _ m _ => m != 0 && m == 2 ^ Nat.log2 m
  | _ => false
/-- Whether a value times 2^k is an integer. -/
def integral (x : FVal) (k : Int) : Bool := match x with
  | .fin _ m e => decide (0 ≤ e + k) || m % 2 ^ (-(e + k)).toNat == 0
  | _ => false
/-- The special values of R145, and the operands whose result is exact; operand is the FP32 form of the value, on which the sign of a zero depends where the spec leaves it open. -/
def Approx.special (k : Approx) (x : FVal) (operand : Word) : Option FVal :=
  match x with
  | .nan => some .nan
  | .inf n => some (match k with
    | .rcp => .fin n 0 0
    | .rsq => if n then .nan else .fin false 0 0
    | .ex2 => if n then .fin false 0 0 else .inf false
    | .lg2 => if n then .nan else .inf false
    | .sin => .nan
    | .cos => .nan
    | .tnh => .fin n 1 0)
  | .fin n m e =>
    let z := m = 0
    match k with
    | .rcp => if z then some (.inf n) else none
    | .rsq => if z then some (.inf n) else if n then some .nan else none
    | .ex2 => if integral x 0 && x.rel (numInt 128) == .lt && x.rel (numInt (-150)) == .gt then some (exp2Real x) else none
    | .lg2 => if z then some (.inf true) else if n then some .nan else if isPow2 x then some (numInt (e + Nat.log2 m)) else none
    | .sin => if z then some (.fin n 0 0) else if integral x 2 then
        (match trigReal false x with
         | .fin _ 0 _ => some (.fin ((Config.approxResult 4 operand).getLsbD 0) 0 0)
         | y => some y) else none
    | .cos => if z then some numOne else if integral x 2 then
        (match trigReal true x with
         | .fin _ 0 _ => some (.fin ((Config.approxResult 5 operand).getLsbD 0) 0 0)
         | y => some y) else none
    | .tnh => if z then some (.fin n 0 0) else none
/-- Bound of R145 on the distance from the exact value: so many units of its last FP32 place, or 2^-22. -/
def Approx.bound (k : Approx) (exact : FVal) : FVal :=
  let u := max (exact.exponent - 23) (-149)
  match k with
  | .rcp => .fin false 1 u
  | .rsq => .fin false 1 u
  | .ex2 => .fin false 2 u
  | .tnh => .fin false 2 u
  | _ => .fin false 1 (-22)
/-- Bound of FLG2 on an operand: absolute inside [0.5, 2], two units outside. -/
def lg2Bound (x exact : FVal) : FVal :=
  if (x.rel (.fin false 1 (-1)) != .lt) && (x.rel (.fin false 2 0) != .gt) then .fin false 1 (-22)
  else .fin false 2 (max (exact.exponent - 23) (-149))
/-- Whether a result stays in the function's range (R145). -/
def Approx.inRange (k : Approx) (r : FVal) : Bool := match k with
  | .ex2 => !r.isNeg
  | .sin => r.abs.rel numOne != .gt
  | .cos => r.abs.rel numOne != .gt
  | .tnh => r.abs.rel numOne != .gt
  | _ => true
/-- A lane format that holds an operand exactly lets a result through: however the result is rounded to the format, it lies within one unit of the exact value (R145). -/
def laneHolds (f : FFmt) (x ex cand : FVal) : Bool :=
  let rd := fun (m : Nat) (y : FVal) => numOf f (toFloat f ⟨m, false, false, none⟩ y)
  let unit := fun (y : FVal) => (FVal.sum 0 [y, ex.neg]).abs.rel (.fin false 1 (max (ex.exponent - f.mb) (1 - (f.bias : Int) - f.mb))) != .gt
  (rd 0 x).rel x != .eq || (rd 2 ex).rel (rd 3 ex) == .eq || (cand.rel (rd 3 ex) != .lt && cand.rel (rd 2 ex) != .gt) ||
    (unit (rd 2 cand) && unit (rd 3 cand))
/-- The FP32 result of an approximate instruction: special and exact values as R145 gives them, else any FP32 value within the bounds of FP32 and of the lane formats, the same for the same operand: the free value if it lies within them, else the nearest FP32 value. The exact value is known to some 75 bits or more, by which a candidate is judged. -/
def approx (k : Approx) (x : FVal) (operand : Word) : FVal :=
  match k.special x operand with
  | some y => y
  | none =>
    let ex := k.real x
    let near := numOf fp32 (toFloat fp32 ⟨0, false, false, none⟩ ex)
    let cand := numOf fp32 (Config.approxResult k.num operand).toNat
    let bound := if k == .lg2 then lg2Bound x ex else k.bound ex
    match cand with
    | .fin _ _ _ =>
      if ((FVal.sum 0 [cand, ex.neg]).abs.rel bound != .gt) && k.inRange cand && laneHolds fp16 x ex cand && laneHolds bf16 x ex cand then cand else near
    | _ => near

end Sys2Proof.Machine
end

