-- ==== Sys2Proof/Machine/Vector.lean ====
section
/-! DEFINITION. How a V instruction runs (R52-R55, R74, R85, R86, R134-R139) and the integer instructions (R140-R142). -/

namespace Sys2Proof.Machine

/-! ## Passes -/

/-- Three distinct registers of one bank in a pass (R85). -/
def bankConflict (l : List Nat) : Bool :=
  let d := l.eraseDups
  [0, 1, 2, 3].any fun b => decide (3 ≤ (d.filter fun r => r % 4 == b).length)

/-- The passes of a V instruction: the team after the interlocks its sources wait for (R54), the nonempty mask words, and the ac of a pass of each element. -/
structure VPlan where
  team : Team
  words : Nat
  durs : List Nat
  deriving DecidableEq, Repr

/-- Plan the passes: the source registers of each element, and whether stochastic rounding lengthens them (R54, R74, R85, R86). -/
def planOf (t : Team) (srcs : List (List Nat)) (conflicts narrow : Bool) : VPlan :=
  let at_ := (t.sched.pend.filter fun p => !p.fixed && srcs.any fun l => l.contains p.reg).foldl (fun n p => max n p.ready) t.sched.now
  let t := if t.sched.pend = [] then t else ({ t with sched := { t.sched with now := at_ } } : Team).settle
  ⟨t, wordsOf t.flow.mask, srcs.map fun l => 1 + (if conflicts && bankConflict l then 1 else 0) + (if narrow then 1 else 0)⟩
/-- Passes. -/
def VPlan.passes (p : VPlan) : Nat := p.durs.length * p.words
/-- ac that the passes take. -/
def VPlan.total (p : VPlan) : Nat := p.durs.sum * p.words
/-- When the first pass of an element begins. -/
def VPlan.start (p : VPlan) (e : Nat) : Nat := p.team.sched.now + (p.durs.take e).sum * p.words
/-- When the pass of an element over a row's mask word begins. -/
def VPlan.time (p : VPlan) (e row : Nat) : Nat :=
  p.start e + ((List.range (row / 32)).filter fun w => maskWord p.team.flow.mask w != 0).length * p.durs.getD e 1
/-- Whether some pass is an undersized-stall read (R55). -/
def VPlan.early (p : VPlan) (srcs : List (List Nat)) : Bool :=
  p.words != 0 && srcs.zipIdx.any fun l => p.team.sched.pend.any fun w => w.fixed && l.1.contains w.reg && decide (p.start l.2 < w.ready)

/-- Free values that one V instruction may use. -/
def vDraws : Nat := 2 ^ 28
/-- A vector element as a pass reads it: before a fixed-latency result is readable the row reads the old or the new value (R55). DESIGN CHOICE, log 62: a result that a later write overwrote and that is not yet readable still counts. -/
def seen (s : State) (t : Team) (time key r row : Nat) : Elem :=
  t.sched.pend.zipIdx.foldl (fun v p =>
    if p.1.reg == r && p.1.fixed && decide (time < p.1.ready) && (s.draw (2 ^ 22 + key * 64 + p.2)).getLsbD 0
    then p.1.old.getD row Elem.zero else v) (t.vget r row)

/-- Write a register on the rows of a mask; other rows keep their element (R69). -/
def writeCol (t : Team) (r : Nat) (rows : RowMask) (g : Nat → Elem) : Team :=
  { t with regs := { t.regs with v := t.regs.v.modify r fun c => c.mapIdx fun row old => if rows.getLsbD row then g row else old } }
/-- Note that results become readable a latency after the last pass (R53, R54, R139). DESIGN CHOICE, log 62: a fixed-latency result keeps the earlier ones of its register pending. -/
def landed (t : Team) (p : VPlan) (dsts : List Nat) (lat : Nat) (fixed : Bool) : Team :=
  if p.words = 0 then t else
  let ready := p.team.sched.now + p.total + lat
  let new := dsts.map fun r => (⟨r, ready, fixed, p.team.regs.v.getD r []⟩ : PendW)
  let old := if fixed then t.sched.pend else t.sched.pend.filter fun w => !dsts.contains w.reg
  { t with sched := { t.sched with pend := new ++ old, landing := new.length + t.sched.landing } }
/-- The bursts in which the passes issue, element after element (R80, R134); an instruction with no pass takes one ac (R74). -/
def VPlan.bursts (p : VPlan) : List Nat :=
  let l := p.durs.flatMap (List.replicate p.words)
  if l.isEmpty then [1] else burstSums l.length l
/-- A V instruction falls through to the next slot after its passes (R52, R74, R80). -/
def vFinish (s : State) (t : Team) (stl : BitVec 4) (p : VPlan) : Out :=
  finishTime (s.drawn vDraws) (t.setPc t.flow.pc.next) stl.toNat p.bursts

/-! ## Elementwise instructions -/

/-- What an element of a row becomes, from free bits for each lane, the row, and the elements of A, B and C. -/
abbrev ElemFn := (Nat → DWord) → Nat → Elem → Elem → Elem → Elem
/-- A result is poisoned when any source element read for it is (R137). -/
def lift (g : (Nat → DWord) → Nat → Word → Word → Word → Word) : ElemFn :=
  fun rnd row a b c => ⟨g rnd row a.bits b.bits c.bits, a.poison || b.poison || c.poison⟩
/-- A function of A, B and C alone. -/
def lift3 (g : Word → Word → Word → Word) : ElemFn := lift fun _ _ a b c => g a b c

/-- What an elementwise mnemonic does: its operands, whether it reads D, its latency and whether that is fixed, the width of its result, and its function; none when FMT does not suit it (fault 0x02, R87, R135). -/
structure VOp where
  uses : Uses
  keepB : Bool
  readsD : Bool
  lat : Nat
  fixed : Bool
  width : Nat
  fn : Option ElemFn

/-- The registers that one element reads as A, B and C. -/
structure ElemSrc where
  a : Option Nat
  b : Option Nat
  c : Option Nat
  deriving DecidableEq, Repr
/-- The registers read. -/
def ElemSrc.regs (x : ElemSrc) : List Nat := x.a.toList ++ x.b.toList ++ x.c.toList
/-- The sources of each element of a V form (R42). -/
def elemSrcs (f : VForm) (u : Uses) (keepB readsD : Bool) : List ElemSrc :=
  (List.range ((f.eh.toNat + 1) * (f.ew.toNat + 1))).map fun e =>
    { a := if u.a == .block then (aRegs f)[e]? else none,
      b := if u.b == .block && (!f.ib || keepB) then (fieldRegs f f.b)[e]? else none,
      c := if readsD then (fieldRegs f f.d)[e]? else if u.c == .block then (fieldRegs f f.c)[e]? else none }
/-- An operand of a row: a register as read, or the immediate. -/
def operand (s : State) (p : VPlan) (e k row : Nat) (r : Option Nat) (imm : Word) : Elem :=
  match r with
  | some r => seen s p.team (p.time e row) ((e * 1024 + row) * 4 + k) r row
  | none => Elem.clean imm
/-- Whether FMT.stochastic lengthens the passes: results narrower than 32 bits (R86). DESIGN CHOICE, log 115: of an instruction that rounds nothing the result format is the lane of its TY, and passes are lengthened by its width too. -/
def narrows (t : Team) (width : Nat) : Bool := t.flow.fmt.getLsbD 20 && decide (width < 32)
/-- The result of one element of one row. -/
def elemResult (s : State) (p : VPlan) (f : VForm) (fn : ElemFn) (src : ElemSrc) (e row : Nat) : Elem :=
  fn (fun lane => s.draw ((e * 1024 + row) * 8 + lane)) row (operand s p e 0 row src.a 0) (operand s p e 1 row src.b f.imm)
    (operand s p e 2 row src.c 0)
/-- Write every element of the block on the participating rows; every source is read before any write (R42, R134). -/
def writeElems (s : State) (p : VPlan) (f : VForm) (fn : ElemFn) (srcs : List ElemSrc) (rows : RowMask) (t : Team) : Team :=
  (srcs.zipIdx).foldl (fun t x => writeCol t ((fieldRegs f f.d).getD x.2 0) rows (elemResult s p f fn x.1 x.2)) t

/-- The body of an elementwise instruction. -/
def elemBody (f : VForm) (o : VOp) (s : State) (t : Team) : Out :=
  let srcs := elemSrcs f o.uses o.keepB o.readsD
  let p := planOf t (srcs.map ElemSrc.regs) true (narrows t o.width)
  if p.early (srcs.map ElemSrc.regs) && t.schk.getLsbD 0 then raise s t 0x05
  else match o.fn with
    | none => raise s t 0x02
    | some fn =>
      let t' := writeElems s p f fn srcs (t.part f.prd) p.team
      vFinish s (landed t' p (fieldRegs f f.d) o.lat o.fixed) f.stl p
/-- An elementwise V instruction: o gives what it does under the team's FMT. -/
def runElem (i : Instr) (f : VForm) (u : Uses) (keepB : Bool) (o : Team → VOp) (s : State) : Out :=
  issue i s f.stl (vOperandsOk u keepB f) (vSuppressed f) fun s t => elemBody f (o t) s t

/-- The body of a compare: row predicate D from A and B or the immediate; a poisoned operand is consumed (R137, R142, R144). -/
def cmpBody (f : VForm) (rel : Team → Word → Word → Rel) (s : State) (t : Team) : Out :=
  let srcs := elemSrcs f ⟨.rowPred, .block, .block, .unused⟩ false false
  let p := planOf t (srcs.map ElemSrc.regs) true false
  if p.early (srcs.map ElemSrc.regs) && t.schk.getLsbD 0 then raise s t 0x05
  else
    let src := srcs.getD 0 ⟨none, none, none⟩
    let a := fun row => operand s p 0 0 row src.a 0
    let b := fun row => operand s p 0 1 row src.b f.imm
    let rows := t.part f.prd
    let bad := maskOf ((rowList rows t.foot.rows).filter fun row => (a row).poison || (b row).poison)
    if bad != 0 then raiseRows s t 0x38 bad none
    else
      let v := maskOf ((rowList rows t.foot.rows).filter fun row => condHolds f.sub (rel t (a row).bits (b row).bits))
      vFinish s (p.team.pset f.d.toNat rows v) f.stl p
/-- A V compare. -/
def runCmp (i : Instr) (f : VForm) (rel : Team → Word → Word → Rel) (s : State) : Out :=
  issue i s f.stl (vOperandsOk ⟨.rowPred, .block, .block, .unused⟩ false f) (vSuppressed f) (cmpBody f rel)

/-! ## Integer lanes -/

/-- Lane k of a word, w bits wide (R135). -/
def laneNat (w k : Nat) (x : Word) : Nat := x.toNat / 2 ^ (w * k) % 2 ^ w
/-- Lanes put together, lane 0 lowest. -/
def packLanes (w : Nat) (l : List Nat) : Word := BitVec.ofNat 32 (l.foldr (fun x acc => x + 2 ^ w * acc) 0)
/-- Width and signedness of the integer lanes of a TY (R135). -/
def intLane (ty : VTy) : Nat × Bool := match ty with
  | .i32 => (32, true)
  | .i16x2 => (16, true)
  | .i8x4 => (8, true)
  | _ => (32, false)
/-- An operation on every lane: exact on the lanes' values, then the low bits (R135, R140). -/
def intLanes (w : Nat) (sg : Bool) (op : Nat → Int → Int → Int → Int) (a b c : Word) : Word :=
  packLanes w ((List.range (32 / w)).map fun k =>
    intBits w (op w (intOf w sg (laneNat w k a)) (intOf w sg (laneNat w k b)) (intOf w sg (laneNat w k c))))
/-- Format codes of FMT: A, B and result (R86). -/
def fmtA (t : Team) : Nat := (t.flow.fmt.extractLsb' 0 4).toNat
/-- FMT.bformat. -/
def fmtB (t : Team) : Nat := (t.flow.fmt.extractLsb' 4 4).toNat
/-- FMT.result. -/
def fmtR (t : Team) : Nat := (t.flow.fmt.extractLsb' 8 4).toNat
/-- FMT.blocklog. -/
def fmtBlocklog (t : Team) : Nat := (t.flow.fmt.extractLsb' 16 4).toNat
/-- FMT.saturate. -/
def fmtSat (t : Team) : Bool := t.flow.fmt.getLsbD 15
/-- FMT.ftz. -/
def fmtFtz (t : Team) : Bool := t.flow.fmt.getLsbD 14
/-- FMT.rounding. -/
def fmtMode (t : Team) : Nat := (t.flow.fmt.extractLsb' 12 2).toNat
/-- The codes of A, B and result that a TY 7 instruction takes: all float or all integer, of one width; none for 0x02 (R87, R135). -/
def fmtCodes (t : Team) (float hasB : Bool) : Option (Code × Code × Code) :=
  let ok := fun n => if float then n < 3 else n == 6 || n == 7 || n == 9
  let b := if hasB then fmtB t else fmtR t
  if ok (fmtA t) && ok b && ok (fmtR t) then
    match codeOf (fmtA t), codeOf b, codeOf (fmtR t) with
    | some ca, some cb, some cr => if ca.width == cr.width && cb.width == cr.width then some (ca, cb, cr) else none
    | _, _, _ => none
  else none
/-- The integer value of a lane under a code. -/
def codeInt (c : Code) (x : Nat) : Int := match c with
  | .int w sg => intOf w sg x
  | .flt _ => 0
/-- Signedness of an integer code. -/
def Code.signed (c : Code) : Bool := match c with
  | .int _ sg => sg
  | .flt _ => true
/-- An integer instruction's function: by TY, or under TY 7 exact on the formats' values and then converted to the result format, clamped under FMT.saturate unless clamps is false (R93, R135, R140). -/
def intFn (t : Team) (ty : VTy) (clamps : Bool) (op : Nat → Int → Int → Int → Int) : Option ElemFn :=
  if ty == .fmt then
    match fmtCodes t false true with
    | none => none
    | some (ca, cb, cr) =>
      let w := cr.width
      some (lift3 fun a b c => packLanes w ((List.range (32 / w)).map fun k =>
        intResult w cr.signed (clamps && fmtSat t) (op w (codeInt ca (laneNat w k a)) (codeInt cb (laneNat w k b)) (codeInt cr (laneNat w k c)))))
  else some (lift3 (intLanes (intLane ty).1 (intLane ty).2 op))
/-- Width of the lanes of a TY under FMT. -/
def tyWidth (t : Team) (ty : VTy) : Nat := match ty with
  | .f16x2 => 16
  | .bf16x2 => 16
  | .i16x2 => 16
  | .i8x4 => 8
  | .fmt => match codeOf (fmtR t) with
    | some c => c.width
    | none => 32
  | _ => 32

/-- Unsigned value of a lane. -/
def unsg (w : Nat) (x : Int) : Nat := intBits w x
/-- Number of significant bits. -/
def bitLength (x : Nat) : Nat := if x = 0 then 0 else Nat.log2 x + 1
/-- Number of one bits among the low n bits. -/
def popBits (n x : Nat) : Nat := ((List.range n).filter fun i => x / 2 ^ i % 2 == 1).length
/-- The low n bits in reverse order. -/
def revBits (n x : Nat) : Nat := (List.range n).foldl (fun acc i => 2 * acc + x / 2 ^ i % 2) 0

/-- a + b. -/
def iAdd (_w : Nat) (a b _c : Int) : Int := a + b
/-- a - b. -/
def iSub (_w : Nat) (a b _c : Int) : Int := a - b
/-- a * b. -/
def iMul (_w : Nat) (a b _c : Int) : Int := a * b
/-- High w bits of the exact product. -/
def iMulh (w : Nat) (a b _c : Int) : Int := a * b / (2 ^ w : Nat)
/-- a * b + c. -/
def iMad (_w : Nat) (a b c : Int) : Int := a * b + c
/-- The smaller. -/
def iMin (_w : Nat) (a b _c : Int) : Int := min a b
/-- The larger. -/
def iMax (_w : Nat) (a b _c : Int) : Int := max a b
/-- a << (b mod w). -/
def iShl (w : Nat) (a b _c : Int) : Int := (unsg w a * 2 ^ (unsg w b % w) : Nat)
/-- a >> (b mod w), zero fill. -/
def iShr (w : Nat) (a b _c : Int) : Int := (unsg w a / 2 ^ (unsg w b % w) : Nat)
/-- a >> (b mod w), sign fill whatever TY. -/
def iSra (w : Nat) (a b _c : Int) : Int := intOf w true (unsg w a) / (2 ^ (unsg w b % w) : Nat)
/-- a rotated left by (b mod w). -/
def iRot (w : Nat) (a b _c : Int) : Int := (unsg w a * 2 ^ (unsg w b % w) + unsg w a / 2 ^ (w - unsg w b % w) : Nat)
/-- Leading zero bits, 0 to w. -/
def iClz (w : Nat) (a _b _c : Int) : Int := (w - bitLength (unsg w a) : Nat)
/-- One bits. -/
def iPop (w : Nat) (a _b _c : Int) : Int := popBits w (unsg w a)
/-- Bits in reverse order. -/
def iBrev (w : Nat) (a _b _c : Int) : Int := revBits w (unsg w a)

/-- The operation of an integer mnemonic with A and B or the immediate. -/
def opInt (u : Uses) (lat : Nat) (clamps : Bool) (op : Nat → Int → Int → Int → Int) (f : VForm) (t : Team) : VOp :=
  ⟨u, false, false, lat, true, tyWidth t f.ty, intFn t f.ty clamps op⟩
/-- The operation of a mnemonic on whole words. -/
def opWord (u : Uses) (lat width : Nat) (g : Word → Word → Word → Word) : VOp := ⟨u, false, false, lat, true, width, some (lift3 g)⟩

/-- VADD. -/
def opVadd (f : VForm) (t : Team) : VOp := opInt usesDAB 4 true iAdd f t
/-- VSUB. -/
def opVsub (f : VForm) (t : Team) : VOp := opInt usesDAB 4 true iSub f t
/-- VMUL. -/
def opVmul (f : VForm) (t : Team) : VOp := opInt usesDAB 6 true iMul f t
/-- VMULH never saturates. -/
def opVmulh (f : VForm) (t : Team) : VOp := opInt usesDAB 6 false iMulh f t
/-- VMAD. -/
def opVmad (f : VForm) (t : Team) : VOp := opInt usesDABC 6 true iMad f t
/-- VMIN. -/
def opVmin (f : VForm) (t : Team) : VOp := opInt usesDAB 4 true iMin f t
/-- VMAX. -/
def opVmax (f : VForm) (t : Team) : VOp := opInt usesDAB 4 true iMax f t
/-- VAND. -/
def opVand (f : VForm) (t : Team) : VOp := opWord usesDAB 4 (tyWidth t f.ty) fun a b _ => a &&& b
/-- VOR. -/
def opVor (f : VForm) (t : Team) : VOp := opWord usesDAB 4 (tyWidth t f.ty) fun a b _ => a ||| b
/-- VXOR. -/
def opVxor (f : VForm) (t : Team) : VOp := opWord usesDAB 4 (tyWidth t f.ty) fun a b _ => a ^^^ b
/-- VANDN. -/
def opVandn (f : VForm) (t : Team) : VOp := opWord usesDAB 4 (tyWidth t f.ty) fun a b _ => a &&& ~~~b
/-- VSHL. -/
def opVshl (f : VForm) (t : Team) : VOp := opInt usesDAB 4 true iShl f t
/-- VSHR. -/
def opVshr (f : VForm) (t : Team) : VOp := opInt usesDAB 4 true iShr f t
/-- VSRA. -/
def opVsra (f : VForm) (t : Team) : VOp := opInt usesDAB 4 true iSra f t
/-- VROT. -/
def opVrot (f : VForm) (t : Team) : VOp := opInt usesDAB 4 true iRot f t
/-- VCLZ. -/
def opVclz (f : VForm) (t : Team) : VOp := opInt usesDA 4 true iClz f t
/-- VPOP. -/
def opVpop (f : VForm) (t : Team) : VOp := opInt usesDA 4 true iPop f t
/-- VBREV. -/
def opVbrev (f : VForm) (t : Team) : VOp := opInt usesDA 4 true iBrev f t

/-- Position and width of a field control word (R141). -/
def fieldPos (b : Word) : Nat := (b.extractLsb' 16 6).toNat
/-- Width, cut at bit 31. -/
def fieldWid (b : Word) : Nat := min ((b.extractLsb' 0 6).toNat + 1) (32 - fieldPos b)
/-- Field extract (R141). -/
def fieldExtract (signed : Bool) (a b : Word) : Word :=
  if 32 ≤ fieldPos b then 0 else BitVec.ofInt 32 (intOf (fieldWid b) signed (a.toNat / 2 ^ fieldPos b))
/-- Field insert of a into c (R141). -/
def fieldInsert (a b c : Word) : Word :=
  if 32 ≤ fieldPos b then c else
  let m : Word := BitVec.ofNat 32 ((2 ^ fieldWid b - 1) * 2 ^ fieldPos b)
  (c &&& ~~~m) ||| ((a <<< fieldPos b) &&& m)
/-- Lookup in an 8-bit table, bit by bit (R141). -/
def lop3 (lut : Word) (a b c : Word) : Word :=
  (List.range 8).foldl (fun d k => if lut.getLsbD k then
    d ||| ((if k % 2 = 1 then a else ~~~a) &&& (if k / 2 % 2 = 1 then b else ~~~b) &&& (if k / 4 = 1 then c else ~~~c)) else d) 0
/-- Four products of 8-bit lanes added to c, wrapped (R96, R141). -/
def dot4 (sub : BitVec 2) (a b c : Word) : Word :=
  let sa := sub == 0 || sub == 2
  let sb := sub == 0 || sub == 1
  BitVec.ofInt 32 ((c.toNat : Int) + ((List.range 4).map fun k => intOf 8 sa (laneNat 8 k a) * intOf 8 sb (laneNat 8 k b)).sum)

/-- VBFX. -/
def opVbfx (f : VForm) (_t : Team) : VOp := opWord usesDAB 4 32 fun a b _ => fieldExtract (f.ty == .i32) a b
/-- VBFI. -/
def opVbfi (_f : VForm) (_t : Team) : VOp := opWord usesDABC 4 32 fieldInsert
/-- VSEL: the chosen element with its poison (R140, R201). -/
def opVsel (f : VForm) (t : Team) : VOp :=
  ⟨⟨.block, .block, .block, .anyPred⟩, false, false, 4, true, 32,
   some fun _ row a b _ => if (t.prednum f.c.toNat).getLsbD row then a else b⟩
/-- VMOV: bits and poison unchanged. -/
def opVmov (_f : VForm) (_t : Team) : VOp := ⟨usesDA, false, false, 4, true, 32, some fun _ _ a _ _ => a⟩
/-- VLOP3 keeps B as a register (R42). -/
def opVlop3 (f : VForm) (_t : Team) : VOp := ⟨usesDABC, true, false, 4, true, 32, some (lift3 (lop3 f.imm))⟩
/-- VIDX: the row's number. -/
def opVidx (_f : VForm) (_t : Team) : VOp :=
  ⟨⟨.block, .unused, .unused, .unused⟩, false, false, 4, true, 32, some fun _ row _ _ _ => Elem.clean (BitVec.ofNat 32 row)⟩
/-- VDOT4. -/
def opVdot4 (f : VForm) (_t : Team) : VOp := opWord usesDABC 6 32 (dot4 f.sub)

/-! ## The meanings -/

/-- VADD (R140). -/
def execVadd (f : VForm) (s : State) : Out := runElem (.vadd f) f usesDAB false (opVadd f) s
/-- VSUB (R140). -/
def execVsub (f : VForm) (s : State) : Out := runElem (.vsub f) f usesDAB false (opVsub f) s
/-- VMUL (R140). -/
def execVmul (f : VForm) (s : State) : Out := runElem (.vmul f) f usesDAB false (opVmul f) s
/-- VMULH (R140). -/
def execVmulh (f : VForm) (s : State) : Out := runElem (.vmulh f) f usesDAB false (opVmulh f) s
/-- VMAD (R140). -/
def execVmad (f : VForm) (s : State) : Out := runElem (.vmad f) f usesDABC false (opVmad f) s
/-- VMIN (R140). -/
def execVmin (f : VForm) (s : State) : Out := runElem (.vmin f) f usesDAB false (opVmin f) s
/-- VMAX (R140). -/
def execVmax (f : VForm) (s : State) : Out := runElem (.vmax f) f usesDAB false (opVmax f) s
/-- VAND (R140). -/
def execVand (f : VForm) (s : State) : Out := runElem (.vand f) f usesDAB false (opVand f) s
/-- VOR (R140). -/
def execVor (f : VForm) (s : State) : Out := runElem (.vor f) f usesDAB false (opVor f) s
/-- VXOR (R140). -/
def execVxor (f : VForm) (s : State) : Out := runElem (.vxor f) f usesDAB false (opVxor f) s
/-- VANDN (R140). -/
def execVandn (f : VForm) (s : State) : Out := runElem (.vandn f) f usesDAB false (opVandn f) s
/-- VSHL (R140). -/
def execVshl (f : VForm) (s : State) : Out := runElem (.vshl f) f usesDAB false (opVshl f) s
/-- VSHR (R140). -/
def execVshr (f : VForm) (s : State) : Out := runElem (.vshr f) f usesDAB false (opVshr f) s
/-- VSRA (R140). -/
def execVsra (f : VForm) (s : State) : Out := runElem (.vsra f) f usesDAB false (opVsra f) s
/-- VROT (R140). -/
def execVrot (f : VForm) (s : State) : Out := runElem (.vrot f) f usesDAB false (opVrot f) s
/-- VCLZ (R140). -/
def execVclz (f : VForm) (s : State) : Out := runElem (.vclz f) f usesDA false (opVclz f) s
/-- VPOP (R140). -/
def execVpop (f : VForm) (s : State) : Out := runElem (.vpop f) f usesDA false (opVpop f) s
/-- VBREV (R140). -/
def execVbrev (f : VForm) (s : State) : Out := runElem (.vbrev f) f usesDA false (opVbrev f) s
/-- VBFX (R141). -/
def execVbfx (f : VForm) (s : State) : Out := runElem (.vbfx f) f usesDAB false (opVbfx f) s
/-- VBFI (R141). -/
def execVbfi (f : VForm) (s : State) : Out := runElem (.vbfi f) f usesDABC false (opVbfi f) s
/-- VSEL (R140). -/
def execVsel (f : VForm) (s : State) : Out := runElem (.vsel f) f ⟨.block, .block, .block, .anyPred⟩ false (opVsel f) s
/-- VMOV (R140). -/
def execVmov (f : VForm) (s : State) : Out := runElem (.vmov f) f usesDA false (opVmov f) s
/-- VCMP (R142). -/
def execVcmp (f : VForm) (s : State) : Out :=
  runCmp (.vcmp f) f (fun _ a b => relInt (wordInt (f.ty == .i32) a) (wordInt (f.ty == .i32) b)) s
/-- VLOP3 (R141). -/
def execVlop3 (f : VForm) (s : State) : Out := runElem (.vlop3 f) f usesDABC true (opVlop3 f) s
/-- VIDX (R140). -/
def execVidx (f : VForm) (s : State) : Out := runElem (.vidx f) f ⟨.block, .unused, .unused, .unused⟩ false (opVidx f) s
/-- VDOT4 (R141). -/
def execVdot4 (f : VForm) (s : State) : Out := runElem (.vdot4 f) f usesDABC false (opVdot4 f) s

end Sys2Proof.Machine
end

