-- ==== Sys2Proof/Machine/FloatVec.lean ====
section
/-! DEFINITION. The floating-point V instructions (R143-R145), conversion (R146, R147) and block quantising (R91, R148, R149). -/

namespace Sys2Proof.Machine

/-- Random bits of a lane for stochastic rounding (R92). -/
def rnd16 (rnd : Nat → DWord) (lane : Nat) : Nat := ((rnd lane).extractLsb' 0 16).toNat
/-- How FMT rounds a lane's result: saturate applies only where R87 says. -/
def rctx (t : Team) (sat : Bool) (r : Nat) : RCtx :=
  ⟨fmtMode t, sat && fmtSat t, fmtFtz t, if t.flow.fmt.getLsbD 20 then some r else none⟩
/-- The float format of a TY 2 to 4 (R135). -/
def floatTy (ty : VTy) : FFmt := match ty with
  | .f16x2 => fp16
  | .bf16x2 => bf16
  | _ => fp32
/-- Bits of a float format. -/
def FFmt.width (f : FFmt) : Nat := 1 + f.eb + f.mb
/-- The float format of a code. -/
def Code.fmt (c : Code) : FFmt := match c with
  | .flt f => f
  | .int _ _ => fp32
/-- An operation on float values under a rounding mode, which only signs an exact zero sum (R95). -/
abbrev FOp := Nat → FVal → FVal → FVal → FVal
/-- A float operation on every lane, rounded once (R143). DESIGN CHOICE, log 65: the sign of an exact zero sum follows the rounding field (R95) under stochastic rounding too. -/
def floatLanes (t : Team) (fa fb fr : FFmt) (sat : Bool) (op : FOp) (rnd : Nat → DWord) (a b c : Word) : Word :=
  let w := fr.width
  packLanes w ((List.range (32 / w)).map fun k =>
    toFloat fr (rctx t sat (rnd16 rnd k))
      (op (fmtMode t) (numIn fa (fmtFtz t) (laneNat w k a)) (numIn fb (fmtFtz t) (laneNat w k b)) (numIn fr (fmtFtz t) (laneNat w k c))))
/-- A float instruction's function by TY or FMT (R87, R135, R143). -/
def floatFn (t : Team) (ty : VTy) (hasB : Bool) (op : FOp) : Option ElemFn :=
  if ty == .fmt then
    match fmtCodes t true hasB with
    | none => none
    | some (ca, cb, cr) => some (lift fun rnd _ a b c => floatLanes t ca.fmt cb.fmt cr.fmt true op rnd a b c)
  else some (lift fun rnd _ a b c => floatLanes t (floatTy ty) (floatTy ty) (floatTy ty) false op rnd a b c)
/-- The operation of a float mnemonic. -/
def opFloat (u : Uses) (lat : Nat) (fixed : Bool) (op : FOp) (f : VForm) (t : Team) : VOp :=
  ⟨u, false, false, lat, fixed, tyWidth t f.ty, floatFn t f.ty (u.b == .block) op⟩

/-- FADD. -/
def opFadd (f : VForm) (t : Team) : VOp := opFloat usesDAB 4 true (fun m a b _ => FVal.add m a b) f t
/-- FSUB. -/
def opFsub (f : VForm) (t : Team) : VOp := opFloat usesDAB 4 true (fun m a b _ => FVal.add m a b.neg) f t
/-- FMUL. -/
def opFmul (f : VForm) (t : Team) : VOp := opFloat usesDAB 4 true (fun _ a b _ => a.mul b) f t
/-- FMA. -/
def opFma (f : VForm) (t : Team) : VOp := opFloat usesDABC 4 true (fun m a b c => FVal.add m (a.mul b) c) f t
/-- FMIN. -/
def opFmin (f : VForm) (t : Team) : VOp := opFloat usesDAB 4 true (fun _ a b _ => a.minN b) f t
/-- FMAX. -/
def opFmax (f : VForm) (t : Team) : VOp := opFloat usesDAB 4 true (fun _ a b _ => a.maxN b) f t
/-- FSQRT is interlocked (R54, R139). -/
def opFsqrt (f : VForm) (t : Team) : VOp := opFloat usesDA 20 false (fun _ a _ _ => a.sqrt) f t
/-- FDIV is interlocked (R54, R139). -/
def opFdiv (f : VForm) (t : Team) : VOp := opFloat usesDAB 24 false (fun _ a b _ => a.div b) f t
/-- FRND (R143). DESIGN CHOICE, log 103: an infinity that FMT.saturate clamps under TY 7 is clamped (R93), although R143 leaves infinities unchanged. DESIGN CHOICE, log 114: the rounding field gives the integral value also where FMT.stochastic is set and the result is BF16 or FP16 (R92). -/
def opFrnd (f : VForm) (t : Team) : VOp := opFloat usesDA 4 true (fun m a _ _ => a.rint m) f t

/-- An approximate instruction's function: for FP16 and BF16 lanes the FP32 result rounded (R145). -/
def approxLanes (t : Team) (fr : FFmt) (k : Approx) (rnd : Nat → DWord) (a : Word) : Word :=
  let w := fr.width
  packLanes w ((List.range (32 / w)).map fun j =>
    let x := numIn fr (fmtFtz t) (laneNat w j a)
    let y := approx k x (BitVec.ofNat 32 (toFloat fp32 ⟨0, false, false, none⟩ x))
    let y := numOf fp32 (toFloat fp32 ⟨0, false, fmtFtz t, none⟩ y)
    toFloat fr (rctx t false (rnd16 rnd j)) y)
/-- The operation of an approximate mnemonic. -/
def opApprox (k : Approx) (f : VForm) (t : Team) : VOp :=
  ⟨usesDA, false, false, 10, true, tyWidth t f.ty, some (lift fun rnd _ a _ _ => approxLanes t (floatTy f.ty) k rnd a)⟩

/-- FCLASS of a lane: one bit, the operand not flushed (R144). -/
def classOf (fr : FFmt) (x : Nat) : Nat :=
  let mf := x % 2 ^ fr.mb
  let ef := x / 2 ^ fr.mb % 2 ^ fr.eb
  let neg := x / 2 ^ (fr.eb + fr.mb) % 2 == 1
  if ef = 2 ^ fr.eb - 1 then
    (if mf = 0 then (if neg then 1 else 128) else if mf / 2 ^ (fr.mb - 1) % 2 = 1 then 512 else 256)
  else if ef = 0 then (if mf = 0 then (if neg then 8 else 16) else if neg then 4 else 32)
  else if neg then 2 else 64
/-- FCLASS. -/
def opFclass (f : VForm) (t : Team) : VOp :=
  let fr := floatTy f.ty
  ⟨usesDA, false, false, 4, true, tyWidth t f.ty, some (lift3 fun a _ _ =>
    packLanes fr.width ((List.range (32 / fr.width)).map fun k => classOf fr (laneNat fr.width k a)))⟩
/-- FSCL: B is a signed integer lane (R143). -/
def opFscl (f : VForm) (t : Team) : VOp :=
  let fr := floatTy f.ty
  let w := fr.width
  ⟨usesDAB, false, false, 4, true, tyWidth t f.ty, some (lift fun rnd _ a b _ =>
    packLanes w ((List.range (32 / w)).map fun k =>
      toFloat fr (rctx t false (rnd16 rnd k)) ((numIn fr (fmtFtz t) (laneNat w k a)).scale (intOf w true (laneNat w k b)))))⟩
/-- FDOT2: both products exact, added to C exactly, one rounding to FP32 (R96). -/
def opFdot2 (f : VForm) (t : Team) : VOp :=
  let fr := floatTy f.ty
  let z := fmtFtz t
  ⟨usesDABC, false, false, 6, true, 32, some (lift fun _ _ a b c =>
    BitVec.ofNat 32 (toFloat fp32 (rctx t false 0) (FVal.sum (fmtMode t)
      [(numIn fr z (laneNat 16 0 a)).mul (numIn fr z (laneNat 16 0 b)), (numIn fr z (laneNat 16 1 a)).mul (numIn fr z (laneNat 16 1 b)),
       numIn fp32 z c.toNat])))⟩

/-! ## Conversion -/

/-- Convert one lane (R147): a float to an integer rounds by FMT.rounding, or stochastically to the integer formats that R87 names. DEDUCED, log 61: R92 sets the rounding field aside for them. -/
def convLane (t : Team) (sc dc : Code) (r : Nat) (x : Nat) : Nat :=
  let c := rctx t true r
  match sc, dc with
  | .flt sf, .flt df => toFloat df c (numIn sf c.ftz x)
  | .flt sf, .int w sg => toIntBits w sg c (numIn sf c.ftz x)
  | .int w sg, .flt df => toFloat df c (numInt (intOf w sg x))
  | .int w sg, .int w' sg' => intResult w' sg' c.sat (intOf w sg x)
/-- The codes of a CVT: source and destination (R146); none for a code that faults on use (R87). -/
def cvtCodes (f : VForm) (t : Team) : Option (Code × Code) :=
  if f.ty == .fmt then
    (if fmtA t < 10 && fmtR t < 10 then match codeOf (fmtA t), codeOf (fmtR t) with
      | some a, some r => some (a, r)
      | _, _ => none
     else none)
  else match codeOf (f.c.extractLsb' 0 4).toNat, codeOf (f.c.extractLsb' 4 4).toNat with
    | some a, some r => some (a, r)
    | _, _ => none
/-- Whether the widths and SUB of a CVT go together (R147). -/
def cvtShape (ws wd sub : Nat) : Bool :=
  decide (max ws wd / min ws wd ≤ 4) && (if ws < wd then decide (sub < wd / ws) else if wd < ws then decide (sub < ws / wd) else sub == 0)
/-- The element a CVT gives: d is the old destination element, whose other lanes a narrowing keeps (R147). -/
def cvtElem (t : Team) (sc dc : Code) (sub : Nat) (rnd : Nat → DWord) (a d : Word) : Word :=
  let ws := sc.width
  let wd := dc.width
  if ws < wd then packLanes wd ((List.range (32 / wd)).map fun j => convLane t sc dc (rnd16 rnd j) (laneNat ws (sub * (32 / wd) + j) a))
  else if wd < ws then
    let n := 32 / ws
    packLanes wd ((List.range (32 / wd)).map fun l =>
      if sub * n ≤ l && l < sub * n + n then convLane t sc dc (rnd16 rnd (l - sub * n)) (laneNat ws (l - sub * n) a) else laneNat wd l d)
  else packLanes wd ((List.range (32 / wd)).map fun j => convLane t sc dc (rnd16 rnd j) (laneNat ws j a))
/-- CVT. -/
def opCvt (f : VForm) (t : Team) : VOp :=
  match cvtCodes f t with
  | none => ⟨usesDA, false, false, 6, true, 32, none⟩
  | some (sc, dc) =>
    let narrow := decide (dc.width < sc.width)
    ⟨usesDA, false, narrow, 6, true, dc.width,
     if cvtShape sc.width dc.width f.sub.toNat then
       some (fun rnd _ a _ c => ⟨cvtElem t sc dc f.sub.toNat rnd a.bits c.bits, a.poison || (narrow && c.poison)⟩) else none⟩

/-! ## Block quantising -/

/-- Source code, element code and elements of a QBLK or DQBLK block under FMT, or none for 0x02 (R148, R149). DESIGN CHOICE, log 113: FMT.bformat is not looked at, although B is a register operand (R87). -/
def blockShape (t : Team) (wide narrow : Nat) : Option (Code × Code × Nat) :=
  if wide < 3 && (narrow == 5 || (([3, 4, 6] : List Nat).contains narrow && 4 ≤ fmtBlocklog t && fmtBlocklog t ≤ 7)) then
    match codeOf wide, codeOf narrow with
    | some w, some n => some (w, n, if narrow == 5 then 32 else 2 ^ fmtBlocklog t)
    | _, _ => none
  else none
/-- Element i of a run of registers, w bits wide: elements are packed from the lowest bits of the first register. -/
def runElemNat (w : Nat) (regs : List Word) (i : Nat) : Nat := laneNat w (i % (32 / w)) (regs.getD (i / (32 / w)) 0)
/-- Register j of the run that packs a list of elements w bits wide. -/
def runWord (w : Nat) (elems : List Nat) (j : Nat) : Word := packLanes w ((elems.drop (j * (32 / w))).take (32 / w))
/-- emax of R91. -/
def blockEmax (narrow : Nat) : Int := match narrow with
  | 5 => 2
  | 3 => 8
  | 4 => 15
  | _ => 6
/-- The E8M0 scale byte of a block (R91). -/
def blockScale (narrow : Nat) (l : List FVal) : Nat :=
  if l.any fun x => x.isNan || x.abs == .inf false then 0xFF else
  let amax := l.foldl (fun m x => if m.rel x.abs == .lt then x.abs else m) (.fin false 0 0)
  if amax.isZero then 0 else (max (-127) (min (amax.exponent - blockEmax narrow) 127) + 127).toNat
/-- An element of QBLK: divided by the scale, rounded, always clamped; INT8 to -127 (R91, R148). -/
def quantElem (t : Team) (dc : Code) (scale r : Nat) (x : FVal) : Nat :=
  let y := x.scale (127 - (scale : Int))
  let c := { rctx t true r with sat := true }
  match dc with
  | .flt df => toFloat df c y
  | .int w sg => let v := toIntBits w sg c y
                 if v = 128 then 129 else v
/-- The source registers as one row reads them. -/
abbrev RowRegs := List Elem
/-- The reads of a fixed-shape instruction: every source register of a row, in every pass (R139). -/
def rowRegs (s : State) (p : VPlan) (regs : List Nat) (row : Nat) : RowRegs :=
  regs.zipIdx.map fun x => seen s p.team (p.time 0 row) ((x.2 * 1024 + row) * 4) x.1 row
/-- Rows whose function reports a data-dependent fault leave every row as it was (R138); otherwise any poison read poisons every result (R137). DESIGN CHOICE, log 85: the reads of QBLK's and DQBLK's runs of registers lengthen no pass (R85). DESIGN CHOICE, log 102: where QBLK's B lies inside the run of D, the block record, written last, stands (R148). -/
def fixedBody (f : VForm) (srcs dsts : List Nat) (lat : Nat → Nat) (fixed narrow : Bool)
    (bad : (Nat → RowRegs) → List Nat → List Nat) (badCode : Nat)
    (fn : (Nat → RowRegs) → List Nat → (Nat → Nat → DWord) → Nat → List Word) (s : State) (t : Team) : Out :=
  let p := planOf t (dsts.map fun _ => srcs) false narrow
  if p.early (dsts.map fun _ => srcs) && t.schk.getLsbD 0 then raise s t 0x05 else
  let rows := t.part f.prd
  let rl := rowList rows t.foot.rows
  let rd := rowRegs s p srcs
  let wrong := bad rd rl
  if !wrong.isEmpty then raiseRows s t badCode (maskOf wrong) none else
  let pois := rl.any fun row => (rd row).any fun e => e.poison
  let out := fn rd rl (fun row k => s.draw (row * 256 + k))
  let t' := dsts.zipIdx.foldl (fun t x => writeCol t x.1 rows fun row => ⟨(out row).getD x.2 0, pois⟩) p.team
  vFinish s (landed t' p dsts (lat p.words) fixed) f.stl p
/-- No data-dependent fault. -/
def noneBad (_ : Nat → RowRegs) (_ : List Nat) : List Nat := []

/-- QBLK's row: the packed elements and then the block record (R148). -/
def qblkRow (t : Team) (sc dc : Code) (n : Nat) (regs : RowRegs) (rnd : Nat → DWord) : List Word :=
  let ws := sc.width
  let wd := dc.width
  let src := (List.range n).map fun i => numIn sc.fmt (fmtFtz t) (runElemNat ws (regs.map Elem.bits) i)
  let scale := blockScale (fmtR t) src
  let codes := if scale = 0xFF then src.map fun _ => 0 else src.zipIdx.map fun x => quantElem t dc scale (rnd16 rnd x.2) x.1
  (List.range (n * wd / 32)).map (runWord wd codes) ++ [BitVec.ofNat 32 (scale + if fmtR t = 5 then 0x8000 else 0)]
/-- A decoded F4X element (R89). -/
def decodeF4x (c scale x : Nat) : FVal :=
  if scale = 0xFF then .nan
  else if c = 8 then
    (if x = 0x80 then .fin true 0 0 else if x % 128 = 0x7F then .nan else (numOf fpE4m3 x).scale ((scale : Int) - 127))
  else (numOf fpE2m1 c).scale ((scale : Int) - 127)
/-- DQBLK's row (R149). -/
def dqblkRow (t : Team) (sc dc : Code) (n : Nat) (regs : RowRegs) (rnd : Nat → DWord) : List Word :=
  let wd := dc.width
  let b := (regs.getLastD Elem.zero).bits
  let scale := (b.extractLsb' 0 8).toNat
  let x := (b.extractLsb' 8 8).toNat
  let val := fun i =>
    let e := runElemNat sc.width (regs.map Elem.bits) i
    if scale = 0xFF then FVal.nan else
    match sc with
    | .flt df => if fmtA t = 5 then decodeF4x e scale x else (numOf df e).scale ((scale : Int) - 127)
    | .int w sg => (numInt (intOf w sg e)).scale ((scale : Int) - 127)
  let out := (List.range n).map fun i => toFloat dc.fmt (rctx t true (rnd16 rnd i)) (val i)
  (List.range (n * wd / 32)).map (runWord wd out)

/-- Operands of QBLK: the runs, whose lengths FMT gives (R136, R148). -/
def qblkOk (f : VForm) (t : Team) : Bool :=
  t.predOk f.prd.index.toNat && match blockShape t (fmtA t) (fmtR t) with
  | some (sc, dc, n) => runOk t f.a.toNat (n * sc.width / 32) && runOk t f.d.toNat (n * dc.width / 32) && vregOk t f.b.toNat
  | none => vregOk t f.a.toNat && vregOk t f.d.toNat && vregOk t f.b.toNat
/-- Operands of DQBLK. -/
def dqblkOk (f : VForm) (t : Team) : Bool :=
  t.predOk f.prd.index.toNat && match blockShape t (fmtR t) (fmtA t) with
  | some (dc, sc, n) => runOk t f.a.toNat (n * sc.width / 32) && runOk t f.d.toNat (n * dc.width / 32) && vregOk t f.b.toNat
  | none => vregOk t f.a.toNat && vregOk t f.d.toNat && vregOk t f.b.toNat
/-- A run of register numbers. -/
def runRegs (b n : Nat) : List Nat := (List.range n).map fun i => b + i
/-- QBLK or DQBLK with formats that FMT does not allow: 0x02 after the undersized-stall check (R40, R55, R148, R149). DESIGN CHOICE, log 90: such formats give no run of registers, and the check is made of the registers that A and, for DQBLK, B name. -/
def badFormats (srcs : List Nat) (s : State) (t : Team) : Out :=
  if (planOf t [srcs] false false).early [srcs] && t.schk.getLsbD 0 then raise s t 0x05 else raise s t 0x02
/-- The body of QBLK. -/
def qblkBody (f : VForm) (s : State) (t : Team) : Out :=
  match blockShape t (fmtA t) (fmtR t) with
  | none => badFormats [f.a.toNat] s t
  | some (sc, dc, n) =>
    fixedBody f (runRegs f.a.toNat (n * sc.width / 32)) (runRegs f.d.toNat (n * dc.width / 32) ++ [f.b.toNat]) (fun _ => 6) true
      (narrows t dc.width) noneBad 0 (fun rd _ rnd row => qblkRow t sc dc n (rd row) (rnd row)) s t
/-- The body of DQBLK. -/
def dqblkBody (f : VForm) (s : State) (t : Team) : Out :=
  match blockShape t (fmtR t) (fmtA t) with
  | none => badFormats [f.a.toNat, f.b.toNat] s t
  | some (dc, sc, n) =>
    fixedBody f (runRegs f.a.toNat (n * sc.width / 32) ++ [f.b.toNat]) (runRegs f.d.toNat (n * dc.width / 32)) (fun _ => 6) true
      (narrows t dc.width) noneBad 0 (fun rd _ rnd row => dqblkRow t sc dc n (rd row) (rnd row)) s t

/-! ## The meanings -/

/-- FADD (R143). -/
def execFadd (f : VForm) (s : State) : Out := runElem (.fadd f) f usesDAB false (opFadd f) s
/-- FSUB (R143). -/
def execFsub (f : VForm) (s : State) : Out := runElem (.fsub f) f usesDAB false (opFsub f) s
/-- FMUL (R143). -/
def execFmul (f : VForm) (s : State) : Out := runElem (.fmul f) f usesDAB false (opFmul f) s
/-- FMA (R96, R143). -/
def execFma (f : VForm) (s : State) : Out := runElem (.fma f) f usesDABC false (opFma f) s
/-- FMIN (R95, R143). -/
def execFmin (f : VForm) (s : State) : Out := runElem (.fmin f) f usesDAB false (opFmin f) s
/-- FMAX (R95, R143). -/
def execFmax (f : VForm) (s : State) : Out := runElem (.fmax f) f usesDAB false (opFmax f) s
/-- FCMP (R144). -/
def execFcmp (f : VForm) (s : State) : Out :=
  runCmp (.fcmp f) f (fun t a b => (numIn fp32 (fmtFtz t) a.toNat).rel (numIn fp32 (fmtFtz t) b.toNat)) s
/-- FCLASS (R144). -/
def execFclass (f : VForm) (s : State) : Out := runElem (.fclass f) f usesDA false (opFclass f) s
/-- FRCP (R145). -/
def execFrcp (f : VForm) (s : State) : Out := runElem (.frcp f) f usesDA false (opApprox .rcp f) s
/-- FRSQ (R145). -/
def execFrsq (f : VForm) (s : State) : Out := runElem (.frsq f) f usesDA false (opApprox .rsq f) s
/-- FSQRT (R143). -/
def execFsqrt (f : VForm) (s : State) : Out := runElem (.fsqrt f) f usesDA false (opFsqrt f) s
/-- FDIV (R143). -/
def execFdiv (f : VForm) (s : State) : Out := runElem (.fdiv f) f usesDAB false (opFdiv f) s
/-- FEX2 (R145). -/
def execFex2 (f : VForm) (s : State) : Out := runElem (.fex2 f) f usesDA false (opApprox .ex2 f) s
/-- FLG2 (R145). -/
def execFlg2 (f : VForm) (s : State) : Out := runElem (.flg2 f) f usesDA false (opApprox .lg2 f) s
/-- FSIN (R145). -/
def execFsin (f : VForm) (s : State) : Out := runElem (.fsin f) f usesDA false (opApprox .sin f) s
/-- FCOS (R145). -/
def execFcos (f : VForm) (s : State) : Out := runElem (.fcos f) f usesDA false (opApprox .cos f) s
/-- FTNH (R145). -/
def execFtnh (f : VForm) (s : State) : Out := runElem (.ftnh f) f usesDA false (opApprox .tnh f) s
/-- FRND (R143). -/
def execFrnd (f : VForm) (s : State) : Out := runElem (.frnd f) f usesDA false (opFrnd f) s
/-- CVT (R146, R147). -/
def execCvt (f : VForm) (s : State) : Out := runElem (.cvt f) f usesDA false (opCvt f) s
/-- FSCL (R143). -/
def execFscl (f : VForm) (s : State) : Out := runElem (.fscl f) f usesDAB false (opFscl f) s
/-- FDOT2 (R96, R143). -/
def execFdot2 (f : VForm) (s : State) : Out := runElem (.fdot2 f) f usesDABC false (opFdot2 f) s
/-- QBLK (R148). -/
def execQblk (f : VForm) (s : State) : Out := issue (.qblk f) s f.stl (qblkOk f) (vSuppressed f) (qblkBody f)
/-- DQBLK (R149). -/
def execDqblk (f : VForm) (s : State) : Out := issue (.dqblk f) s f.stl (dqblkOk f) (vSuppressed f) (dqblkBody f)

end Sys2Proof.Machine
end

