-- ==== Sys2Proof/Machine/CrossRow.lean ====
section
/-! DEFINITION. The instructions that exchange values between rows or depend on them: SHFL, VSTEP, BALLOT, VOTE, MATCH, PFX, SPACK, SPEXP, VSORT, BSRCH (R97, R150-R159). -/

namespace Sys2Proof.Machine

/-- The body of a cross-row block instruction: res gives an element's result on a row from the reads of A and B. -/
def crossBody (f : VForm) (hasB : Bool) (lat : Nat → Nat)
    (res : List Nat → (Nat → Nat → Elem) → (Nat → Nat → Elem) → Nat → Nat → Elem) (s : State) (t : Team) : Out :=
  let srcs := elemSrcs f ⟨.block, .block, if hasB then .block else .unused, .unused⟩ false false
  let p := planOf t (srcs.map ElemSrc.regs) true false
  if p.early (srcs.map ElemSrc.regs) && t.schk.getLsbD 0 then raise s t 0x05 else
  let rows := t.part f.prd
  let rl := rowList rows t.foot.rows
  let a := fun e row => operand s p e 0 row (srcs.getD e ⟨none, none, none⟩).a 0
  let b := fun e row => operand s p e 1 row (srcs.getD e ⟨none, none, none⟩).b f.imm
  let t' := srcs.zipIdx.foldl (fun t x => writeCol t ((fieldRegs f f.d).getD x.2 0) rows (res rl a b x.2)) p.team
  vFinish s (landed t' p (fieldRegs f f.d) (lat p.words) false) f.stl p

/-- The row that SHFL reads (R150). -/
def shflSrc (sub : BitVec 2) (row : Nat) (k : Word) : Int :=
  match sub.toNat with
  | 0 => k.toNat
  | 1 => (row : Int) + k.toInt
  | 2 => Nat.xor row k.toNat
  | _ => (32 * (row / 32) + (row % 32 + k.toNat) % 32 : Nat)
/-- The combinations of VSTEP and PFX. -/
inductive Comb where
  | add | min | max | or
  deriving DecidableEq, Repr
/-- A word of a TY as an operand: under FMT.ftz a subnormal FP32 value is zero of its sign (R94). -/
def keyIn (t : Team) (ty : VTy) (x : Word) : Word := if ty == .f32 then BitVec.ofNat 32 (flushBits fp32 (fmtFtz t) x.toNat) else x
/-- Combine two words under a TY; float sums are rounded by FMT in FP32 (R97, R151). -/
def combine (t : Team) (ty : VTy) (c : Comb) (a b : Word) : Word :=
  if ty == .f32 then
    let x := numIn fp32 (fmtFtz t) a.toNat
    let y := numIn fp32 (fmtFtz t) b.toNat
    let r := match c with
      | .add => FVal.add (fmtMode t) x y
      | .min => x.minN y
      | _ => x.maxN y
    BitVec.ofNat 32 (toFloat fp32 (rctx t false 0) r)
  else
    let sg := ty == .i32
    match c with
    | .add => a + b
    | .or => a ||| b
    | .min => if wordInt sg b < wordInt sg a then b else a
    | .max => if wordInt sg a < wordInt sg b then b else a
/-- One level of the tree of R97: a node with one child present passes it. -/
def treeLevel (g : Word → Word → Word) : List (Option Word) → List (Option Word)
  | some a :: some b :: r => some (g a b) :: treeLevel g r
  | some a :: none :: r => some a :: treeLevel g r
  | none :: x :: r => x :: treeLevel g r
  | l => l
/-- Levels 1 to 10 of the tree. -/
def treeRoot (g : Word → Word → Word) (l : List (Option Word)) : Option Word :=
  ((List.range 10).foldl (fun l _ => treeLevel g l) l).headD none
/-- Whether any element read is poisoned (R137). -/
def anyPoison (n : Nat) (rl : List Nat) (a : Nat → Nat → Elem) : Bool :=
  (List.range n).any fun e => rl.any fun row => (a e row).poison
/-- Elements of a V form's block. -/
def blockSize (f : VForm) : Nat := (f.eh.toNat + 1) * (f.ew.toNat + 1)
/-- SHFL's result: the element of the named row when it participates, else the row's own; one poisoned source element of a participating row poisons every result (R134, R137, R150). DEDUCED, log 16: the copying of poison that R201 speaks of is part of that. -/
def shflRes (f : VForm) (rl : List Nat) (a b : Nat → Nat → Elem) (e row : Nat) : Elem :=
  let src := shflSrc f.sub row (b e row).bits
  ⟨(if 0 ≤ src && rl.contains src.toNat then a e src.toNat else a e row).bits, anyPoison (blockSize f) rl a || anyPoison (blockSize f) rl b⟩
/-- VSTEP's result (R97, R151). DESIGN CHOICE, log 89: a lone value, which is combined with nothing, is converted to the result format all the same: FMT.ftz flushes it when subnormal, and a NaN keeps its payload. -/
def vstepRes (f : VForm) (t : Team) (rl : List Nat) (a _b : Nat → Nat → Elem) (e _row : Nat) : Elem :=
  let c := match f.sub.toNat with
    | 0 => Comb.add
    | 1 => Comb.min
    | 2 => Comb.max
    | _ => Comb.or
  let l := (List.range 1024).map fun r => if rl.contains r then some (keyIn t f.ty (a e r).bits) else none
  ⟨(treeRoot (combine t f.ty c) l).getD 0, anyPoison (blockSize f) rl a⟩
/-- The running combination of PFX over rows in ascending order: (row, value) (R152). -/
def prefixes (g : Word → Word → Word) (exclusive : Bool) : Option Word → List (Nat × Word) → List (Nat × Word)
  | _, [] => []
  | acc, (row, x) :: r =>
    let acc' := match acc with
      | none => x
      | some y => g y x
    (row, if exclusive then acc.getD 0 else acc') :: prefixes g exclusive (some acc') r
/-- PFX's result (R152); the first row's lone value is converted as VSTEP's is (log 89). -/
def pfxRes (f : VForm) (t : Team) (rl : List Nat) (a _b : Nat → Nat → Elem) (e row : Nat) : Elem :=
  let c := match f.sub.toNat with
    | 2 => Comb.max
    | 3 => Comb.min
    | _ => Comb.add
  ⟨agetD (prefixes (combine t f.ty c) (f.sub == 1) none (rl.map fun r => (r, keyIn t f.ty (a e r).bits))) row 0, anyPoison (blockSize f) rl a⟩

/-- The order of VSORT and BSRCH as integers: signed, unsigned, or negative values, -0, +0, positive values, infinity, NaN (R156). -/
def sortKey (ty : VTy) (x : Word) : Int :=
  match ty with
  | .f32 =>
    let mag : Nat := x.toNat % 2 ^ 31
    if 0x7F800000 < mag then (2 ^ 33 : Nat) else if x.getLsbD 31 then -(mag : Int) - 1 else mag
  | .i32 => x.toInt
  | _ => x.toNat
/-- Key equality of MATCH (R155): integers bitwise, f32 with equal zeros and a NaN equal to nothing. -/
def keyEq (ty : VTy) (a b : Word) : Bool :=
  if ty == .f32 then (numOf fp32 a.toNat).rel (numOf fp32 b.toNat) == .eq else a == b
/-- Insert before the first entry whose key is not smaller. -/
def insertKey (x : Int × Nat × Word) : List (Int × Nat × Word) → List (Int × Nat × Word)
  | [] => [x]
  | y :: r => if y.1 < x.1 then y :: insertKey x r else x :: y :: r
/-- Stable sort by key. -/
def sortKeys (l : List (Int × Nat × Word)) : List (Int × Nat × Word) := l.foldr insertKey []

/-- VSORT's row: the key of its place and the row that held it (R156); FMT.ftz flushes what is compared, not what is written (R94). -/
def vsortRow (f : VForm) (t : Team) (rd : Nat → RowRegs) (rl : List Nat) (row : Nat) : List Word :=
  let key := fun r => ((rd r).headD Elem.zero).bits
  let rank := fun r => sortKey f.ty (keyIn t f.ty (key r))
  let sorted := sortKeys (rl.map fun r => ((if f.sub = 0 then rank r else -(rank r)), r, key r))
  match sorted[(rl.filter fun r => r < row).length]? with
  | some x => [x.2.2, BitVec.ofNat 32 x.2.1]
  | none => [0, 0]
/-- BSRCH's row: participating rows whose A key lies below the row's own key, or not above it (R157). -/
def bsrchRow (f : VForm) (t : Team) (rd : Nat → RowRegs) (rl : List Nat) (row : Nat) : List Word :=
  let own := keyIn t f.ty (if f.ib then f.imm else ((rd row).getD 1 Elem.zero).bits)
  let n := (rl.filter fun r =>
    let k := sortKey f.ty (keyIn t f.ty ((rd r).headD Elem.zero).bits)
    if f.sub = 0 then k < sortKey f.ty own else k ≤ sortKey f.ty own).length
  [BitVec.ofNat 32 n]
/-- MATCH's row (R155). -/
def matchRow (f : VForm) (t : Team) (rd : Nat → RowRegs) (rl : List Nat) (row : Nat) : List Word :=
  let key := fun r => keyIn t f.ty ((rd r).headD Elem.zero).bits
  [BitVec.ofNat 32 ((rl.find? fun r => r == row || keyEq f.ty (key r) (key row)).getD row)]

/-- Width of SPACK's elements by TY. -/
def spackWidth (ty : VTy) : Nat := if ty == .i8x4 then 8 else 16
/-- Magnitude rank of an element (R158); FMT.ftz flushes what is compared (R94). -/
def spackRank (ty : VTy) (ftz : Bool) (x : Nat) : Nat :=
  match ty with
  | .i8x4 => (intOf 8 true x).natAbs
  | .f16x2 => let y := flushBits fp16 ftz x % 2 ^ 15
              if 0x7C00 < y then 0x8000 else y
  | _ => let y := flushBits bf16 ftz x % 2 ^ 15
         if 0x7F80 < y then 0x8000 else y
/-- Elements of a group and how many are kept (R158). -/
def spackGroup (sub : BitVec 2) : Nat × Nat := if sub = 0 then (4, 2) else (8, 4)
/-- Bits of an index within its group. -/
def spackBits (sub : BitVec 2) : Nat := if sub = 0 then 2 else 3
/-- Indices kept in a group: the largest magnitudes, ties to the lower index, ascending (R158). -/
def spackKept (kept : Nat) (ranks : List Nat) : List Nat :=
  (List.range ranks.length).filter fun i =>
    decide (((List.range ranks.length).filter fun j =>
      ranks.getD i 0 < ranks.getD j 0 || (ranks.getD i 0 == ranks.getD j 0 && j < i)).length < kept)
/-- SPACK's row: four registers of kept values and two of index fields (R158). -/
def spackRow (f : VForm) (ftz : Bool) (regs : RowRegs) : List Word :=
  let w := spackWidth f.ty
  let (gn, kept) := spackGroup f.sub
  let b := spackBits f.sub
  let el := (List.range (256 / w)).map (runElemNat w (regs.map Elem.bits))
  let groups := List.range (256 / w / gn)
  let idx := groups.map fun g => spackKept kept (((el.drop (g * gn)).take gn).map (spackRank f.ty ftz))
  let vals := (groups.map fun g => (idx.getD g []).map fun i => el.getD (g * gn + i) 0).flatten
  let fields := (groups.map fun g => ((idx.getD g []).zipIdx.map fun x => x.1 * 2 ^ (b * x.2)).sum * 2 ^ (g * b * kept)).sum
  (List.range 4).map (runWord w vals) ++ [BitVec.ofNat 32 fields, BitVec.ofNat 32 (fields / 2 ^ 32)]
/-- The indices that a metadata field names. -/
def spexpIdx (sub : BitVec 2) (regs : RowRegs) (g : Nat) : List Nat :=
  let b := spackBits sub
  let kept := (spackGroup sub).2
  let fields := ((regs.getD 4 Elem.zero).bits.toNat + 2 ^ 32 * (regs.getD 5 Elem.zero).bits.toNat) / 2 ^ (g * b * kept)
  (List.range kept).map fun j => fields / 2 ^ (b * j) % 2 ^ b
/-- Groups of a TY and mode. -/
def spGroups (f : VForm) : List Nat := List.range (256 / spackWidth f.ty / (spackGroup f.sub).1)
/-- Rows with an index that does not rise (R159). -/
def spexpBad (f : VForm) (rd : Nat → RowRegs) (rl : List Nat) : List Nat :=
  rl.filter fun row => (spGroups f).any fun g => !rising (spexpIdx f.sub (rd row) g)
/-- SPEXP's row: eight registers, unnamed elements zero (R159). -/
def spexpRow (f : VForm) (regs : RowRegs) : List Word :=
  let w := spackWidth f.ty
  let (gn, kept) := spackGroup f.sub
  let kv := (regs.take 4).map Elem.bits
  let el := ((spGroups f).map fun g =>
    let idx := spexpIdx f.sub regs g
    (List.range gn).map fun i => match (List.range kept).find? (fun j => idx.getD j 99 == i) with
      | some j => runElemNat w kv (g * kept + j)
      | none => 0).flatten
  (List.range 8).map (runWord w el)

/-- Operands of a fixed-shape instruction: runs at D, A and B. -/
def fixedOk (nd na nb : Nat) (f : VForm) (t : Team) : Bool := vOperandsOk ⟨.run nd, .run na, if nb = 0 then .unused else .run nb, .unused⟩ false f t

/-! ## The meanings -/

/-- SHFL (R150). -/
def execShfl (f : VForm) (s : State) : Out :=
  issue (.shfl f) s f.stl (vOperandsOk usesDAB false f) (vSuppressed f) (crossBody f true (fun _ => 6) (shflRes f))
/-- VSTEP (R151). -/
def execVstep (f : VForm) (s : State) : Out :=
  issue (.vstep f) s f.stl (vOperandsOk usesDA false f) (vSuppressed f) fun s t => crossBody f false (fun _ => 16) (vstepRes f t) s t
/-- PFX (R152). -/
def execPfx (f : VForm) (s : State) : Out :=
  issue (.pfx f) s f.stl (vOperandsOk usesDA false f) (vSuppressed f) fun s t => crossBody f false (fun w => 8 + w) (pfxRes f t) s t
/-- The ballot word of a row's mask word (R153). -/
def ballotWord (t : Team) (f : VForm) (row : Nat) : Word := maskWord (t.part f.prd &&& t.prednum f.a.toNat &&& rowsBelow t.foot.rows) (row / 32)
/-- BALLOT (R153). -/
def execBallot (f : VForm) (s : State) : Out :=
  issue (.ballot f) s f.stl (vOperandsOk ⟨.run 1, .anyPred, .unused, .unused⟩ false f) (vSuppressed f) fun s t =>
    let p := planOf t [[]] false false
    let t' := writeCol p.team f.d.toNat (t.part f.prd) fun row => Elem.clean (ballotWord t f row)
    vFinish s (landed t' p [f.d.toNat] 4 false) f.stl p
/-- What VOTE answers (R154). -/
def voteOf (t : Team) (f : VForm) : Bool :=
  let rows := t.part f.prd &&& rowsBelow t.foot.rows
  let n := (rowList rows 1024).length
  let k := (rowList (rows &&& t.prednum f.a.toNat) 1024).length
  match f.sub.toNat with
  | 0 => decide (0 < k)
  | 1 => k == n
  | 2 => k == 0 || k == n
  | _ => k % 2 == 1
/-- VOTE (R154). -/
def execVote (f : VForm) (s : State) : Out :=
  issue (.vote f) s f.stl (vOperandsOk ⟨.teamPred, .anyPred, .unused, .unused⟩ false f) (vSuppressed f) fun s t =>
    let p := planOf t [[]] false false
    vFinish s (p.team.qset (f.d.toNat - 8) (voteOf t f)) f.stl p
/-- MATCH (R155). -/
def execMatchRows (f : VForm) (s : State) : Out :=
  issue (.matchRows f) s f.stl (fixedOk 1 1 0 f) (vSuppressed f) fun s t =>
    fixedBody f [f.a.toNat] [f.d.toNat] (fun w => 8 + 2 * w) false false noneBad 0 (fun rd rl _ row => matchRow f t rd rl row) s t
/-- SPACK (R158). -/
def execSpack (f : VForm) (s : State) : Out :=
  issue (.spack f) s f.stl (fixedOk 6 8 0 f) (vSuppressed f) fun s t =>
    fixedBody f (runRegs f.a.toNat 8) (runRegs f.d.toNat 6) (fun _ => 8) false (narrows t (spackWidth f.ty)) noneBad 0
      (fun rd _ _ row => spackRow f (fmtFtz t) (rd row)) s t
/-- SPEXP (R159). -/
def execSpexp (f : VForm) (s : State) : Out :=
  issue (.spexp f) s f.stl (fixedOk 8 6 0 f) (vSuppressed f) fun s t =>
    fixedBody f (runRegs f.a.toNat 6) (runRegs f.d.toNat 8) (fun _ => 8) false (narrows t (spackWidth f.ty)) (spexpBad f) 0x18
      (fun rd _ _ row => spexpRow f (rd row)) s t
/-- VSORT (R156). -/
def execVsort (f : VForm) (s : State) : Out :=
  issue (.vsort f) s f.stl (fixedOk 2 1 0 f) (vSuppressed f) fun s t =>
    fixedBody f [f.a.toNat] [f.d.toNat, f.d.toNat + 1] (fun w => 16 + 8 * w) false false noneBad 0 (fun rd rl _ row => vsortRow f t rd rl row) s t
/-- BSRCH (R157). -/
def execBsrch (f : VForm) (s : State) : Out :=
  issue (.bsrch f) s f.stl (fixedOk 1 1 1 f) (vSuppressed f) fun s t =>
    fixedBody f (f.a.toNat :: if f.ib then [] else [f.b.toNat]) [f.d.toNat] (fun w => 8 + 2 * w) false false noneBad 0
      (fun rd rl _ row => bsrchRow f t rd rl row) s t

end Sys2Proof.Machine
end

