-- ==== Sys2Proof/Machine/Fetch.lean ====
section
/-! DEFINITION. What a team's next instruction is: its line, the slot, the region entry (R31-R36, R197), and the team and line that withFetchWord stands for. -/

namespace Sys2Proof.Machine

/-- Whether only half 1 of a paired word is no legal half (R190). -/
def onlyHalf1Bad (w : Slot) : Bool :=
  let ok := fun h => match decodeHalf h with
    | .error _ => false
    | .ok x => (checkHalf x).isNone
  ok (w.extractLsb' 48 48) && !ok (w.extractLsb' 0 48)

/-- What stands at a team's pc: an instruction with its line, or the fault that fetching or decoding it gives, with its address and half. -/
inductive Fetched where
  | instr (i : Instr) (line : BitVec 512)
  | bad (code : Nat) (addr : Option DWord) (half : Bool)
  deriving DecidableEq, Repr

/-- The instruction in the slot of a line at which a team stands (R33, R40). -/
def slotOf (t : Team) (b : BitVec 512) : Fetched :=
  let w := lineWord b
  if lineMalformed w || 4 < t.flow.pc.slot then .bad 0x01 none false
  else
    let pt := w.getLsbD (5 + t.flow.pc.slot)
    match decodeSlot pt (lineSlot b t.flow.pc.slot) with
    | .ok i => .instr i b
    | .error _ => .bad 0x01 none (pt && onlyHalf1Bad (lineSlot b t.flow.pc.slot))
/-- Fetch the instruction at a team's pc (R35, R40). -/
def fetchInstr (s : State) (t : Team) : Fetched :=
  match teamLine s t with
  | .error c => .bad c (if c == 0x04 then none else some t.flow.pc.line) false
  | .ok b => slotOf t b
/-- A fetch that ends in a translation, permission or ownership fault has walked the tables (R320); one that waits to enter its handler walks when it does (R130). -/
def fetchWalk (s : State) (t : Team) (a : Option DWord) : State :=
  if a.isSome && !trapStalls s t then tlbFill s t.agent t.flow.pc.line.toNat else s
/-- Entering a region: a slot whose RE bit is set counts once each time it is reached (R197). DESIGN CHOICE, log 105: reached before the slot's own holds are looked at, and once more when HRET comes back to a slot at which the team was held. -/
def regionEntry (t : Team) (b : BitVec 512) : Team :=
  if t.flow.entered || !(lineWord b).getLsbD (10 + t.flow.pc.slot) then { t with flow := { t.flow with entered := true } }
  else { t with flow := { t.flow with entered := true },
                region := { t.region with hrgn := t.region.hrgn + 1, regpc := t.flow.pc.bits, valid := true, rs := t.rsDepth, cs := t.csDepth } }
/-- The team holds the line of its pc, good or bad. -/
def lineHeld (t : Team) : Bool := t.line.any fun l => l.addr == t.flow.pc.line && l.did == t.flow.did
/-- The team keeps the line it fetched (R35): its bytes, where they came from, and whether they failed their parity check twice. -/
def keepLine (t : Team) (b : BitVec 512) (pa : Option Nat) (bad : Bool) : Team := { t with line := some ⟨t.flow.pc.line, t.flow.did, b, pa, bad⟩ }
/-- The team as it executes from a line: the one it holds, or the one just read. -/
def onLine (t : Team) (b : BitVec 512) : Team := if lineHeld t then t else keepLine t b none false
/-- The state in which the fetched instruction executes. -/
def atInstr (s : State) (t : Team) (b : BitVec 512) : State := s.putTeam (regionEntry (onLine t b) b)
/-- The instruction has executed: no team is selected any more. -/
def unselect (o : Out) : Out := match o with
  | .next s => .next { s with focus := none }
  | .fault f => .fault f
  | .refused r => .refused r

/-- A line word and slots with PAR set so that the line's parity is even (R34). -/
def withParity (b : BitVec 512) : BitVec 512 :=
  let b0 := b &&& ~~~((0xFF#512) <<< (24 : Nat))
  b0 ||| (((List.range 64).foldl (fun x i => x ^^^ lineByte b0 i) (0 : Byte)).setWidth 512 <<< (24 : Nat))
/-- A line that holds one slot at place i and zeros elsewhere, its BT bit set. -/
def lineHolding (i : Nat) (w : Slot) : BitVec 512 :=
  withParity (((1#512) <<< i) ||| ((w.setWidth 512) <<< (32 + 96 * i)))
/-- The identity of the team that withFetchWord uses when none is selected. -/
def hostTeamId : Nat := 0
/-- A team of one row with every register, in a launch and plot of its own: what placement gives (R28, R70, R273). -/
def hostTeam (ac : Nat) : Team :=
  { newTeam hostTeamId ⟨0, 0, 0, 0, 0, 0, 0⟩ ⟨1, 32, 256, 1024, 0x10000⟩ ⟨0x10000, 0, 0, 0, 0, false, 1, 0⟩ ac [] with grans := [List.range 32] }
/-- The bed of that plot. -/
def hostBed : Bed := ⟨0, Scratch.empty, [0, 1], [], 0xFFFF, 0, 1, []⟩
/-- That plot. -/
def hostPlot (ac : Nat) : Plot :=
  { uid := 0, launch := 0, index := 0, cluster := 0, scratch := 0x10000, beds := [hostBed],
    points := List.replicate 24 ⟨true, 0, [], 0, 0, false, []⟩, stages := [], moves := 0, run := 0, runFrom := some ac, evalAt := 0, st := .resident,
    quiesced := false, haltAt := 0, banks := [] }
/-- Its launch. -/
def hostLaunch : Launch :=
  { uid := 0, origin := .queue 0, dom := 1, priv := false, nest := 0,
    pkt := ⟨0x10000, 0, 1, 256, 1024, 0x10000, 1, 1, 0, 1, 0xFFFF, false, 0, 0, 0⟩, addr := ⟨0, 0, 0, 0⟩, next := 1, wait := false, ended := 0,
    fcode := 0, fhflt := 0, fpc := 0, pending := 0, code := 0, spawned := [], tokens := [], again := [] }
/-- The state with a team selected: the one that is, or the team of withFetchWord. -/
def withSelected (s : State) : State × Team :=
  match s.focus.bind s.team? with
  | some t => (s, t)
  | none =>
    let t := hostTeam s.clock.ac
    ({ s with teams := t :: s.teams.filter (fun u => u.tid != hostTeamId), focus := some hostTeamId,
              gov := { s.gov with plots := hostPlot s.clock.ac :: s.gov.plots.filter (fun p => p.uid != 0),
                                  launches := hostLaunch :: s.gov.launches.filter (fun l => l.uid != 0) } }, t)

end Sys2Proof.Machine
end

