-- ==== Sys2Proof/Machine/Save.lean ====
section
/-! DEFINITION. Save areas (R256, R257, R317-R319): parts with a header and opaque bytes, the emergency slot, and the check at restore. -/

namespace Sys2Proof.Machine

/-- Cut bytes at a physical address into pieces that lie in one line each, and write them at the home. -/
def writeLines : Nat → State → Nat → Option Nat → Nat → List Byte → State
  | 0, s, _, _, _, _ => s
  | fuel + 1, s, dom, own, pa, bs =>
    if bs.isEmpty then s
    else let n := 128 - pa % 128
         writeLines fuel (homeWrite s dom own pa (bs.take n) false) dom own (pa + n) (bs.drop n)
/-- Write bytes at the home, line by line. -/
def homeWriteAll (s : State) (dom : Nat) (own : Option Nat) (pa : Nat) (bs : List Byte) : State := writeLines (bs.length + 1) s dom own pa bs
/-- The physical base of a core slot's save area (R299). -/
def coreSaveBase (w : List Word) : Nat := ((w.getD 7 0).extractLsb' 0 20).toNat * 2 ^ 32 + ((w.getD 6 0).extractLsb' 22 10).toNat * 2 ^ 22
/-- The bytes of a saved part: version, size, check word and opaque body (R257, R317). -/
def partBytes (size seed : Nat) : List Byte :=
  natBytes 4 1 ++ natBytes 4 size ++ (List.range (size - 8)).map fun i => Config.saveByte seed i
/-- Every page of a save area may be written from a die: the domain owns it, it lies in the die's estate, and it takes writes (R317, R318, R364). -/
def areaOwned (s : State) (dom die pa n : Nat) : Bool :=
  (unitsOf 65536 pa n).all fun p => owns s dom die (p * 65536) && !isAperture (p * 65536) && !s.badPages.contains p
/-- Write a part of a context of a domain; a write that faults, for any reason, goes to the emergency slot, which lies outside the stacks (R317, R318): the state, and whether it did. -/
def savePart (s : State) (dom die pa size seed : Nat) : State × Bool :=
  if areaOwned s dom die pa size then (homeWriteAll s 0 none pa (partBytes size seed), false) else (s, true)
/-- Whether a part still passes its check at restore (R319). -/
def partIntact (s : State) (pa size seed : Nat) (emerg : Bool) : Bool := emerg || s.mem.read pa size == partBytes size seed
/-- The save base of the slot of a core that names a domain. -/
def saveBaseOf (s : State) (core dom : Nat) : Nat := match coreSlot s core dom with
  | some w => coreSaveBase w
  | none => 0

end Sys2Proof.Machine
end

