-- ==== Sys2Proof/Machine/Launch.lean ====
section
/-! DEFINITION. Launch packets (R270, R271), the accesses that the device makes outside a core (R302, R357), and the fit of plots in clusters (R11, R70, R203, R273, R298). -/

namespace Sys2Proof.Machine

/-! ## Packets -/

/-- Word i of a packet. -/
def pWd (w : List Word) (i : Nat) : Nat := (w.getD i 0).toNat
/-- A footprint word: rows, vector and scalar registers (R270). -/
def footOf (x : Nat) : Nat × Nat × Nat := (x % 2048, 8 * (x / 2048 % 32 + 1), 8 * (x / 65536 % 128 + 1))
/-- Rows allocated in groups of 32 (R70). -/
def allocRows (rows : Nat) : Nat := (rows + 31) / 32 * 32
/-- A footprint and scratchpad that R271 finds malformed for a number of teams per bed. -/
def shapeBad (foot scratch tpb : Nat) : Bool :=
  let rows := foot % 2048
  foot / 2 ^ 23 != 0 || rows == 0 || decide (1024 < rows) || scratch % 128 != 0 || decide (0x300000 < scratch) || decide (8192 < allocRows rows * tpb)
/-- A malformed packet (R271): device tells a spawned or time-triggered launch, which may hold no capability. -/
def packetBad (w : List Word) (device : Bool) : Bool :=
  let beds := pWd w 4 / 64 % 4 + 1
  let tpb := pWd w 4 % 64 + 1
  let prod := pWd w 5
  let plots := pWd w 6 + 2 ^ 32 * pWd w 7
  let dep := pWd w 10
  let n := pWd w 11
  [ pWd w 0 % 64 != 0, pWd w 1 / 2 ^ 23 != 0, shapeBad (pWd w 2) (pWd w 3) tpb, pWd w 4 / 256 != 0, prod / 2 ^ (8 * beds) != 0,
    (List.range beds).any (fun b => prod / 2 ^ (8 * b + 6) % 4 != 0 || decide (tpb ≤ prod / 2 ^ (8 * b) % 64)), decide (128 < beds * tpb),
    plots == 0, decide (2 ^ 48 ≤ plots), pWd w 8 / 131072 != 0, dep / 65536 != 0, dep / 16384 % 2 != 0, dep / 64 % 2 != 0, n / 16 != 0,
    decide (8 < n), decide (beds * tpb < n), pWd w 12 % 64 != 0, pWd w 14 % 32 != 0, device && (pWd w 16 != 0 || pWd w 17 != 0),
    (w.drop 20).any (· != 0) ].any id
/-- The packet's fields (R270). -/
def packetOf (w : List Word) : Packet :=
  let f := footOf (pWd w 2)
  { entry := (w.getD 1 0) ++ (w.getD 0 0), entrySlot := 0, rows := f.1, vregs := f.2.1, sregs := f.2.2, scratch := pWd w 3,
    beds := pWd w 4 / 64 % 4 + 1, tpb := pWd w 4 % 64 + 1, prod := w.getD 5 0, plots := pWd w 6 + 2 ^ 32 * pWd w 7,
    chan := (w.getD 8 0).extractLsb' 0 16, idem := (w.getD 8 0).getLsbD 16, work := pWd w 9, dep := w.getD 10 0, nstage := pWd w 11 % 16 }
/-- The packet's addresses (R270). -/
def packetAddrOf (w : List Word) : PacketAddr :=
  let x := fun i => (w.getD (i + 1) 0) ++ (w.getD i 0)
  ⟨x 12, x 14, x 16, x 18⟩
/-- Bytes as words, least significant first (R4). -/
def bytesWords : Nat → List Byte → List Word
  | 0, _ => []
  | n + 1, bs => BitVec.ofNat 32 (bytesNat (bs.take 4)) :: bytesWords n (bs.drop 4)
/-- Words as bytes. -/
def wordsBytes (w : List Word) : List Byte := w.flatMap fun x => natBytes 4 x.toNat
/-- A launch that has just been taken: nothing placed (R270). -/
def newLaunch (uid : Nat) (o : Origin) (dom nest : Nat) (priv : Bool) (w : List Word) : Launch :=
  { uid := uid, origin := o, dom := dom, priv := priv, nest := nest, pkt := packetOf w, addr := packetAddrOf w, next := 0, wait := (w.getD 10 0).getLsbD 7,
    ended := 0, fcode := 0, fhflt := 0, fpc := 0, pending := 0, code := 0, spawned := [], tokens := [], again := [] }
/-- A launch that places nothing and completes with a code. -/
def Launch.failed (l : Launch) (code : Nat) : Launch := { l with code := code, next := l.pkt.plots, wait := false }
/-- Add a launch. -/
def State.addLaunch (s : State) (l : Launch) : State := s.modGov fun g => { g with launches := g.launches ++ [l] }
/-- Remove a launch. -/
def State.dropLaunch (s : State) (uid : Nat) : State := s.modGov fun g => { g with launches := g.launches.filter fun l => l.uid != uid }

/-! ## Accesses of the device outside a core -/

/-- A die of a domain's estate: that of its first core slot, else that of its page tables (R364). -/
def domainDie (s : State) (dom : Nat) : Nat :=
  match (List.range Config.cores).find? fun c => (slotIndex (s.core c) dom).isSome with
  | some c => dieOf c
  | none => dieOfPa (s.domain dom).root
/-- Translate and check an address of a domain for an agent that is no core (R174, R357): physical address and policy, or the fault code. -/
def domTranslate (s : State) (dom : Nat) (priv : Bool) (acc : Acc) (va : Nat) : Except Nat (Nat × Nat) :=
  if 2 ^ 55 ≤ va then .error 0x08 else
  match walk s dom (domainDie s dom) va with
  | .error c => .error c
  | .ok r =>
    if !leafAllows r acc priv then .error 0x09
    else if !owns s dom (domainDie s dom) (leafPa r va) then .error 0x0A
    else .ok (leafPa r va, leafPol r)
/-- A translation of addresses. -/
abbrev Trans := Nat → Except Nat (Nat × Nat)
/-- Pieces of a range that lie in one 32-byte sector each: address and length. -/
def sectorPieces (a n : Nat) : List (Nat × Nat) :=
  (unitsOf 32 a n).map fun u => (max a (u * 32), min (a + n) (u * 32 + 32) - max a (u * 32))
/-- The first piece that fails: its fault code and its offset. -/
def firstFail (tr : Trans) (a n : Nat) : Option (Nat × Nat) :=
  (sectorPieces a n).findSome? fun p => match tr p.1 with
    | .error c => some (c, p.1 - a)
    | .ok _ => none
/-- Read a range at the home: bytes and poison, or the fault code; the free values of an aperture page are those from number 16 k on. -/
def readVaFrom (s : State) (tr : Trans) (a n k : Nat) : Except Nat (List Byte × Bool) :=
  match firstFail tr a n with
  | some (c, _) => .error c
  | none =>
    let parts := (sectorPieces a n).zipIdx.map fun p => match tr p.1.1 with
      | .ok (pa, _) => (homeRead s pa p.1.2 (k + 2 * p.2), homePois s pa p.1.2)
      | .error _ => ([], false)
    .ok (parts.flatMap (·.1), parts.any (·.2))
/-- Read a range at the home. -/
def readVa (s : State) (tr : Trans) (a n : Nat) : Except Nat (List Byte × Bool) := readVaFrom s tr a n 0
/-- The device reads n bytes of a domain at an address, as far as they can be read: requests go out for aperture pages and HBYTES counts the rest (R320, R355). -/
def readsVa (s : State) (dom : Nat) (tr : Trans) (a n : Nat) : State :=
  (sectorPieces a n).foldl (fun s p => match tr p.1 with
    | .ok (pa, _) => if isAperture pa then readOut s dom pa p.2 else s.meter dom 3 p.2
    | .error _ => s) s
/-- The walks that an agent outside the cores makes for n bytes at an address, one for each page, read page-table entries (R173, R320). DESIGN CHOICE, log 98: such an agent keeps no translation. -/
def devWalks (s : State) (dom a n : Nat) : State :=
  (unitsOf 65536 a n).foldl (fun s p => walkReads s dom (domainDie s dom) (p * 65536)) s
/-- An agent outside the cores reads n bytes of a domain at an address: its walks, and its reads of stacks or of the bus (R320, R355). -/
def devReads (s : State) (dom : Nat) (tr : Trans) (a n : Nat) : State := readsVa (devWalks s dom a n) dom tr a n
/-- Write a range at the home piece by piece, each with its own poison, up to the first that fails; an aperture write is posted. -/
def writeVa (s : State) (dom : Nat) (tr : Trans) (a : Nat) (bs : List Byte) (pois : Nat → Nat → Bool) : State × Option (Nat × Nat) :=
  let bad := firstFail tr a bs.length
  let stop := match bad with
    | some (_, o) => o
    | none => bs.length
  ((sectorPieces a bs.length).foldl (fun s p =>
    if p.1 - a < stop then match tr p.1 with
      | .ok (pa, _) => homeWrite s dom none pa ((bs.drop (p.1 - a)).take p.2) (pois (p.1 - a) p.2)
      | .error _ => s
    else s) s, bad)
/-- An agent outside the cores writes a range: its walks, then the write. -/
def devWrite (s : State) (dom : Nat) (tr : Trans) (a : Nat) (bs : List Byte) (pois : Nat → Nat → Bool) : State × Option (Nat × Nat) :=
  writeVa (devWalks s dom a bs.length) dom tr a bs pois
/-- Write clean bytes. -/
def writeClean (s : State) (dom : Nat) (tr : Trans) (a : Nat) (bs : List Byte) : State × Option (Nat × Nat) := writeVa s dom tr a bs fun _ _ => false

/-! ## Fit -/

/-- Banks that a bed of a number of teams takes (R162). -/
def bedBankCount (p : Packet) (teams : Nat) : Nat := (teams * p.scratch + 32767) / 32768
/-- Channels that beds on a core hold (R203). -/
def heldChans (s : State) (core : Nat) : BitVec 16 := (bedsOn s core).foldl (fun m b => m ||| b.chans) 0
/-- Granules that the vector part of a team takes (R70). -/
def vecGrans (p : Packet) : Nat := allocRows p.rows / 32 * (p.vregs / 8)
/-- How many teams of a packet a quadrant still takes (R70, R298). -/
def quadCap (s : State) (core quad : Nat) (w : List Word) (p : Packet) (more : Nat) : Nat :=
  let ts := quadTeams s core quad
  let vg := vecGrans p
  min (min (16 - ts.length) ((2048 - (ts.map fun t => t.foot.alloc).sum) / max 1 (allocRows p.rows)))
    (min (scalRoom s core quad / max 1 p.sregs) (granRoom s core quad w more / max 1 vg))
/-- Whether the slot may place teams: valid, not being recalled, and in its slice when sliced (R11, R312, R315). -/
def slotPlaces (w : List Word) : Bool := slotValid w && (slotState w == 0 || slotState w == 1)
/-- A recall that runs on a core takes resources back from a domain: the slot that borrowed them (R315). -/
def lending (s : State) (core dom : Nat) : Bool :=
  (s.core core).slice.recalling.any fun r => slotDomain ((s.core core).slots.getD r.1 []) == dom
/-- Whether teams of a domain may be placed or go on through its slot of a core: none does that gives back what it borrowed, until the recall has ended (R315). -/
def slotOpen (s : State) (core dom : Nat) (w : List Word) : Bool := slotPlaces w && !lending s core dom
/-- Whether a bed of a number of teams of a domain fits a core (R11, R70, R203). -/
def bedFits (s : State) (core dom : Nat) (p : Packet) (teams : Nat) : Bool :=
  match coreSlot s core dom with
  | none => false
  | some w =>
    let more := bedBankCount p teams
    slotOpen s core dom w && (p.chan &&& slotChans w &&& heldChans s core) == 0
      && decide (more ≤ ((List.range 96).filter fun b => slotBank w b && !((bedsOn s core).any fun x => x.held.contains b)).length)
      && carveKept s core more && decide (((List.range 4).map fun q => quadCap s core q w p more).sum ≥ teams)
/-- A team that is halted, in place or for a save (R133, R313). -/
def teamHalted (t : Team) : Bool := t.sched.status != .running && t.sched.status != .exited
/-- The domain of a plot. -/
def plotDom (s : State) (p : Plot) : Nat := match s.launch? p.launch with
  | some l => l.dom
  | none => 0
/-- A halted team of another domain on a core: a placement of a domain may claim what holds its state (R314). -/
def teamClaimable (core dom : Nat) (t : Team) : Bool := t.place.core == core && t.stamp.home != dom && teamHalted t
/-- A bed of another domain whose teams are all halted or have ended, one of them at least halted (R314). -/
def bedClaimable (s : State) (core dom : Nat) (p : Plot) (i : Nat) (b : Bed) : Bool :=
  let ts := s.teams.filter fun t => t.place.plot == p.uid && t.place.bed == i
  b.core == core && plotDom s p != dom && ts.any teamHalted && ts.all fun t => t.sched.status != .running
/-- What a placement may claim of a halted team's state (R314): a 32-row group of its vector registers, the rest of the team, a bank of a bed, or a channel of a bed. -/
inductive Claim where
  | regs (plot tid group : Nat) | rest (plot tid : Nat) | bank (plot bed n : Nat) | chan (plot bed c : Nat)
  deriving DecidableEq, Repr
/-- A saved part as a view of the state counts it. -/
def viewPart (plot tid kind group : Nat) : SavedPart := ⟨plot, some tid, kind, group, 0, 0, 0, false⟩
/-- A bed without one of its banks, which is saved. -/
def bankGone (n : Nat) (b : Bed) : Bed :=
  let out := fun (k : Nat) => if k = n then bankSaved else k
  { b with banks := b.banks.map out, ext := b.ext.map out }
/-- A bed without one of its channels. -/
def chanGone (c : Nat) (b : Bed) : Bed := { b with chans := b.chans &&& ~~~((1#16) <<< c) }
/-- The state as it would be once a claimed part were saved. -/
def viewClaim (s : State) (c : Claim) : State := match c with
  | .regs p t k => s.modGov fun g => { g with saved := viewPart p t 0 k :: g.saved }
  | .rest p t => s.modGov fun g => { g with saved := viewPart p t 1 0 :: g.saved }
  | .bank p i n => s.modBed p i (bankGone n)
  | .chan p i c => s.modBed p i (chanGone c)
/-- What may be claimed of a bed: its banks and its channels, one by one (R314). -/
def bedClaims (plot i : Nat) (b : Bed) : List Claim :=
  (b.held.map fun n => Claim.bank plot i n) ++ ((List.range 16).filter fun c => b.chans.getLsbD c).map fun c => Claim.chan plot i c
/-- Everything on a core that a placement of a domain may claim (R314). -/
def claimsOn (s : State) (core dom : Nat) : List Claim :=
  ((s.teams.filter (teamClaimable core dom)).flatMap fun t =>
    ((s.groupsIn t).map fun g => Claim.regs t.place.plot t.tid g) ++ if s.partOut t.tid 1 then [] else [Claim.rest t.place.plot t.tid])
  ++ s.gov.plots.flatMap fun p => (p.beds.zipIdx.filter fun b => bedClaimable s core dom p b.2 b.1).flatMap fun b => bedClaims p.uid b.2 b.1
/-- The core as it would be once everything that a placement of a domain may claim were saved (R314). -/
def claimView (s : State) (core dom : Nat) : State := (claimsOn s core dom).foldl viewClaim s
/-- The claims of which none can be spared if something is to fit, given that it fits when all are taken (R314). -/
def neededClaims (s : State) (core dom : Nat) (fits : State → Bool) : List Claim :=
  (claimsOn s core dom).foldl (fun keep c => let k := keep.filter (· != c)
                                             if fits (k.foldl viewClaim s) then k else keep) (claimsOn s core dom)
/-- Teams in each bed of plot number k of a launch: all full, but for the last plot of a JOIN's children (R340). -/
def plotTeams (l : Launch) (k : Nat) : List Nat := match l.origin with
  | .join _ _ =>
    let per := l.pkt.rows * l.pkt.tpb
    [min l.pkt.tpb ((l.spawned.length - k * per + l.pkt.rows - 1) / max 1 l.pkt.rows)]
  | _ => List.replicate l.pkt.beds l.pkt.tpb
/-- Rows of a team of a launch: ROWS, or those that a JOIN or a tile delivers (R340, R346). -/
def teamRowsOf (l : Launch) (k teamix : Nat) : Nat := match l.origin with
  | .join _ _ => min l.pkt.rows (l.spawned.length - (k * l.pkt.tpb + teamix) * l.pkt.rows)
  | .tile _ => l.spawned.length
  | _ => l.pkt.rows
/-- Cores of a cluster. -/
def coresOf (cluster : Nat) : List Nat := (List.range 4).map (4 * cluster + ·)
/-- Plots resident in a cluster (R273). -/
def residentPlots (s : State) (cluster : Nat) : List Plot := s.gov.plots.filter fun p => p.cluster == cluster && p.st != .saved && p.st != .done
/-- Rows placed in a cluster (R273). -/
def placedRows (s : State) (cluster : Nat) : Nat :=
  ((s.teams.filter fun t => clusterOf t.place.core == cluster && ((s.plot? t.place.plot).any fun p => p.st != .saved)).map fun t => t.foot.alloc).sum
/-- Whether beds of so many teams fit distinct cores of a cluster with a free set of points: beds are alike, so counting suffices; what halted teams of other domains hold may be claimed (R273, R314). -/
def clusterFits (s : State) (cluster dom : Nat) (p : Packet) (teams : List Nat) : Bool :=
  decide ((residentPlots s cluster).length < 32)
    && decide (teams.length ≤ ((coresOf cluster).filter fun c => bedFits (claimView s c dom) c dom p (teams.foldl max 0)).length)
/-- Where plots of a launch prefer to go: nearer groups first (R274, R346). -/
def nearness (l : Launch) (cluster : Nat) : Nat := match l.origin with
  | .spawn c => if cluster = c then 0 else if cluster / 8 = c / 8 then 1 else 2
  | .join c _ => if cluster = c then 0 else if cluster / 8 = c / 8 then 1 else 2
  | .tile d => if cluster / 16 = d then 0 else 1
  | _ => 0
/-- The better of two clusters: nearer, fewer placed rows, lower index (R273, R274). -/
def betterCluster (s : State) (l : Launch) (a b : Nat) : Bool :=
  let ka := (nearness l a, placedRows s a)
  let kb := (nearness l b, placedRows s b)
  decide (ka.1 < kb.1) || (ka.1 == kb.1 && (decide (ka.2 < kb.2) || (ka.2 == kb.2 && decide (a < b))))
/-- The clusters of the domain's estate. -/
def estateClusters (s : State) (dom : Nat) : List Nat := (List.range Config.clusters).filter fun c => sameEstate s (domainDie s dom) (c / 16)
/-- The cluster that the next plot of a launch goes to, if it fits one now (R273, R274). -/
def chooseCluster (s : State) (l : Launch) (teams : List Nat) : Option Nat :=
  ((estateClusters s l.dom).filter fun c => clusterFits s c l.dom l.pkt teams).foldl (fun b c => match b with
    | none => some c
    | some x => if betterCluster s l c x then some c else some x) none
/-- The state with no team, no plot and no recall that runs, which tells what a partition could ever hold. -/
def emptied (s : State) : State :=
  { s with teams := [], gov := { s.gov with plots := [], saved := [] }, cores := s.cores.map fun c => { c with slice := { c.slice with recalling := [] } } }
/-- A slot as it may place some time: its STATE is passed over. -/
def anyState (s : State) : State :=
  { s with cores := s.cores.map fun c => { c with slots := c.slots.map fun w => w.set 10 0 } }
/-- Whether some cluster of the estate could ever hold a plot of the launch under the domain's partition (R271 status 3). -/
def everFits (s : State) (l : Launch) : Bool := (chooseCluster (anyState (emptied s)) l (plotTeams l 0)).isSome
/-- As everFits, for a JOIN's child launch of a number of rows. -/
def everFitsRows (s : State) (l : Launch) (rows : Nat) : Bool :=
  (chooseCluster (anyState (emptied s)) l [min l.pkt.tpb ((rows + l.pkt.rows - 1) / max 1 l.pkt.rows)]).isSome

end Sys2Proof.Machine
end

