-- ==== Sys2Proof/Machine/Graft.lean ====
section
/-! DEFINITION. The graft unit (R325-R352): keys, records and checks, arrival, GROUP and JOIN instances, application, the spill ring, expert routing and its tiles, COMBN and GSTAT. -/

namespace Sys2Proof.Machine

/-! ## Keys and records -/

/-- KTY of MOD8 (R327). -/
def graftKty (m : Byte) : Nat := (m.extractLsb' 3 3).toNat
/-- SCOPE of MOD8 (R327). -/
def graftScope (m : Byte) : Nat := (m.extractLsb' 0 3).toNat
/-- A 64-bit key (R327). -/
def keyWide (m : Byte) : Bool := graftKty m == 3 || graftKty m == 4
/-- The key registers of an instruction. -/
def keyRegs (vop : Nat) (m : Byte) : List Nat := if keyWide m then [vop, vop + 1] else [vop]
/-- Bits of FP32 as a number in the order of values: both zeros are equal (R326). -/
def f32Key (x : Word) : Int := let m := (x.toNat % 2 ^ 31 : Nat)
                              if x.getLsbD 31 then -(m : Int) else m
/-- A NaN of FP32. -/
def f32Nan (x : Word) : Bool := decide (0x7F800000 < x.toNat % 2 ^ 31)
/-- Whether two keys are equal (R326). -/
def graftKeyEq (kty : Nat) (a b : List Elem) : Bool :=
  if kty = 2 then match a, b with
    | x :: _, y :: _ => !f32Nan x.bits && !f32Nan y.bits && f32Key x.bits == f32Key y.bits
    | _, _ => false
  else a.map (·.bits) == b.map (·.bits)
/-- The launch-relative identifier of a row (R12). -/
def rowIdent (t : Team) (row : Nat) : Nat := ((t.stamp.plotix.toNat * 128 + t.place.teamix) * 1024 + row) % 2 ^ 64
/-- A pair of a record. -/
def gPair (w : List Word) (i : Nat) : DWord := (w.getD (i + 1) 0) ++ (w.getD i 0)

/-- Record rules of GROUP (R334). -/
def groupBad (t : Team) (vop : Nat) (m : Byte) (w : List Word) : Bool :=
  let n := gWd w 0 % 32
  let cols := groupCols w
  let regs := cols.flatMap colRegs
  [ gWd w 0 / 32 != 0, decide (16 < n), (List.range 5).any (fun i => gWd w (3 + i) != 0),
    (List.range 16).any (fun c => let e := gWd w (8 + c / 2) / 65536 ^ (c % 2) % 65536
                                  if c < n then e / 16 % 16 != 0 || e % 16 == 15 else e != 0),
    regs.any (fun r => !vregOk t r), cols.any (fun c => c.2 == 1 && c.1 % 2 != 0), regs.eraseDups.length != regs.length,
    regs.any (keyRegs vop m).contains ].any id

/-- CA of a JOIN record (R337). -/
def jCa (w : List Word) : Nat := gWd w 0 % 32
/-- CB. -/
def jCb (w : List Word) : Nat := gWd w 0 / 256 % 32
/-- RA. -/
def jRa (w : List Word) : Nat := gWd w 1 % 256
/-- RB. -/
def jRb (w : List Word) : Nat := gWd w 1 / 256 % 256
/-- I of R339. -/
def jBase (m : Byte) (w : List Word) : Nat := ((if keyWide m then 2 else 1) + jCa w + jCb w + 1) / 2 * 2
/-- Teams of a child plot. -/
def jTeams (w : List Word) : Nat := gWd w 6 % 64 + 1
/-- Record rules of JOIN (R337). -/
def joinBad (t : Team) (m : Byte) (w : List Word) : Bool :=
  [ gWd w 0 / 2 ^ 19 != 0, gWd w 0 / 2 ^ 13 % 8 != 0, gWd w 0 / 32 % 8 != 0, decide (16 < jCa w), decide (16 < jCb w), gWd w 1 / 2 ^ 24 != 0,
    decide (t.foot.vregs < jRa w + jCa w), decide (t.foot.vregs < jRb w + jCb w), jMcnt w != 255 && !vregOk t (jMcnt w),
    decide (4 < gWd w 4 / 32 % 8), gWd w 4 % 32 != 0, gWd w 6 / 64 != 0, decide (32768 < gWd w 11),
    shapeBad (gWd w 5) (gWd w 7) (jTeams w), decide ((footOf (gWd w 5)).2.1 < jBase m w + 4) ].any id
/-- Alignment of RING, CREC and CARG (R337). -/
def joinAlignBad (w : List Word) : Bool := gWd w 8 % 16 != 0 || gWd w 12 % 32 != 0 || gWd w 14 % 64 != 0
/-- STAGE and STAGESZ of a record (R334, R337). -/
def stageOf (kind : Nat) (w : List Word) : Nat × Nat := if kind = 0 then (gWd w 1, gWd w 2) else (gWd w 2, gWd w 3)
/-- The staging range breaks its alignment or leaves the domain's banks in plot-scratchpad mode (R331). -/
def stageBad (s : State) (t : Team) (st : Nat × Nat) : Bool :=
  st.1 % 128 != 0 || st.2 % 128 != 0 || decide (st.1 < 0x400000) || decide (0xC00000 < st.1 + max 1 st.2)
    || !banksOk (s.cluster (clusterOf t.place.core)) t.flow.did .plot (st.1 - 0x400000) (max 1 st.2)
/-- Column registers that a row deposits: all columns of a GROUP, the run of its role of a JOIN (R331). -/
def depositRegs (kind : Nat) (w : List Word) (roleB : Bool) : List Nat :=
  if kind = 0 then (groupCols w).flatMap colRegs
  else if roleB then (List.range (jCb w)).map (jRb w + ·) else (List.range (jCa w)).map (jRa w + ·)
/-- SROW (R331). -/
def srowBytes (n : Nat) : Nat := (16 + 4 * n + 15) / 16 * 16

/-! ## Instances -/

/-- Change an instance. -/
def modInst (s : State) (cluster uid : Nat) (g : Instance → Instance) : State :=
  s.modCluster cluster fun c => { c with insts := c.insts.map fun x => if x.uid == uid then g x else x }
/-- The plot is resident in its cluster. -/
def plotResident (s : State) (plot : Nat) : Bool := match s.plot? plot with
  | some p => p.st != .saved && p.st != .done
  | none => false
/-- A GROUP or JOIN instance is complete: at once for .team, else when every team of the plot that is placed and not freed has arrived (R330). -/
def instComplete (s : State) (x : Instance) : Bool :=
  plotResident s x.plot && (x.kind == 0 || x.kind == 1) &&
    (x.scope == 0 || (s.teams.filter fun t => t.place.plot == x.plot).all fun t => x.deposits.any fun d => d.tid == t.tid)
/-- Instances that have become complete take their place in the order of service (R330). -/
def markReady (cluster : Nat) (s : State) : State :=
  (s.cluster cluster).insts.foldl (fun s x =>
    if x.ready.isNone && instComplete s x then { (modInst s cluster x.uid fun x => { x with ready := some s.uid }) with uid := s.uid + 1 } else s) s
/-- The signature of an instruction matches an instance's (R328). -/
def sameSign (x : Instance) (kind : Nat) (f : EForm) (w : List Word) : Bool := x.kind == kind && x.vop == f.vop.toNat && x.mod8 == f.mod8 && x.wds == w
/-- The plot instance that a team's next plot-scope instruction belongs to, if another team has arrived there (R328). -/
def plotInst (s : State) (t : Team) : Option Instance :=
  (s.cluster (clusterOf t.place.core)).insts.find? fun x => x.plot == t.place.plot && x.scope == 2 && x.seq == t.graft.seq + 1
/-- A row as a team deposits it (R329). -/
def depositRow (t : Team) (kind vop : Nat) (m : Byte) (w : List Word) (row : Nat) : Nat × Nat × List Elem × List Elem × Bool :=
  let b := kind == 1 && (t.pmask (gWd w 0 / 65536 % 8)).getLsbD row
  (row, rowIdent t row, (keyRegs vop m).map (fun r => t.vget r row), (depositRegs kind w b).map (fun r => t.vget r row), b)
/-- Bytes of staging that a deposit takes (R331). -/
def depositBytes (d : Deposit) : Nat := 128 + (d.rows.map fun r => srowBytes r.2.2.2.1.length).sum
/-- Bytes of staging that a deposit takes hold no value that the spec gives: they become free values. -/
def stageWrite (s : State) (t : Team) (st : Nat × Nat) (used n : Nat) : State :=
  let n := min n (st.2 - used)
  (spWriteRange s t.spAgent (st.1 + used) ((List.range n).map fun i => (s.draw i).extractLsb' 0 8) false).drawn n
/-- Put a deposit into its instance, or into a new one (R328, R329, R331). -/
def putDeposit (s : State) (t : Team) (kind scope : Nat) (f : EForm) (w : List Word) (old : Option Instance) (d : Deposit) : State :=
  let cl := clusterOf t.place.core
  let st := stageOf kind w
  let used := match old with
    | some x => x.used
    | none => 0
  let full := scope == 2 && decide (st.2 < used + depositBytes d)
  let s := if scope = 2 then stageWrite s t st used (depositBytes d) else s
  let d := if full then { d with rows := [] } else d
  match old with
  | some x => modInst s cl x.uid fun x => { x with deposits := x.deposits ++ [if x.overflow then { d with rows := [] } else d],
                                                   used := x.used + depositBytes d, overflow := x.overflow || full }
  | none =>
    let x : Instance := { uid := s.uid, plot := t.place.plot, scope := scope, seq := t.graft.seq + 1, kind := kind, vop := f.vop.toNat, mod8 := f.mod8,
                          wds := w, dom := t.flow.did, priv := t.stamp.priv, nest := t.stamp.nest, entry := t.stamp.entry, deposits := [d],
                          used := depositBytes d, overflow := full, ready := none }
    { s.modCluster cl (fun c => { c with insts := c.insts ++ [x] }) with uid := s.uid + 1 }
/-- The team after its arrival: the operation counts and is not yet applied (R18, R332). -/
def arrivedTeam (t : Team) (kind scope op rows : Nat) (r : Option GraftResult) : Team :=
  { t with ops := t.ops ++ [⟨op, 2, false⟩],
           graft := { t.graft with kind := kind, inrows := rows, seq := if scope = 2 then t.graft.seq + 1 else t.graft.seq, pending := some op, result := r } }
/-- Arrive at an instance (R329): a release at .plot, for JOIN at .estate too; GROWS counts the rows. DESIGN CHOICE, log 104: a GROUP or JOIN at .plot takes no scoreboard entry for its staging range (R23, R331). -/
def arriveGraft (s : State) (t : Team) (stl : BitVec 4) (kind scope : Nat) (f : EForm) (w : List Word) (rows : List (Nat × Nat × List Elem × List Elem × Bool)) :
    Out :=
  if 255 ≤ t.count 2 then holdTeam s t .engineQueue
  else if releaseStalls s t.place.core t.flow.did (if kind = 1 then 4 else 2) then holdTeam s t .quiesce
  else
    let op := s.uid
    let s := { s with uid := s.uid + 1 }
    let s := (releaseAt s t.place.core t.flow.did (if kind = 1 then 4 else 2)).meter t.flow.did 5 rows.length
    let s := putDeposit s t kind scope f w (if scope = 2 then plotInst s t else none) ⟨t.tid, op, rows⟩
    thenDo (finish s (arrivedTeam (keepWake s t) kind scope op rows.length none) stl 1) (markReady (clusterOf t.place.core))
/-- A register of a list is poisoned in some row. -/
def rowsPois (t : Team) (rows : List Nat) (regs : List Nat) : Bool := regs.any fun r => vregOk t r && rows.any fun x => (t.vget r x).poison
/-- GROUP (kind 0) and JOIN (kind 1): the checks of R350 in order, then the arrival. -/
def graftBody (kind : Nat) (f : EForm) (s : State) (t : Team) : Out :=
  let w := t.record f.rbase.toNat 16
  let vop := f.vop.toNat
  let scope := graftScope f.mod8
  let t := t.awaitRegs (keyRegs vop f.mod8 ++ depositRegs kind w false ++ depositRegs kind w true)
  let rows := rowList t.flow.mask t.foot.rows
  let st := stageOf kind w
  let bad := match kind with
    | 0 => groupBad t vop f.mod8 w
    | _ => joinBad t f.mod8 w
  let old := if scope = 2 then plotInst s t else none
  if t.recordPois f.rbase.toNat 16 || rowsPois t rows (keyRegs vop f.mod8) then raise s t 0x38
  else if bad || (keyWide f.mod8 && (vop % 2 != 0 || !vregOk t (vop + 1))) || (scope == 0 && (st.1 != 0 || st.2 != 0)) then raise s t 0x02
  else if 4 < graftKty f.mod8 || (match old with
    | some x => !sameSign x kind f w
    | none => false) then raise s t 0x21
  else if kind == 1 && decide (8 ≤ t.stamp.nest) then raise s t 0x2A
  else if kind == 1 && joinAlignBad w then raise s t 0x0B
  else if scope == 2 && stageBad s t st then raise s t 0x0C
  else if scope == 2 && (unitsOf 131072 st.1 st.2).any (fun b => bankQuiesced s (clusterOf t.place.core) t.flow.did (b * 131072)) then holdTeam s t .quiesce
  else arriveGraft s t f.stl kind scope f w (rows.map (depositRow t kind vop f.mod8 w))
/-- GROUP (R325-R334). -/
def execGroup (f : EForm) (s : State) : Out :=
  issue (.group f) s f.stl (fun t => eOk 16 f t && vregOk t f.vop.toNat) (eSuppressed f) (graftBody 0 f)
/-- JOIN (R325-R333, R337). -/
def execJoin (f : EForm) (s : State) : Out :=
  issue (.join f) s f.stl (fun t => eOk 16 f t && vregOk t f.vop.toNat) (eSuppressed f) (graftBody 1 f)

/-! ## Results -/

/-- A row of an instance: team, row, identifier, key, columns, role b. -/
structure GRow where
  tid : Nat
  row : Nat
  ident : Nat
  key : List Elem
  cols : List Elem
  roleB : Bool
  deriving DecidableEq, Repr
/-- Insert a row by ascending identifier. -/
def gInsert (x : GRow) : List GRow → List GRow
  | [] => [x]
  | y :: r => if x.ident < y.ident then x :: y :: r else y :: gInsert x r
/-- The population in ascending identifier. -/
def gRows (x : Instance) : List GRow :=
  (x.deposits.flatMap fun d => d.rows.map fun r => (⟨d.tid, r.1, r.2.1, r.2.2.1, r.2.2.2.1, r.2.2.2.2⟩ : GRow)).foldr gInsert []
/-- Put a row into its class (R326, R336). -/
def classAdd (kty : Nat) (x : GRow) : List (List GRow) → List (List GRow)
  | [] => [[x]]
  | c :: r => match c with
    | y :: _ => if graftKeyEq kty x.key y.key then (c ++ [x]) :: r else c :: classAdd kty x r
    | [] => classAdd kty x r
/-- The classes of a population, each in ascending identifier. -/
def gClasses (kty : Nat) (l : List GRow) : List (List GRow) := l.foldl (fun cs x => classAdd kty x cs) []
/-- FP32 rounded to nearest even, no flush, canonical NaN (R335, R347). -/
def r32 (x : FVal) : Word := BitVec.ofNat 32 (toFloat fp32 ⟨0, false, false, none⟩ x)
/-- The value of FP32 bits. -/
def v32 (x : Word) : FVal := numIn fp32 false x.toNat
/-- One step of a column operator on 32-bit elements (R335). -/
def colStep (op : Nat) (a b : Word) : Word :=
  match op with
  | 0 => a + b
  | 2 => r32 (FVal.add 0 (v32 a) (v32 b))
  | 3 => if b.slt a then b else a
  | 4 => if a.slt b then b else a
  | 5 => if b.ult a then b else a
  | 6 => if a.ult b then b else a
  | 7 => r32 ((v32 a).minN (v32 b))
  | 8 => r32 ((v32 a).maxN (v32 b))
  | 12 => a &&& b
  | 13 => a ||| b
  | _ => a ^^^ b
/-- Combine the holders' elements of a column in ascending identifier: one list of elements for each of the column's registers (R335, R336). -/
def colCombine (op : Nat) (l : List (List Elem)) : List Elem :=
  let e := fun (x : List Elem) (i : Nat) => x.getD i Elem.zero
  let pois := l.any fun x => x.any fun y => y.poison
  match op, l with
  | _, [] => []
  | 1, _ =>
    let z := (l.map fun x => (e x 0).bits.toNat + 2 ^ 32 * (e x 1).bits.toNat).sum
    [⟨BitVec.ofNat 32 z, pois⟩, ⟨BitVec.ofNat 32 (z / 2 ^ 32), pois⟩]
  | 9, x :: _ => [e x 0]
  | 10, x :: r => [e (r.getLastD x) 0]
  | 11, _ => [Elem.clean (BitVec.ofNat 32 l.length)]
  | _, x :: r => [⟨r.foldl (fun a y => colStep op a (e y 0).bits) (e x 0).bits, pois⟩]
/-- Columns with the place of their first element in a deposit. -/
def colPlaces : List (Nat × Nat) → Nat → List (Nat × Nat × Nat)
  | [], _ => []
  | c :: r, k => (c.1, c.2, k) :: colPlaces r (k + (colRegs c).length)
/-- What the survivor of a class receives: register and element (R336). -/
def classWrites (cols : List (Nat × Nat)) (c : List GRow) : List (Nat × Elem) :=
  (colPlaces cols 0).flatMap fun p =>
    let n := (colRegs (p.1, p.2.1)).length
    (colCombine p.2.1 (c.map fun x => (x.cols.drop p.2.2).take n)).zipIdx.map fun y => (p.1 + y.2, y.1)
/-- Set a team's graft result. -/
def setResult (s : State) (tid : Nat) (r : GraftResult) : State := match s.team? tid with
  | some t => s.putTeam { t with graft := { t.graft with result := some r } }
  | none => s
/-- Drop an instance. -/
def dropInst (s : State) (cluster uid : Nat) : State := s.modCluster cluster fun c => { c with insts := c.insts.filter fun x => x.uid != uid }
/-- The results of a GROUP instance (R336). -/
def groupResults (s : State) (x : Instance) : State :=
  let cs := gClasses (graftKty x.mod8) (gRows x)
  let cols := groupCols x.wds
  x.deposits.foldl (fun s d =>
    let mine := fun (y : GRow) => y.tid == d.tid
    let retire := maskOf (cs.flatMap fun c => (c.drop 1).filterMap fun y => if mine y then some y.row else none)
    let writes := cs.flatMap fun c => match c with
      | y :: _ => if mine y then (classWrites cols c).map fun z => (z.1, y.row, z.2) else []
      | [] => []
    setResult s d.tid ⟨retire, writes, false, cs.length, 0, 0, d.op⟩) s
/-- An overflowed instance: nothing is applied, every team is told (R331); what OUTN then reads is a free value. -/
def overflowResults (s : State) (x : Instance) : State :=
  x.deposits.foldl (fun s d => (setResult s d.tid ⟨0, [], true, (s.draw 0).toNat % 2 ^ 32, 0, 0, d.op⟩).drawn 1) s
/-- A spawned row (R339). -/
def spawnRow (m : Byte) (w : List Word) (a b : GRow) : List Elem :=
  let l := a.key ++ a.cols ++ b.cols
  let id := fun (n : Nat) => [Elem.clean (BitVec.ofNat 32 n), Elem.clean (BitVec.ofNat 32 (n / 2 ^ 32))]
  l ++ List.replicate (jBase m w - l.length) Elem.zero ++ id a.ident ++ id b.ident
/-- The child launch of a JOIN (R340). -/
def childLaunch (uid cluster : Nat) (x : Instance) (rows : List (List Elem)) (total : Nat) : Launch :=
  let w := x.wds
  let f := footOf (gWd w 5)
  { uid := uid, origin := .join cluster x.uid, dom := x.dom, priv := x.priv, nest := x.nest + 1,
    pkt := { entry := x.entry + ((w.getD 4 0).extractLsb' 8 24).signExtend 64 * 64, entrySlot := gWd w 4 / 32 % 8, rows := f.1, vregs := f.2.1,
             sregs := f.2.2, scratch := gWd w 7, beds := 1, tpb := jTeams w, prod := 0, plots := (total + f.1 * jTeams w - 1) / max 1 (f.1 * jTeams w),
             chan := 0, idem := false, work := 0, dep := 0, nstage := 0 },
    addr := ⟨gPair w 14, gPair w 12, 0, 0⟩, next := 0, wait := false, ended := 0, fcode := 0, fhflt := 0, fpc := 0, pending := 0, code := 0,
    spawned := rows, tokens := [], again := [] }
/-- The core through which an instance's accesses are made: that of its first team. -/
def instCore (s : State) (x : Instance) : Nat := match x.deposits.head?.bind fun d => s.team? d.tid with
  | some t => t.place.core
  | none => 0
/-- The spawned rows of a JOIN instance, in order (R338). -/
def joinPairs (x : Instance) : List (List Elem) :=
  let rows := gRows x
  let bs := rows.filter fun r => r.roleB
  (rows.filter fun r => !r.roleB).flatMap fun a => (bs.filter fun b => graftKeyEq (graftKty x.mod8) a.key b.key).map fun b => spawnRow x.mod8 x.wds a b
/-- How many of the spawned rows the child launch receives: the credited ones and what the ring takes (R340, R341). -/
def joinTotal (x : Instance) : Nat :=
  let n := (joinPairs x).length
  min (gWd x.wds 11) n + min (gWd x.wds 10) (n - gWd x.wds 11)
/-- There is room for a JOIN's child launch: among the launches in progress and, unless it has failed, in the cluster's intake (R273, R276). -/
def childRoom (s : State) (cluster : Nat) (l : Launch) : Bool :=
  decide (s.gov.launches.length < 1024) && (l.code != 0 || decide ((s.cluster cluster).intake.length < 16))
/-- A JOIN's child launch is taken, into the cluster's intake unless it has failed (R274, R340). -/
def takeChild (s : State) (cluster : Nat) (l : Launch) : State :=
  if l.code != 0 then s.addLaunch l else (s.addLaunch l).modCluster cluster fun c => { c with intake := c.intake ++ [l.uid] }
/-- The results of a JOIN instance (R338-R341): match counts, the child launch, which waits when there is no room for it, and the rows that go to the ring. -/
def joinResults (s : State) (cluster : Nat) (x : Instance) : State :=
  let w := x.wds
  let kty := graftKty x.mod8
  let rows := gRows x
  let as := rows.filter fun r => !r.roleB
  let bs := rows.filter fun r => r.roleB
  let count := fun (r : GRow) => ((if r.roleB then as else bs).filter fun o => graftKeyEq kty r.key o.key).length
  let pairs := joinPairs x
  let credit := gWd w 11
  let ring := (pairs.drop credit).take (gWd w 10)
  let total := joinTotal x
  let s := x.deposits.foldl (fun s d =>
    let writes := if jMcnt w = 255 then [] else
      (rows.filter fun r => r.tid == d.tid).map fun r => (jMcnt w, r.row, Elem.clean (BitVec.ofNat 32 (count r)))
    setResult s d.tid ⟨0, writes, false, pairs.length, 0, 0, d.op⟩) s
  let uid := s.uid
  let child := childLaunch uid cluster x (pairs.take credit) total
  let child := if everFitsRows s child total then child else child.failed 3
  let room := total = 0 || (childRoom s cluster child && (s.cluster cluster).spills.all fun p => p.child.isNone)
  let s := if total = 0 then s else if room then takeChild { s with uid := uid + 1 } cluster child else { s with uid := uid + 1 }
  let sp : Spill := { inst := x.uid, dom := x.dom, priv := x.priv, core := instCore s x, base := gPair w 8, slotBytes := (jBase x.mod8 w + 7) / 4 * 16,
                      next := 0, rows := ring, credited := min credit pairs.length, launch := if total = 0 then 0 else uid,
                      dropped := pairs.length - total, waiting := x.deposits.map (·.tid), ops := [], crec := gPair w 12,
                      child := if room then none else some child }
  s.modCluster cluster fun c => { c with spills := c.spills ++ [sp] }

/-! ## ROUTE and COMBN -/

/-- Experts per group. -/
def rEpg (w : List Word) : Nat := gWd w 0 / 1024 % 16 + 1
/-- k. -/
def rK (w : List Word) : Nat := gWd w 0 / 256 % 4 + 1
/-- g. -/
def rG (w : List Word) : Nat := gWd w 0 / 64 % 4 + 1
/-- G. -/
def rGroups (w : List Word) : Nat := gWd w 0 % 16 + 1
/-- E. -/
def rExperts (w : List Word) : Nat := rGroups w * rEpg w
/-- TIX. -/
def rTix (w : List Word) : Nat := gWd w 1 / 65536 % 256
/-- Payload values. -/
def rDm (w : List Word) : Nat := gWd w 1 / 256 % 128 + 1
/-- HOME(j): bits of the pair and the fourth bit that must be zero. -/
def rHome (w : List Word) (j : Nat) : Nat := (gWd w 2 + 2 ^ 32 * gWd w 3) / 16 ^ j % 16
/-- The slot stride SSTR (R342). -/
def rStride (w : List Word) : Nat := 16 + 16 * ((rDom w + 3) / 4)
/-- Address of slot s of token t (R342). -/
def slotAddr (w : List Word) (t s : Nat) : Nat := ((gPair w 4).toNat + (t * rG w * rK w + s) * rStride w) % 2 ^ 64
/-- Dies of a die's estate, ascending (R364). -/
def estateDies (s : State) (die : Nat) : List Nat := (List.range Config.dies).filter (sameEstate s die)
/-- Record rules of ROUTE (kind 2) and COMBN (kind 3) (R342). -/
def routeBad (s : State) (t : Team) (kind vop : Nat) (w : List Word) : Bool :=
  [ gWd w 0 / 2 ^ 14 != 0, gWd w 0 / 16 % 4 != 0, gWd w 1 / 2 ^ 24 != 0, decide (127 < gWd w 1 / 256 % 256), gWd w 6 / 128 != 0, gWd w 7 / 65536 != 0,
    gWd w 7 == 0, (List.range 6).any (fun i => gWd w (10 + i) != 0), (List.range 16).any (fun j => decide (8 ≤ rHome w j)),
    decide (rGroups w < rG w), decide (rEpg w < rK w), (List.range (rGroups w)).any (fun j => decide ((estateDies s (dieOf t.place.core)).length ≤ rHome w j)),
    !vregOk t (rTix w), decide (t.foot.vregs < gWd w 1 % 256 + rDm w),
    decide (t.foot.vregs < vop + if kind = 2 then rExperts w else rDom w) ].any id
/-- The agent of an instance's accesses (R15, R302). -/
def graftAgent (dom : Nat) (priv : Bool) (core : Nat) : Agent := ⟨dom, priv, core, true⟩
/-- The translation of an instance's accesses. -/
def graftTrans (s : State) (ag : Agent) (acc : Acc) : Trans := fun va => translate s ag acc va 3
/-- The lines of an engine's access to n bytes at an address: address and length in each. -/
def linePieces (a n : Nat) : List (Nat × Nat) := (unitsOf 128 a n).map fun u => (max a (u * 128), min (a + n) (u * 128 + 128) - max a (u * 128))
/-- An engine's access to n bytes at an address would be served by a segment whose bank is quiesced (R130). -/
def lineStalls (s : State) (ag : Agent) (acc : Acc) (a n : Nat) : Bool :=
  (linePieces a n).any fun p => match translate s ag acc p.1 3 with
    | .error _ => false
    | .ok (pa, pol) => segStalls s ag.core pol pa
/-- The line requests of an engine's access to n bytes at an address of a domain (R322, R323): one for each line, as far as the addresses translate; the translations are kept, and the walks that they take counted (R175, R320). -/
def lineAccess (s : State) (ag : Agent) (acc : Acc) (a n : Nat) : State :=
  (linePieces a n).foldl (fun s p =>
    let len := p.2
    match translate s ag acc p.1 3 with
    | .error _ => tlbFill s ag p.1
    | .ok (pa, pol) =>
      let s := tlbFill s ag p.1
      if acc == .write then lineWrite s ag.core ag.dom pol pa
      else if pol = 2 || isAperture pa then lineRead s ag.core ag.dom pol pa len
      else lineRead s ag.core ag.dom pol (pa / 128 * 128) 128) s
/-- Write a slot header at .estate (R343): STATUS, with EXPERT and LOGIT where they are given and free values where the spec gives none; a write that fails is dropped. -/
def putHeader (s : State) (ag : Agent) (w : List Word) (t sl status : Nat) (x : Option (Nat × Word)) : State :=
  let y := match x with
    | some e => natBytes 4 e.1 ++ natBytes 4 e.2.toNat
    | none => natBytes 8 (s.draw 0).toNat
  let s := lineAccess s ag .write (slotAddr w t sl) 16
  (writeClean s ag.dom (graftTrans s ag .write) (slotAddr w t sl) (natBytes 4 status ++ y ++ natBytes 4 0)).1.drawn 1
/-- The key of a logit, NaN read as minus infinity (R344). -/
def logitKey (x : Word) : Int := if f32Nan x then -(0x7F800000 : Int) else f32Key x
/-- A logit above minus infinity. -/
def logitLive (k : Int) : Bool := decide (-(0x7F800000 : Int) < k)
/-- The first n of a list in descending key, ties to the lower index (R344, R345). -/
def topN : Nat → List (Int × Nat) → List (Int × Nat)
  | 0, _ => []
  | n + 1, l => match l with
    | [] => []
    | x :: r =>
      let b := r.foldl (fun b y => if b.1 < y.1 || (b.1 == y.1 && y.2 < b.2) then y else b) x
      b :: topN n (l.filter fun y => y.2 != b.2)
/-- Groups that a row's logits choose (R344). -/
def pickGroups (w : List Word) (logits : List Word) : List Nat :=
  let m := fun j => ((logits.drop (j * rEpg w)).take (rEpg w)).foldl (fun k x => max k (logitKey x)) (-(0x7F800000 : Int))
  (topN (rG w) (((List.range (rGroups w)).map fun j => (m j, j)).filter fun x => logitLive x.1)).map (·.2)
/-- BF16 of an FP32 element (R344). -/
def bf16Of (e : Elem) : Elem := ⟨BitVec.ofNat 32 (toFloat bf16 ⟨0, false, false, none⟩ (v32 e.bits)), e.poison⟩
/-- The slots of the rows' tokens whose headers a ROUTE writes: token and slot. -/
def routeSlots (t : Team) (w : List Word) (rows : List Nat) : List (Nat × Nat) :=
  rows.flatMap fun r => (List.range (rG w * rK w)).map fun sl => ((t.vget (rTix w) r).bits.toNat, sl)
/-- The accesses to slots of tokens, n bytes each, wait for a segment that is quiesced (R130). -/
def slotsStall (s : State) (ag : Agent) (acc : Acc) (w : List Word) (l : List (Nat × Nat)) (n : Nat) : Bool :=
  l.any fun x => lineStalls s ag acc (slotAddr w x.1 x.2) n
/-- What ROUTE does for a row (R344): headers first, then the tokens; also whether the token is dropped. -/
def routeRow (t : Team) (vop op : Nat) (w : List Word) (acc : State × Nat) (row : Nat) : State × Nat :=
  let ag := graftAgent t.flow.did t.stamp.priv t.place.core
  let logits := (List.range (rExperts w)).map fun e => (t.vget (vop + e) row).bits
  let c := pickGroups w logits
  let tok := (t.vget (rTix w) row).bits.toNat
  let s := (List.range (rG w * rK w)).foldl (fun s sl => putHeader s ag w tok sl (if sl / rK w < c.length then 1 else 0) none) acc.1
  let pay := (List.range (rDm w)).map fun i => bf16Of (t.vget (gWd w 1 % 256 + i) row)
  let s := c.zipIdx.foldl (fun s x =>
    let k : Token := { dom := t.flow.did, t := tok, rank := x.2, group := x.1, logits := (logits.drop (x.1 * rEpg w)).take (rEpg w), payload := pay, wds := w,
                       nest := t.stamp.nest, priv := t.stamp.priv, op := op, tid := t.tid, slot := 0, expert := 0 }
    s.modDie ((estateDies s (dieOf t.place.core)).getD (rHome w x.1) 0) fun d => { d with ingress := d.ingress ++ [k] }) s
  (s, acc.2 + if c.isEmpty then 1 else 0)
/-- The checks that ROUTE and COMBN share (R342, R350), then what each does. -/
def routeCheck (kind : Nat) (f : EForm) (s : State) (t : Team) (go : Team → List Word → List Nat → Out) : Out :=
  let w := t.record f.rbase.toNat 16
  let vop := f.vop.toNat
  let reads := if kind = 2 then rTix w :: (List.range (rExperts w)).map (vop + ·) else [rTix w]
  let t := t.awaitRegs (reads ++ if kind = 2 then (List.range (rDm w)).map (gWd w 1 % 256 + ·) else [])
  let rows := rowList t.flow.mask t.foot.rows
  if t.recordPois f.rbase.toNat 16 || rowsPois t rows reads then raise s t 0x38
  else if routeBad s t kind vop w then raise s t 0x02
  else if kind == 2 && decide (8 ≤ t.stamp.nest) then raise s t 0x2A
  else if gWd w 4 % 16 != 0 || gWd w 8 % 128 != 0 then raise s t 0x0B
  else if 255 ≤ t.count 2 then holdTeam s t .engineQueue
  else go t w rows
/-- ROUTE (R344): it completes when its tokens stand in tiles. -/
def execRoute (f : EForm) (s : State) : Out :=
  issue (.route f) s f.stl (fun t => eOk 16 f t && vregOk t f.vop.toNat) (eSuppressed f) fun s t => routeCheck 2 f s t fun t w rows =>
    if releaseStalls s t.place.core t.flow.did 4 || slotsStall s (graftAgent t.flow.did t.stamp.priv t.place.core) .write w (routeSlots t w rows) 16
    then holdTeam s t .quiesce else
    let op := s.uid
    let s := (releaseAt { s with uid := op + 1 } t.place.core t.flow.did 4).meter t.flow.did 5 rows.length
    let nans := (rows.map fun r => ((List.range (rExperts w)).filter fun e => f32Nan (t.vget (f.vop.toNat + e) r).bits).length).sum
    let r := rows.foldl (routeRow t f.vop.toNat op w) (s, 0)
    let t := arrivedTeam (keepWake r.1 t) 2 4 op rows.length (some ⟨0, [], false, rows.length, 0, r.2, op⟩)
    finish r.1 { t with graft := { t.graft with nans := (t.graft.nans + nans) % 2 ^ 32 } } f.stl 1
/-- COMBN (R347): it arrives with the token index of each row. -/
def execCombn (f : EForm) (s : State) : Out :=
  issue (.combn f) s f.stl (fun t => eOk 16 f t && vregOk t f.vop.toNat) (eSuppressed f) fun s t => routeCheck 3 f s t fun t w rows =>
    if releaseStalls s t.place.core t.flow.did 2 then holdTeam s t .quiesce else
    let op := s.uid
    let s := (releaseAt { s with uid := op + 1 } t.place.core t.flow.did 2).meter t.flow.did 5 rows.length
    let s := putDeposit s t 3 4 f w none ⟨t.tid, op, rows.map fun r => (r, rowIdent t r, [t.vget (rTix w) r], [], false)⟩
    finish s (arrivedTeam t 3 4 op rows.length none) f.stl 1

/-- A return slot as COMBN reads it (R343): STATUS, LOGIT, results; a slot that fails a check reads as free values. -/
def readSlot (s : State) (ag : Agent) (w : List Word) (t sl k : Nat) : Nat × Word × List Elem :=
  let a := slotAddr w t sl
  let tr := graftTrans s ag .read
  let rd := fun o n => match readVa s tr ((a + o) % 2 ^ 64) n with
    | .ok x => x
    | .error _ => (natBytes n (s.draw (k + o)).toNat, false)
  let w32 := fun (x : List Byte × Bool) => BitVec.ofNat 32 (bytesNat x.1)
  ((w32 (rd 0 4)).toNat, w32 (rd 8 4), (List.range (rDom w)).map fun i => let x := rd (16 + 4 * i) 4
                                                                         ⟨w32 x, x.2⟩)
/-- The slots of a token. -/
def readSlots (s : State) (ag : Agent) (w : List Word) (t : Nat) : List (Nat × Word × List Elem) :=
  (List.range (rG w * rK w)).map fun sl => readSlot s ag w t sl (sl * 1024)
/-- Weights of the returned slots (R347). -/
def slotWeights (l : List (Word × List Elem)) : List Word :=
  let mx := (l.map fun x => v32 x.1).foldl FVal.maxN (FVal.inf true)
  let inf : Word := 0x7F800000
  if mx = FVal.inf false then
    let n := (l.filter fun x => x.1 == inf).length
    l.map fun x => if x.1 = inf then r32 (numOne.div (numInt n)) else 0
  else
    let xs := l.map fun x => let d := r32 (FVal.add 0 (v32 x.1) mx.neg)
                             let p := r32 ((v32 d).mul (v32 0x3FB8AA3B))
                             r32 (approx .ex2 (v32 p) p)
    let z := match xs with
      | [] => 0
      | x :: r => r.foldl (fun a b => r32 (FVal.add 0 (v32 a) (v32 b))) x
    xs.map fun x => r32 ((v32 x).div (v32 z))
/-- The outputs of a token, and whether it counts as dropped (R347). -/
def combnOut (n : Nat) (l : List (Nat × Word × List Elem)) : List Elem × Bool :=
  let rt := (l.filter fun x => x.1 == 2).map (·.2)
  let fl := l.any fun x => x.1 == 3
  let ws := slotWeights rt
  let out := (List.range n).map fun i =>
    let es := rt.map fun x => x.2.getD i Elem.zero
    (⟨(ws.zip es).foldl (fun a x => r32 (FVal.add 0 ((v32 x.1).mul (v32 x.2.bits)) (v32 a))) 0, fl || es.any fun e => e.poison⟩ : Elem)
  (out, rt.isEmpty && !fl)
/-- The token of a row that a COMBN deposits. -/
def rowToken (r : Nat × Nat × List Elem × List Elem × Bool) : Nat := (r.2.2.1.getD 0 Elem.zero).bits.toNat
/-- Every slot of every token of a COMBN has left STATUS 1 (R347), and no segment through which they are read is quiesced (R130). -/
def combnReady (s : State) (x : Instance) : Bool :=
  let ag := graftAgent x.dom x.priv (instCore s x)
  x.kind == 3 && plotResident s x.plot && x.deposits.all fun d => d.rows.all fun r =>
    (readSlots s ag x.wds (rowToken r)).all (fun y => y.1 != 1)
      && !slotsStall s ag .read x.wds ((List.range (rG x.wds * rK x.wds)).map fun sl => (rowToken r, sl)) (16 + 4 * rDom x.wds)
/-- The results of a COMBN (R347). -/
def combnResults (s : State) (x : Instance) : State :=
  let ag := graftAgent x.dom x.priv (instCore s x)
  let n := rDom x.wds
  x.deposits.foldl (fun s d =>
    let outs := d.rows.map fun r => (r.1, combnOut n (readSlots s ag x.wds (rowToken r)))
    let writes := outs.flatMap fun o => o.2.1.zipIdx.map fun e => (x.vop + e.2, o.1, e.1)
    let s := d.rows.foldl (fun s r => (List.range (rG x.wds * rK x.wds)).foldl (fun s sl =>
      lineAccess s ag .read (slotAddr x.wds (rowToken r) sl) (16 + 4 * n)) s) s
    setResult s d.tid ⟨0, writes, false, d.rows.length, 0, (outs.filter fun o => o.2.2).length, d.op⟩) s

/-! ## Completion and application -/

/-- The instance that a cluster's unit serves next: the oldest complete one (R330), or a COMBN all of whose slots have left STATUS 1 (R347). -/
def nextInst (s : State) (cluster : Nat) : Option Instance :=
  let c := s.cluster cluster
  let l := c.insts.filter fun x => x.ready.isSome && plotResident s x.plot
  match l with
  | [] => c.insts.find? (combnReady s)
  | x :: r => some (r.foldl (fun b y => if y.ready.getD 0 < b.ready.getD 0 then y else b) x)
/-- INSTANCE_COMPLETE (R330, R335-R341, R347): the unit computes the results of the next complete instance. -/
def execInstanceComplete (x : ClusterArg) (s : State) : Out :=
  match nextInst s x.cluster with
  | none => .next s
  | some i =>
    let s := if i.overflow then overflowResults s i
             else match i.kind with
               | 0 => groupResults s i
               | 1 => joinResults s x.cluster i
               | _ => (combnResults s i).drawn (2 ^ 16)
    .next (dropInst s x.cluster i.uid)

/-- The outstanding JOIN that a team's result belongs to. -/
def teamSpill (s : State) (t : Team) : Option Spill :=
  if t.graft.kind = 1 then (s.clusters.flatMap fun c => c.spills).find? fun p => p.waiting.contains t.tid else none
/-- The cluster whose unit served it. -/
def spillCluster (s : State) (inst : Nat) : Nat :=
  ((List.range Config.clusters).find? fun i => (s.cluster i).spills.any fun p => p.inst == inst).getD 0
/-- A team's graft result may be applied: it is at an instruction boundary and not halted, a JOIN's ring is written, a ROUTE's tokens stand in tiles (R332, R341, R344). -/
def graftReady (s : State) (t : Team) : Bool :=
  !teamHalted t && t.sched.burst.isEmpty && match t.graft.result with
    | none => false
    | some r =>
      (match teamSpill s t with
        | some p => decide (p.rows.length ≤ p.next)
        | none => true)
      && (t.graft.kind != 2 || !s.dies.any fun d => d.ingress.any fun k => k.op == r.op && k.tid == t.tid)
/-- Every credited row of a JOIN stands in a placed child team (R338). -/
def joinLoaded (s : State) (p : Spill) : Bool := match s.launch? p.launch with
  | none => p.child.isNone || p.credited == 0
  | some l => decide (p.credited ≤ l.next * (l.pkt.rows * l.pkt.tpb))
/-- The record of a launch (R272). -/
def recordBytes (code fcode ended pending : Nat) (fhflt : Word) (fpc tag : DWord) : List Byte :=
  natBytes 4 (2 ^ 31 + 256 * fcode + code) ++ natBytes 4 ended ++ natBytes 4 pending ++ natBytes 4 fhflt.toNat ++ natBytes 8 fpc.toNat
    ++ natBytes 8 tag.toNat
/-- Write a completion record as one write; one that fails is dropped (R272). -/
def putRecord (s : State) (dom : Nat) (a : DWord) (bs : List Byte) : State :=
  if a = 0 then s else
  let tr := domTranslate s dom true .write
  match firstFail tr a.toNat bs.length with
  | some _ => devWalks s dom a.toNat bs.length
  | none => (devWrite s dom tr a.toNat bs fun _ _ => false).1
/-- The operations of a JOIN complete when its rows stand in teams or in the ring; with the last, a JOIN without a child row writes CREC (R338, R340). What it owes is kept while its child launch waits for room. -/
def settleJoin (s : State) (cluster : Nat) (p : Spill) : State :=
  if p.next < p.rows.length || !joinLoaded s p then s
  else
    let s := p.ops.foldl (fun s o => s.opDone o.1 o.2) s
    if p.waiting.isEmpty && p.child.isNone then
      let s := if p.launch = 0 then putRecord s p.dom p.crec (recordBytes 0 0 0 0 0 0 0) else s
      s.modCluster cluster fun c => { c with spills := c.spills.filter fun q => q.inst != p.inst }
    else s.modCluster cluster fun c => { c with spills := c.spills.map fun q => if q.inst == p.inst then { q with ops := [] } else q }
/-- Settle every JOIN of a cluster. -/
def settleJoins (s : State) (cluster : Nat) : State := (s.cluster cluster).spills.foldl (fun s p => settleJoin s cluster p) s
/-- Rows of a team retire (R73, R77, R336): a path whose rows have all retired ends. -/
def retireRows (s : State) (t : Team) (m : RowMask) : Team :=
  if m = 0 then t else
  let had := t.flow.mask != 0
  let t := { t with flow := { t.flow with retired := t.flow.retired ||| m, mask := t.flow.mask &&& ~~~m } }
  if had then endPath s t else t
/-- The registers that an application writes. -/
def applyWrites (t : Team) (l : List (Nat × Nat × Elem)) : Team :=
  l.foldl (fun t x => t.vset x.1 x.2.1 x.2.2) (overwrite t (l.map (·.1)))
/-- The status that GSTAT shows after an application (R348). -/
def appliedStatus (g : GraftSt) (r : GraftResult) (faulted : Bool) (spilled dropped : Nat) : GraftSt :=
  { g with last := if faulted then 1 else 0, outn := r.outn, spilled := spilled, dropped := dropped, pending := none, result := none }
/-- Apply a result to its team (R332): registers, retirements, an acquire at .plot; then the operation completes. -/
def applyGraft (s : State) (t : Team) (r : GraftResult) : State :=
  let sp := teamSpill s t
  let dropped := match sp with
    | some p => p.dropped
    | none => r.dropped
  let spilled := match sp with
    | some p => p.next
    | none => 0
  let faulted := r.faulted || (sp.isSome && dropped != 0)
  let t := if t.sched.status == .exited then t else retireRows s (applyWrites t r.writes) r.retire
  let s := s.putTeam { t with graft := appliedStatus t.graft r faulted spilled dropped }
  let s := if t.sched.status == .exited then s else acquireAt s t.place.core t.flow.did 2
  let s := if faulted then s.report t.tid 0x20 0 0 0 else s
  match sp with
  | none => s.opDone t.tid r.op
  | some p =>
    let cl := spillCluster s p.inst
    let p := { p with waiting := p.waiting.filter (· != t.tid), ops := p.ops ++ [(t.tid, r.op)] }
    settleJoin (s.modCluster cl fun c => { c with spills := c.spills.map fun q => if q.inst == p.inst then p else q }) cl p
/-- GRAFT_APPLICATION (R332). -/
def execGraftApplication (x : TeamArg) (s : State) : Out :=
  match s.team? x.tid with
  | none => .fault .noSuchUnit
  | some t => match t.graft.result with
    | some r => if graftReady s t then .next (applyGraft s t r) else .next s
    | none => .next s

/-- The bytes of a ring slot (R341). -/
def slotBytesOf (p : Spill) (r : List Elem) : List Byte :=
  let bs := r.flatMap fun e => natBytes 4 e.bits.toNat
  bs ++ List.replicate (p.slotBytes - bs.length) 0
/-- Where ring slot j lies. -/
def ringAddr (p : Spill) (j : Nat) : Nat := (p.base.toNat + j * p.slotBytes) % 2 ^ 64
/-- A row loaded from its ring slot: each register is poisoned when its sector is (R341). -/
def ringRow (s : State) (p : Spill) (j : Nat) (r : List Elem) : List Elem :=
  let tr := graftTrans s (graftAgent p.dom p.priv p.core) .read
  r.mapIdx fun i e => match readVa s tr (ringAddr p j + 4 * i) 4 with
    | .ok (_, b) => { e with poison := b }
    | .error _ => e
/-- Change what a JOIN owes. -/
def modSpill (s : State) (cluster inst : Nat) (f : Spill → Spill) : State :=
  s.modCluster cluster fun c => { c with spills := c.spills.map fun q => if q.inst == inst then f q else q }
/-- A launch goes from its cluster's intake. -/
def intakeDrop (s : State) (cluster uid : Nat) : State := s.modCluster cluster fun c => { c with intake := c.intake.filter (· != uid) }
/-- A child launch with the rows of the ring behind its credited ones (R340, R341). -/
def withRing (s : State) (p : Spill) (l : Launch) : Launch :=
  let rows := l.spawned ++ p.rows.mapIdx fun j r => ringRow s p j r
  let per := max 1 (l.pkt.rows * l.pkt.tpb)
  { l with spawned := rows, pkt := { l.pkt with plots := (rows.length + per - 1) / per } }
/-- All rows of a ring are written, or the rest dropped: the child launch receives them (R340, R341); one that receives no row is none, and one whose last plot was placed already leaves the intake (R276). -/
def spillDone (s : State) (cluster : Nat) (p : Spill) : State :=
  match p.child.or (s.launch? p.launch) with
  | none => s
  | some l =>
    let s' := lineAccess s (graftAgent p.dom p.priv p.core) .read p.base.toNat (p.rows.length * p.slotBytes)
    let l' := withRing s p l
    if l'.spawned.isEmpty then modSpill (intakeDrop (s.dropLaunch l.uid) cluster l.uid) cluster p.inst fun q => { q with launch := 0, child := none }
    else if p.child.isSome then modSpill s' cluster p.inst fun q => { q with child := some l' }
    else if l'.pkt.plots ≤ l'.next then intakeDrop (s'.putLaunch l') cluster l.uid
    else s'.putLaunch l'
/-- The first JOIN of a cluster whose child launch waits for room. -/
def waitingChild (s : State) (cluster : Nat) : Option Launch := (s.cluster cluster).spills.findSome? (·.child)
/-- The cluster at which a child launch of a number waits, first in turn and with room for it. -/
def childCluster (s : State) (uid : Nat) : Option (Nat × Launch) :=
  (List.range Config.clusters).findSome? fun c => ((waitingChild s c).filter fun l => l.uid == uid && childRoom s c l).map fun l => (c, l)
/-- A child launch that has waited is taken, and its JOIN settled (R338, R340). -/
def admitChild (s : State) (cluster : Nat) (l : Launch) : State :=
  settleJoins (takeChild (s.modCluster cluster fun c => { c with spills := c.spills.map fun q => if q.launch == l.uid then { q with child := none } else q }) cluster l) cluster
/-- The poison of the sectors that the first n bytes of a ring slot cover, once written: a sector is poisoned when a register that it holds is, of this slot or of the one before it, and clean otherwise (R341). -/
def ringMarks (s : State) (p : Spill) (tr : Trans) (n : Nat) : State :=
  let held := fun (j u : Nat) => (p.rows.getD j []).zipIdx.any fun e => e.1.poison && (ringAddr p j + 4 * e.2) / 32 == u
  (sectorPieces (ringAddr p p.next) n).foldl (fun s x => match tr x.1 with
    | .ok (pa, _) => if isAperture pa then s
                     else { s with mem := s.mem.mark (pa / 32) (held p.next (x.1 / 32) || held (p.next - 1) (x.1 / 32)) }
    | .error _ => s) s
/-- SPILL_RING_WRITE (R341): the overflow engine writes one row, and reads the ring when it was the last; a segment that is quiesced stalls it (R130). -/
def execSpillRingWrite (x : ClusterArg) (s : State) : Out :=
  match (s.cluster x.cluster).spills.find? fun p => p.next < p.rows.length with
  | none => .next s
  | some p =>
    let ag := graftAgent p.dom p.priv p.core
    let r := p.rows.getD p.next []
    let tr := graftTrans s ag .write
    let bs := slotBytesOf p r
    let w := writeClean (lineAccess s ag .write (ringAddr p p.next) bs.length) p.dom tr (ringAddr p p.next) bs
    let p' := match w.2 with
      | some _ => { p with rows := p.rows.take p.next, dropped := p.dropped + (p.rows.length - p.next) }
      | none => { p with next := p.next + 1 }
    let last := decide (p'.rows.length ≤ p'.next)
    if lineStalls s ag .write (ringAddr p p.next) bs.length || (last && lineStalls s ag .read p.base.toNat (p'.rows.length * p.slotBytes)) then .next s
    else
      let s := modSpill (ringMarks w.1 p tr (w.2.elim bs.length (·.2))) x.cluster p.inst fun _ => p'
      let s := if last then spillDone s x.cluster p' else s
      .next (settleJoins (s.drawn (64 * (p'.rows.length + 1))) x.cluster)

/-! ## Tiles -/

/-- Experts of a token's group that its logits choose, with their logits (R345). -/
def pickExperts (k : Token) : List (Nat × Word) :=
  let base := k.group * rEpg k.wds
  let l := k.logits.zipIdx.map fun x => (logitKey x.1, x.2)
  (topN (rK k.wds) (l.filter fun x => logitLive x.1)).map fun x =>
    let b := k.logits.getD x.2 0
    (base + x.2, if f32Nan b then 0xFF800000 else b)
/-- A tile closes when it is full or its time is over (R345). -/
def tileDue (s : State) (t : Tile) : Bool := decide (128 ≤ t.tokens.length) || decide (t.openedAt + 16 * t.close ≤ s.clock.ac)
/-- The tiles of a die that are open: a closed one that waits for its launch takes no more tokens (R345). -/
def openTiles (s : State) (die : Nat) : List Tile := (s.die die).tiles.filter fun t => !tileDue s t
/-- The open tile that a token joins for an expert. -/
def tileOf (s : State) (die : Nat) (k : Token) (e : Nat) : Option Tile := (openTiles s die).find? fun t => t.dom == k.dom && t.epkt == gPair k.wds 8 && t.expert == e
/-- Whether a token can be placed now: 64 open tiles are not passed (R345). -/
def tokenFits (s : State) (die : Nat) (k : Token) : Bool :=
  decide ((openTiles s die).length + ((pickExperts k).filter fun e => (tileOf s die k e.1).isNone).length ≤ 64)
/-- Put a token into the tile of an expert. -/
def joinTile (s : State) (die : Nat) (k : Token) (e sl : Nat) : State :=
  let k' := { k with slot := sl, expert := e }
  match tileOf s die k e with
  | some t => s.modDie die fun d => { d with tiles := d.tiles.map fun y => if y.key == t.key then { y with tokens := y.tokens ++ [k'] } else y }
  | none =>
    let t : Tile := ⟨s.uid, k.dom, gPair k.wds 8, e, [k'], s.clock.ac, gWd k.wds 7, none⟩
    { s with uid := s.uid + 1 }.modDie die fun d => { d with tiles := d.tiles ++ [t] }
/-- INGRESS_SELECT (R345): the selector of a die serves its next token; a segment that is quiesced stalls its headers (R130). -/
def execIngressSelect (x : DieArg) (s0 : State) : Out :=
  match (s0.die x.die).ingress with
  | [] => .next s0
  | k :: rest =>
    if !tokenFits s0 x.die k then .next s0
    else
      let s := s0.modDie x.die fun d => { d with ingress := rest }
      let core := match s.team? k.tid with
        | some t => t.place.core
        | none => 64 * x.die
      let ag := graftAgent k.dom k.priv core
      let es := pickExperts k
      if slotsStall s ag .write k.wds ((List.range (rK k.wds)).map fun q => (k.t, k.rank * rK k.wds + q)) 16 then .next s0
      else .next ((List.range (rK k.wds)).foldl (fun s q =>
        let sl := k.rank * rK k.wds + q
        match es[q]? with
        | some e => joinTile (putHeader s ag k.wds k.t sl 1 (some e)) x.die k e.1 sl
        | none => putHeader s ag k.wds k.t sl 0 none) s)
/-- The registers of a row of a tile's task (R346). -/
def tileRow (k : Token) : List Elem :=
  let a := slotAddr k.wds k.t k.slot
  let lane := fun i => k.payload.getD i Elem.zero
  [Elem.clean (BitVec.ofNat 32 k.t), Elem.clean (BitVec.ofNat 32 k.expert), Elem.clean (BitVec.ofNat 32 a), Elem.clean (BitVec.ofNat 32 (a / 2 ^ 32))]
    ++ (List.range ((k.payload.length + 1) / 2)).map fun i =>
      ⟨BitVec.ofNat 32 ((lane (2 * i)).bits.toNat % 65536 + 65536 * ((lane (2 * i + 1)).bits.toNat % 65536)), (lane (2 * i)).poison || (lane (2 * i + 1)).poison⟩
/-- A packet has the shape of a tile's task (R346). -/
def tilePacketOk (w : List Word) (dm : Nat) : Bool :=
  let p := packetOf w
  !packetBad w true && p.plots == 1 && p.beds == 1 && p.tpb == 1 && p.rows == 128 && p.nstage == 0 && p.dep == 0 && pWd w 14 == 0 && pWd w 15 == 0
    && decide (4 + (dm + 1) / 2 ≤ p.vregs)
/-- Write STATUS into the slots of a tile's tokens, as the governor does (R302, R346). -/
def putTileStatus (s : State) (l : List Token) (status : Nat) : State :=
  l.foldl (fun s k => (devWrite s k.dom (domTranslate s k.dom true .write) (slotAddr k.wds k.t k.slot) (natBytes 4 status) fun _ _ => false).1) s
/-- The packet of a tile's expert as it stands now; none when it cannot be read (R346). -/
def tilePacket (s : State) (t : Tile) : List Byte :=
  match readVa s (domTranslate s t.dom true .read) ((t.epkt.toNat + 128 * t.expert) % 2 ^ 64) 128 with
  | .error _ => []
  | .ok b => b.1
/-- The launch of a closed tile from its packet (R346): its one team takes as many rows as the tile has tokens. -/
def tileLaunch (uid die : Nat) (t : Tile) (w : List Word) : Launch :=
  let l := newLaunch uid (.tile die) t.dom ((t.tokens.map (·.nest)).foldl max 0 + 1) (t.tokens.all (·.priv)) w
  { l with spawned := t.tokens.map tileRow, tokens := t.tokens, pkt := { l.pkt with rows := t.tokens.length } }
/-- The task of a closed tile is launched from the packet that was read, or the tile fails (R346). -/
def launchTile (s : State) (die : Nat) (t : Tile) (bs : List Byte) : State :=
  let s := s.modDie die fun d => { d with tiles := d.tiles.filter fun y => y.key != t.key }
  let w := bytesWords 32 bs
  let l := tileLaunch s.uid die t w
  if bs.isEmpty || !tilePacketOk w ((t.tokens.head?.map fun k => rDm k.wds).getD 1) || !everFits s l then putTileStatus s t.tokens 3
  else { s with uid := s.uid + 1 }.addLaunch l
/-- TILE_CLOSE (R345, R346): a tile closes and its expert's packet is read; its task is launched when a launch more may be in progress (R273). -/
def execTileClose (x : TileArg) (s : State) : Out :=
  match (s.die x.die).tiles.find? fun t => t.key == x.tile with
  | none => .next s
  | some t =>
    if !tileDue s t then .next s
    else
      let bs := t.packet.getD (tilePacket s t)
      let s' := if t.packet.isSome then s
                else (devReads s t.dom (domTranslate s t.dom true .read) ((t.epkt.toNat + 128 * t.expert) % 2 ^ 64) 128).drawn 128
      if s.gov.launches.length < 1024 then .next (launchTile s' x.die t bs)
      else .next (s'.modDie x.die fun d => { d with tiles := d.tiles.map fun y => if y.key == t.key then { y with packet := some bs } else y })

/-! ## Status -/

/-- The team's plot instance awaits a halted team that has not arrived (R348). -/
def graftAwaits (s : State) (t : Team) : Bool :=
  (s.cluster (clusterOf t.place.core)).insts.any fun x => x.plot == t.place.plot && x.scope == 2 && x.deposits.any (fun d => d.tid == t.tid)
    && s.teams.any fun u => u.place.plot == x.plot && teamHalted u && !x.deposits.any fun d => d.tid == u.tid
/-- The record of GSTAT (R348). -/
def gstatRecord (s : State) (t : Team) : List Word :=
  let g := t.graft
  [ 256 * g.kind + g.last, g.inrows, g.outn, g.spilled, g.dropped, g.nans,
    (if graftAwaits s t then 2 else 0) + (if g.pending.isSome then 1 else 0), 0 ].map (BitVec.ofNat 32)
/-- GSTAT (R348). -/
def execGstat (f : EForm) (s : State) : Out :=
  issue (.gstat f) s f.stl (eOk 8 f) (eSuppressed f) fun s t => finish s (t.putRecord f.rbase.toNat (gstatRecord s t)) f.stl 1

end Sys2Proof.Machine
end

