-- ==== Sys2Proof/Machine/Scalar.lean ====
section
/-! DEFINITION. The scalar instructions (R100-R103). -/

namespace Sys2Proof.Machine

/-- Width of an S instruction's values (R101). -/
def sWidth (ty : STy) : Nat := if STy.wide ty then 64 else 32
/-- TY 0 and 3 are signed (R101). -/
def sSigned (ty : STy) : Bool := ty == .i32 || ty == .i64
/-- The bits of a scalar operand, a pair under TY 3 and 4. -/
def sBits (t : Team) (ty : STy) (r : Nat) : DWord := if STy.wide ty then t.xget r else (t.sget r).bits.setWidth 64
/-- The poison of a scalar operand. -/
def sPois (t : Team) (ty : STy) (r : Nat) : Bool := if STy.wide ty then t.xpois r else (t.sget r).poison
/-- The immediate: sign-extended for i64, zero-extended otherwise (R43). -/
def sImm (ty : STy) (imm : Word) : DWord := if ty == .i64 then imm.signExtend 64 else imm.setWidth 64
/-- The second source. -/
def sB (t : Team) (f : SForm) : DWord := if f.ib then sImm f.ty f.imm else sBits t f.ty f.b.toNat
/-- Its poison. -/
def sBPois (t : Team) (f : SForm) : Bool := !f.ib && sPois t f.ty f.b.toNat
/-- Write a result of the type's width. -/
def sWrite (t : Team) (ty : STy) (r : Nat) (x : DWord) (p : Bool) : Team :=
  if STy.wide ty then t.xset r x p else t.sset r ⟨x.extractLsb' 0 32, p⟩

/-- An integer operation on W bits from A, B and D, as integers by TY; the result wraps (R100). -/
def sInt (op : Nat → Int → Int → Int → Int) (readsB readsD : Bool) (f : SForm) (s : State) (t : Team) : Out :=
  let w := sWidth f.ty
  let v := fun (x : DWord) => intOf w (sSigned f.ty) x.toNat
  let d := sBits t f.ty f.d.toNat
  let r := op w (v (sBits t f.ty f.a.toNat)) (if readsB then v (sB t f) else 0) (v d)
  let p := sPois t f.ty f.a.toNat || (readsB && sBPois t f) || (readsD && sPois t f.ty f.d.toNat)
  finish s (sWrite t f.ty f.d.toNat (BitVec.ofNat 64 (intBits w r)) p) f.stl 1

/-- A * B + D. -/
def jMad (_w : Nat) (a b d : Int) : Int := a * b + d
/-- Quotient (R101): all ones for a divisor of 0. -/
def jDiv (_w : Nat) (a b _d : Int) : Int := if b = 0 then -1 else Int.tdiv a b
/-- Remainder (R101). -/
def jRem (_w : Nat) (a b _d : Int) : Int := if b = 0 then a else Int.tmod a b
/-- Bitwise and. -/
def jAnd (w : Nat) (a b _d : Int) : Int := (Nat.land (unsg w a) (unsg w b) : Nat)
/-- Bitwise or. -/
def jOr (w : Nat) (a b _d : Int) : Int := (Nat.lor (unsg w a) (unsg w b) : Nat)
/-- Bitwise exclusive or. -/
def jXor (w : Nat) (a b _d : Int) : Int := (Nat.xor (unsg w a) (unsg w b) : Nat)
/-- Position in an S field control word (R101). -/
def jPos (b : Int) : Nat := unsg 64 b / 65536 % 64
/-- Width in an S field control word, cut at bit W - 1. -/
def jWid (w : Nat) (b : Int) : Nat := min (unsg 64 b % 64 + 1) (w - jPos b)
/-- Field extract, sign-extended when signed. -/
def jBfx (signed : Bool) (w : Nat) (a b _d : Int) : Int :=
  if w ≤ jPos b then 0 else intOf (jWid w b) signed (unsg w a / 2 ^ jPos b)
/-- Field insert into D. -/
def jBfi (w : Nat) (a b d : Int) : Int :=
  if w ≤ jPos b then d else
  let hi := unsg w d / 2 ^ (jPos b + jWid w b) * 2 ^ (jPos b + jWid w b)
  (hi + unsg w a % 2 ^ jWid w b * 2 ^ jPos b + unsg w d % 2 ^ jPos b : Nat)

/-- Result of a scalar float instruction: rounded by FMT.rounding, never stochastic (R100). -/
def sFloat (t : Team) (x : FVal) : DWord := BitVec.ofNat 64 (toFloat fp32 ⟨fmtMode t, false, fmtFtz t, none⟩ x)
/-- A scalar float operand (R94). -/
def sFVal (t : Team) (x : DWord) : FVal := numIn fp32 (fmtFtz t) (x.extractLsb' 0 32).toNat
/-- SMIN and SMAX: by TY, minimumNumber or maximumNumber for f32. -/
def sMinMax (big : Bool) (f : SForm) (s : State) (t : Team) : Out :=
  if f.ty == .f32 then
    let a := sFVal t (sBits t f.ty f.a.toNat)
    let b := sFVal t (sB t f)
    finish s (sWrite t f.ty f.d.toNat (sFloat t (if big then a.maxN b else a.minN b)) (sPois t f.ty f.a.toNat || sBPois t f)) f.stl 1
  else sInt (if big then iMax else iMin) true false f s t
/-- A compare: q(D - 8) := A cond B; a poisoned source raises 0x38 (R100, R101). -/
def sCompare (rel : Rel) (f : SForm) (s : State) (t : Team) : Out :=
  if sPois t f.ty f.a.toNat || sBPois t f then raise s t 0x38
  else finish s (t.qset (f.d.toNat - 8) (condHolds f.sub rel)) f.stl 1

/-- SADD (R101). -/
def execSadd (f : SForm) (s : State) : Out := issue (.sadd f) s f.stl (sDAB f) (sSuppressed f) (sInt iAdd true false f)
/-- SSUB (R101). -/
def execSsub (f : SForm) (s : State) : Out := issue (.ssub f) s f.stl (sDAB f) (sSuppressed f) (sInt iSub true false f)
/-- SMUL (R101). -/
def execSmul (f : SForm) (s : State) : Out := issue (.smul f) s f.stl (sDAB f) (sSuppressed f) (sInt iMul true false f)
/-- SMULH (R101). -/
def execSmulh (f : SForm) (s : State) : Out := issue (.smulh f) s f.stl (sDAB f) (sSuppressed f) (sInt iMulh true false f)
/-- SMAD (R101). -/
def execSmad (f : SForm) (s : State) : Out := issue (.smad f) s f.stl (sDAB f) (sSuppressed f) (sInt jMad true true f)
/-- SDIV (R101). -/
def execSdiv (f : SForm) (s : State) : Out := issue (.sdiv f) s f.stl (sDAB f) (sSuppressed f) (sInt jDiv true false f)
/-- SREM (R101). -/
def execSrem (f : SForm) (s : State) : Out := issue (.srem f) s f.stl (sDAB f) (sSuppressed f) (sInt jRem true false f)
/-- SAND (R101). -/
def execSand (f : SForm) (s : State) : Out := issue (.sand f) s f.stl (sDAB f) (sSuppressed f) (sInt jAnd true false f)
/-- SOR (R101). -/
def execSor (f : SForm) (s : State) : Out := issue (.sor f) s f.stl (sDAB f) (sSuppressed f) (sInt jOr true false f)
/-- SXOR (R101). -/
def execSxor (f : SForm) (s : State) : Out := issue (.sxor f) s f.stl (sDAB f) (sSuppressed f) (sInt jXor true false f)
/-- SSHL (R101). -/
def execSshl (f : SForm) (s : State) : Out := issue (.sshl f) s f.stl (sDAB f) (sSuppressed f) (sInt iShl true false f)
/-- SSHR (R101). -/
def execSshr (f : SForm) (s : State) : Out := issue (.sshr f) s f.stl (sDAB f) (sSuppressed f) (sInt iShr true false f)
/-- SSRA (R101). -/
def execSsra (f : SForm) (s : State) : Out := issue (.ssra f) s f.stl (sDAB f) (sSuppressed f) (sInt iSra true false f)
/-- SMIN (R101). -/
def execSmin (f : SForm) (s : State) : Out := issue (.smin f) s f.stl (sDAB f) (sSuppressed f) (sMinMax false f)
/-- SMAX (R101). -/
def execSmax (f : SForm) (s : State) : Out := issue (.smax f) s f.stl (sDAB f) (sSuppressed f) (sMinMax true f)
/-- SCLZ (R101). -/
def execSclz (f : SForm) (s : State) : Out := issue (.sclz f) s f.stl (sDA f) (sSuppressed f) (sInt iClz false false f)
/-- SPOP (R101). -/
def execSpop (f : SForm) (s : State) : Out := issue (.spop f) s f.stl (sDA f) (sSuppressed f) (sInt iPop false false f)
/-- SBFX (R101). -/
def execSbfx (f : SForm) (s : State) : Out := issue (.sbfx f) s f.stl (sDAB f) (sSuppressed f) (sInt (jBfx (sSigned f.ty)) true false f)
/-- SBFI (R101). -/
def execSbfi (f : SForm) (s : State) : Out := issue (.sbfi f) s f.stl (sDAB f) (sSuppressed f) (sInt jBfi true true f)
/-- SSEL: the chosen source with its poison (R101, R201). -/
def execSsel (f : SForm) (s : State) : Out :=
  issue (.ssel f) s f.stl (sDAB f) (sSuppressed f) fun s t =>
    let c := t.qget f.sub.toNat
    let x := if c then sBits t f.ty f.a.toNat else sB t f
    let p := if c then sPois t f.ty f.a.toNat else sBPois t f
    finish s (sWrite t f.ty f.d.toNat x p) f.stl 1
/-- SMOV (R100, R101). -/
def execSmov (f : SForm) (s : State) : Out :=
  issue (.smov f) s f.stl (fun t => qHeaderOk t f.pq && sOpOk t f f.d && (f.ib || sOpOk t f f.a)) (sSuppressed f) fun s t =>
    let x := if f.ib then sImm f.ty f.imm else sBits t f.ty f.a.toNat
    finish s (sWrite t f.ty f.d.toNat x (!f.ib && sPois t f.ty f.a.toNat)) f.stl 1
/-- SCMP (R101). -/
def execScmp (f : SForm) (s : State) : Out :=
  issue (.scmp f) s f.stl (sCmpOk f) (sSuppressed f) fun s t =>
    let v := fun (x : DWord) => intOf (sWidth f.ty) (sSigned f.ty) x.toNat
    sCompare (relInt (v (sBits t f.ty f.a.toNat)) (v (sB t f))) f s t
/-- SADDX: D and A are pairs, B single (R101). -/
def execSaddx (f : SForm) (s : State) : Out :=
  issue (.saddx f) s f.stl (fun t => qHeaderOk t f.pq && xregOk t f.d.toNat && xregOk t f.a.toNat && (f.ib || sregOk t f.b.toNat)) (sSuppressed f)
    fun s t =>
      let b := intOf 32 (f.ty == .i32) (sB t f).toNat
      finish s (t.xset f.d.toNat (t.xget f.a.toNat + BitVec.ofInt 64 b) (t.xpois f.a.toNat || sBPois t f)) f.stl 1
/-- SMADX: D a pair, A and B single (R101). -/
def execSmadx (f : SForm) (s : State) : Out :=
  issue (.smadx f) s f.stl (fun t => qHeaderOk t f.pq && xregOk t f.d.toNat && sregOk t f.a.toNat && (f.ib || sregOk t f.b.toNat)) (sSuppressed f)
    fun s t =>
      let a := intOf 32 (f.ty == .i32) (sBits t f.ty f.a.toNat).toNat
      let b := intOf 32 (f.ty == .i32) (sB t f).toNat
      let p := t.xpois f.d.toNat || sPois t f.ty f.a.toNat || sBPois t f
      finish s (t.xset f.d.toNat (t.xget f.d.toNat + BitVec.ofInt 64 (a * b)) p) f.stl 1
/-- A vector operand of SRDV or SWRV: an even register of a pair under TY 3 and 4 (R103). -/
def vMoveOk (t : Team) (ty : STy) (r : Nat) : Bool :=
  if STy.wide ty then r % 2 == 0 && decide (r + 1 < 256) && vregOk t (r + 1) else decide (r < 256) && vregOk t r
/-- The row that SRDV reads: the second source, a scalar or IMM32 (R43, R100, R101, R103). DEDUCED, log 66: R100 gives every second source its immediate form, and R103 names the scalar. -/
def srdvRow (t : Team) (f : SForm) : Nat := if f.ib then f.imm.toNat else (t.sget f.b.toNat).bits.toNat
/-- SRDV (R103). -/
def execSrdv (f : SForm) (s : State) : Out :=
  issue (.srdv f) s f.stl (fun t => qHeaderOk t f.pq && sOpOk t f f.d && vMoveOk t f.ty f.a.toNat && (f.ib || sOpOk t f f.b)) (sSuppressed f)
    fun s t =>
      let t := t.awaitRegs (f.a.toNat :: if STy.wide f.ty then [f.a.toNat + 1] else [])
      let row := srdvRow t f
      if t.foot.rows ≤ row then raise s t 0x02
      else
        let lo := t.vget f.a.toNat row
        let hi := t.vget (f.a.toNat + 1) row
        let p := (!f.ib && (t.sget f.b.toNat).poison) || lo.poison || (STy.wide f.ty && hi.poison)
        finish s (sWrite t f.ty f.d.toNat (hi.bits ++ lo.bits) p) f.stl 1
/-- SWRV writes every active row (R103). -/
def execSwrv (f : SForm) (s : State) : Out :=
  issue (.swrv f) s f.stl (fun t => qHeaderOk t f.pq && vMoveOk t f.ty f.d.toNat && sOpOk t f f.a) (sSuppressed f) fun s t =>
    let x := sBits t f.ty f.a.toNat
    let p := sPois t f.ty f.a.toNat
    let t := overwrite t (f.d.toNat :: if STy.wide f.ty then [f.d.toNat + 1] else [])
    let t := writeCol t f.d.toNat t.flow.mask fun _ => ⟨x.extractLsb' 0 32, p⟩
    let t := if STy.wide f.ty then writeCol t (f.d.toNat + 1) t.flow.mask fun _ => ⟨x.extractLsb' 32 32, p⟩ else t
    finish s t f.stl 1
/-- SFADD (R101). -/
def execSfadd (f : SForm) (s : State) : Out :=
  issue (.sfadd f) s f.stl (sDAB f) (sSuppressed f) fun s t =>
    let r := FVal.add (fmtMode t) (sFVal t (sBits t f.ty f.a.toNat)) (sFVal t (sB t f))
    finish s (sWrite t f.ty f.d.toNat (sFloat t r) (sPois t f.ty f.a.toNat || sBPois t f)) f.stl 1
/-- SFMA (R101). -/
def execSfma (f : SForm) (s : State) : Out :=
  issue (.sfma f) s f.stl (sDAB f) (sSuppressed f) fun s t =>
    let r := FVal.add (fmtMode t) ((sFVal t (sBits t f.ty f.a.toNat)).mul (sFVal t (sB t f))) (sFVal t (sBits t f.ty f.d.toNat))
    let p := sPois t f.ty f.a.toNat || sBPois t f || sPois t f.ty f.d.toNat
    finish s (sWrite t f.ty f.d.toNat (sFloat t r) p) f.stl 1
/-- SFCMP (R101). -/
def execSfcmp (f : SForm) (s : State) : Out :=
  issue (.sfcmp f) s f.stl (sCmpOk f) (sSuppressed f) fun s t =>
    sCompare ((sFVal t (sBits t f.ty f.a.toNat)).rel (sFVal t (sB t f))) f s t
/-- The conversion of SCVT from TY to SUB (R102). -/
def scvtBits (t : Team) (ty : STy) (sub : BitVec 2) (a : Word) : Word :=
  match ty, sub.toNat with
  | .i32, 0 => a
  | .n32, 1 => a
  | .f32, 2 => a
  | .f32, d => BitVec.ofNat 32 (toIntBits 32 (d == 0) ⟨fmtMode t, true, fmtFtz t, none⟩ (numIn fp32 (fmtFtz t) a.toNat))
  | ty, 2 => (sFloat t (numInt (wordInt (ty == .i32) a))).extractLsb' 0 32
  | ty, d => BitVec.ofNat 32 (intResult 32 (d == 0) (fmtSat t) (wordInt (ty == .i32) a))
/-- SCVT (R102). -/
def execScvt (f : SForm) (s : State) : Out :=
  issue (.scvt f) s f.stl (sDA f) (sSuppressed f) fun s t =>
    let a := t.sget f.a.toNat
    finish s (t.sset f.d.toNat ⟨scvtBits t f.ty f.sub a.bits, a.poison⟩) f.stl 1

end Sys2Proof.Machine
end

