-- ==== Sys2Proof/Machine/Memory.lean ====
section
/-! DEFINITION. The M instructions (R160-R187): row addresses, checks, loads, stores, atomics, FIFO batches, prefetches, monitors and cache line operations. -/

namespace Sys2Proof.Machine

/-! ## Fields -/

/-- log2 of the bytes of an access (R161). -/
def widthLog (w : Width) : Nat := match w with
  | .b8 => 0 | .b16 => 1 | .b32 => 2 | .b64 => 3 | .b128 => 4
/-- Bytes of an access (R161). -/
def widthBytes (w : Width) : Nat := 2 ^ widthLog w
/-- Registers that an access of a width takes (R161). -/
def widthRegs (w : Width) : Nat := match w with
  | .b64 => 2 | .b128 => 4 | _ => 1
/-- The registers of DATA, n of them. -/
def dataRegs (f : MForm) (n : Nat) : List Nat := (List.range n).map (f.data.toNat + ·)
/-- The registers that form addresses. -/
def indexRegs (f : MForm) : List Nat := if f.index = 0xFF then [] else [f.index.toNat]
/-- Legal operands of an M form whose DATA takes n registers, aligned to al (R39, R44, R161). -/
def mOk (n al : Nat) (f : MForm) (t : Team) : Bool :=
  t.predOk f.prd.index.toNat && xregOk t f.base.toNat && (f.index == 0xFF || vregOk t f.index.toNat)
    && (n == 0 || (f.data.toNat % al == 0 && runOk t f.data.toNat n))
/-- Legal operands of a load or a store. -/
def mDataOk (f : MForm) (t : Team) : Bool := mOk (widthRegs f.width) (widthRegs f.width) f t
/-- ORDER is acquire (R44). -/
def isAcq (o : Order) : Bool := o == .acq || o == .ar
/-- ORDER is release (R44). -/
def isRel (o : Order) : Bool := o == .rel || o == .ar
/-- Scope of an access; a scratchpad or FIFO access acts as .plot when wider (R179). -/
def mScope (f : MForm) : Nat := if f.space == .global then scopeNat f.scope else min 2 (scopeNat f.scope)

/-! ## Addresses and checks -/

/-- The address of a row: base, index element and offset (R161); a packed form steps by the row instead (R180). -/
def rowAddr (t : Team) (f : MForm) (packed : Bool) (row : Nat) : DWord :=
  t.xget f.base.toNat + (if packed then BitVec.ofNat 64 (row * widthBytes f.width)
                         else if f.index = 0xFF then 0 else ((t.vget f.index.toNat row).bits.signExtend 64))
    + f.off.signExtend 64
/-- Whether poison would reach a row's address (R161). -/
def rowPois (t : Team) (f : MForm) (row : Nat) : Bool :=
  t.xpois f.base.toNat || (f.index != 0xFF && (t.vget f.index.toNat row).poison)

/-- Where a checked row's access goes: a physical address with its policy, or a scratchpad place. -/
inductive Target where
  | mem (pa pol : Nat)
  | sp (p : SpPlace)
  deriving DecidableEq, Repr
/-- A participating row with its address and its target or fault code. -/
structure RowAcc where
  row : Nat
  addr : DWord
  tgt : Except Nat Target
  deriving DecidableEq

/-- The constant window's address (R163), or the fault code. -/
def constTarget (s : State) (t : Team) (addr : DWord) (k : Nat) : Except Nat Target :=
  if t.stamp.arg = 0 || 0x10000 ≤ addr.toNat then .error 0x09
  else match translate s t.agent .read (t.stamp.arg + addr).toNat k with
    | .error c => .error c
    | .ok (pa, pol) => .ok (.mem pa pol)
/-- Check a row's access to a space (R177): the target or the fault code. -/
def spaceTarget (s : State) (t : Team) (sp : Space) (acc : Acc) (addr : DWord) (k : Nat) : Except Nat Target :=
  match sp with
  | .global => match translate s t.agent acc addr.toNat k with
    | .error c => .error c
    | .ok (pa, pol) => .ok (.mem pa pol)
  | .scratchpad =>
    if bankQuiesced s (clusterOf t.place.core) t.flow.did addr.toNat then .ok (.sp ⟨.banks, addr.toNat - 0x400000⟩)
    else match spPlace s t.spAgent addr.toNat with
      | .error c => .error c
      | .ok p => .ok (.sp p)
  | .constant => constTarget s t addr k
  | .fifo => .error 0x09
/-- Check one row: 0x38, then 0x0B, then the space (R177). -/
def rowAcc (s : State) (t : Team) (f : MForm) (packed : Bool) (acc : Acc) (row : Nat) : RowAcc :=
  let a := rowAddr t f packed row
  ⟨row, a, if rowPois t f row then .error 0x38 else if a.toNat % widthBytes f.width != 0 then .error 0x0B
           else spaceTarget s t f.space acc a row⟩
/-- The participating rows of a memory instruction, checked. -/
def rowAccs (s : State) (t : Team) (f : MForm) (packed : Bool) (acc : Acc) : List RowAcc :=
  (rowList (t.part f.prd) t.foot.rows).map (rowAcc s t f packed acc)
/-- The fault code of a checked row. -/
def RowAcc.code (r : RowAcc) : Option Nat := match r.tgt with
  | .error c => some c
  | .ok _ => none
/-- When any row faults the instruction raises the code of the lowest, with its address, and names every row that faults (R177). -/
def faultRows (l : List RowAcc) : Option (Nat × RowMask × DWord) :=
  match l.filter fun r => r.code.isSome with
  | [] => none
  | r :: rest => some (r.code.getD 0, maskOf ((r :: rest).map (·.row)), r.addr)
/-- What holds one row back: a quiesced bank of scratchpad or of a segment that would serve it, the scoreboard or a watermark (R25, R26, R130). -/
def rowHeld (s : State) (t : Team) (f : MForm) (write fe : Bool) (g : Target) : Option Hold :=
  let core := t.place.core
  let n := widthBytes f.width
  match g with
  | .sp p =>
    if p.home == .banks && bankQuiesced s (clusterOf core) t.flow.did (p.off + 0x400000) then some .quiesce
    else if write then writeHeld s core t.flow.did p.home p.off n (issuePoint s t)
    else readHeld s core t.flow.did p.home p.off n (issuePoint s t) fe
  | .mem pa pol =>
    let segment := f.space == .global && if write then decide (2 ≤ mScope f) || pol != 0 else !l1Serves s core t.flow.did (mScope f) pol pa n
    if segment && segStalls s core pol pa then some .quiesce else none
/-- What holds the rows back, or the release that goes before them (R130, R167). -/
def rowsHeld (s : State) (t : Team) (f : MForm) (write fe : Bool) (l : List RowAcc) : Option Hold :=
  if isRel f.order && !l.isEmpty && releaseStalls s t.place.core t.flow.did (mScope f) then some .quiesce
  else l.findSome? fun r => match r.tgt with
    | .ok g => rowHeld s t f write fe g
    | .error _ => none
/-- The scratchpad accesses of checked rows that are held (R213). -/
def heldAccs (f : MForm) (write : Bool) (l : List RowAcc) : List HeldAcc :=
  l.filterMap fun r => match r.tgt with
    | .ok (.sp p) => some ⟨p.home, p.off, widthBytes f.width, write⟩
    | _ => none

/-- The lines that a load or, with write, a store or an atomic takes into the L1 (R165, R166). -/
def l1Lines (f : MForm) (write : Bool) (l : List (Nat × DWord × Target)) : List Nat :=
  l.filterMap fun x => match x.2.2 with
    | .mem pa pol => if f.space == .global && pol == 0 && !isAperture pa && (write || decide (mScope f ≤ 1)) then some (pa / 128) else none
    | .sp _ => none
/-- The L1 has no room for the lines of a memory instruction while a segment is quiesced to which it would write back (R130, R165). -/
def l1Full (s : State) (t : Team) (f : MForm) (write : Bool) (l : List (Nat × DWord × Target)) : Bool :=
  evictStalls s t.place.core t.flow.did (l1Lines f write l)

/-! ## Performing the rows -/

/-- The targets of checked rows. -/
def okRows (l : List RowAcc) : List (Nat × DWord × Target) := l.filterMap fun r => match r.tgt with
  | .ok g => some (r.row, r.addr, g)
  | .error _ => none
/-- Bytes and poison that a load finds at a target, with the team's own stores (R166, R176, R262). -/
def loadTarget (s : State) (t : Team) (scope n : Nat) (row : Nat) (g : Target) : List Byte × Bool :=
  match g with
  | .mem pa pol => loadBytes s t.place.core t.flow.did scope pol pa n row
  | .sp p => spRead s (clusterOf t.place.core) p n
/-- Store bytes at a target (R166, R176). -/
def storeTarget (s : State) (t : Team) (scope : Nat) (g : Target) (bs : List Byte) (poison : Bool) : State :=
  match g with
  | .mem pa pol => storeBytes s t.place.core t.flow.did scope pol pa bs poison
  | .sp p => spWrite s (clusterOf t.place.core) p bs poison
/-- Elements of a loaded value: low word first, zero-extended (R161, R180). -/
def loadElem (bs : List Byte) (poison : Bool) (i : Nat) : Elem := ⟨BitVec.ofNat 32 (bytesNat ((bs.drop (4 * i)).take 4)), poison⟩
/-- The bytes of DATA in a row, from a register on. -/
def dataBytes (t : Team) (r n row : Nat) : List Byte :=
  (natBytes 16 (bytesNat ((List.range 4).flatMap fun i => natBytes 4 (t.vget (r + i) row).bits.toNat))).take n
/-- Whether an element of DATA in a row is poisoned. -/
def dataPois (t : Team) (r n row : Nat) : Bool := (List.range n).any fun i => (t.vget (r + i) row).poison
/-- Write loaded rows into DATA. -/
def writeRows (t : Team) (f : MForm) (n : Nat) (l : List (Nat × List Byte × Bool)) : Team :=
  let t := overwrite t (dataRegs f n)
  (List.range n).foldl (fun t i => t.vsetAll (f.data.toNat + i) (l.map fun x => (x.1, loadElem x.2.1 x.2.2 i))) t
/-- Add a line with its policy; a line named under two policies keeps the lower. -/
def addLine (l : List (Nat × Nat)) (x : Nat × Nat) : List (Nat × Nat) :=
  if l.any (fun y => y.1 == x.1) then l.map fun y => if y.1 == x.1 then (y.1, min y.2 x.2) else y else l ++ [x]
/-- The distinct lines of the rows' global targets that pass a test, in row order (R323). -/
def linesOf (l : List (Nat × DWord × Target)) (p : Nat → Nat → Bool) : List (Nat × Nat) :=
  (l.filterMap fun x => match x.2.2 with
    | .mem pa pol => if p pa pol then some (pa / 128, pol) else none
    | .sp _ => none).foldl addLine []
/-- The physical addresses of the rows' targets on aperture pages. -/
def apertureRows (l : List (Nat × DWord × Target)) : List Nat :=
  l.filterMap fun x => match x.2.2 with
    | .mem pa _ => if isAperture pa then some pa else none
    | .sp _ => none
/-- Loads are requested: the L1 lines that serve are renewed (R165), every other line takes one request (R166, R323), and reads of aperture pages go out (R355). -/
def requestLoads (s : State) (t : Team) (scope n : Nat) (l : List (Nat × DWord × Target)) : State :=
  let core := t.place.core
  let dom := t.flow.did
  let miss := linesOf l fun pa pol => !l1Serves s core dom scope pol pa n && !isAperture pa
  let hit := (linesOf l fun pa pol => l1Serves s core dom scope pol pa n).filter fun x => !miss.any fun y => y.1 == x.1
  let s := hit.foldl (fun s x => l1Touch s core dom x.1) s
  let s := miss.foldl (fun s x => loadLine s core dom scope x.2 x.1) s
  (apertureRows l).foldl (fun s pa => readOut s dom pa n) s
/-- Line requests of stores and atomics that are performed at the segment or wider (R323). -/
def requestStores (s : State) (t : Team) (scope : Nat) (l : List (Nat × DWord × Target)) : State :=
  (linesOf l fun pa pol => (2 ≤ scope || pol != 0) && !isAperture pa).foldl (fun s x => lineWrite s t.place.core t.flow.did x.2 (x.1 * 128)) s
/-- The virtual address that an access of a row translates: its own, or for constant space that in the launch's argument buffer (R163, R173). -/
def accVa (t : Team) (f : MForm) (a : DWord) : Option Nat := match f.space with
  | .global => some a.toNat
  | .constant => if t.stamp.arg = 0 || 0x10000 ≤ a.toNat then none else some (t.stamp.arg + a).toNat
  | _ => none
/-- The translations that rows ask for at some addresses are looked up and kept (R175). -/
def tlbAddrs (s : State) (t : Team) (f : MForm) (l : List DWord) : State :=
  l.foldl (fun s a => match accVa t f a with
    | some va => tlbFill s t.agent va
    | none => s) s
/-- The translations of the rows that go on. -/
def tlbRows (s : State) (t : Team) (f : MForm) (l : List (Nat × DWord × Target)) : State := tlbAddrs s t f (l.map (·.2.1))
/-- The translations of every row whose check gets to the walk (R177), those that a row's fault ends included. -/
def walkRows (s : State) (t : Team) (f : MForm) (l : List RowAcc) : State :=
  tlbAddrs s t f ((l.filter fun r => !rowPois t f r.row && r.addr.toNat % widthBytes f.width == 0).map (·.addr))
/-- Free values that one M instruction may use. -/
def mDraws : Nat := 2 ^ 20
/-- The acquire of a load or an atomic after it (R167). -/
def acquireBy (s : State) (t : Team) (f : MForm) (any : Bool) : State :=
  if isAcq f.order && any then acquireAt s t.place.core t.flow.did (mScope f) else s
/-- The release of a store or an atomic before it (R167). -/
def releaseBy (s : State) (t : Team) (f : MForm) (any : Bool) : State :=
  if isRel f.order && any then releaseAt s t.place.core t.flow.did (mScope f) else s
/-- Check rows, then hold, with the accesses that later copies wait for (R213), or go on (R177, R40). -/
def checked (s : State) (t : Team) (f : MForm) (write fe : Bool) (l : List RowAcc) (k : List (Nat × DWord × Target) → Out) : Out :=
  match faultRows l with
  | some (c, m, a) => raiseRows (walkRows s t f l) t c m (some a)
  | none => match rowsHeld s t f write fe l with
    | some h => holdTeam s { t with sched := { t.sched with waits := heldAccs f write l } } h
    | none => k (okRows l)

/-! ## Loads and stores -/

/-- A granule that a .keep or .take load names (R178). -/
def granuleOf (p : SpPlace) : SpPlace := ⟨p.home, p.off / 16 * 16⟩
/-- The granules of the rows. -/
def granules (l : List (Nat × DWord × Target)) : List SpPlace :=
  (l.filterMap fun x => match x.2.2 with
    | .sp p => some (granuleOf p)
    | .mem _ _ => none).eraseDups
/-- LD, LDS and LDP (R180): check, wait, read every row, then write DATA. -/
def loadBody (f : MForm) (packed : Bool) (s : State) (t : Team) : Out :=
  let t := t.awaitRegs (indexRegs f)
  let fe := f.space == .scratchpad && f.qual != 0
  checked s t f false fe (rowAccs s t f packed .read) fun l =>
    let cl := clusterOf t.place.core
    if l1Full s t f false l then holdTeam s t .quiesce
    else if fe && (granules l).any (fun g => !spFull s cl g) then holdTeam s t .fullEmpty
    else
      let n := widthBytes f.width
      let vals := l.map fun x => (x.1, loadTarget s t (mScope f) n x.1 x.2.2)
      let t' := writeRows t f (widthRegs f.width) vals
      let s := requestLoads (tlbRows s t f l) t (mScope f) n l
      let s := if fe && f.qual == 2 then (granules l).foldl (fun s g => spSetFull s cl g false) s else s
      finish ((acquireBy s t f (!l.isEmpty)).drawn mDraws) t' f.stl 1
/-- The poison of the row whose store a byte keeps, the last that names it (R180): rows by offset and poison, n bytes each. -/
def storeWinner (rows : List (Nat × Bool)) (n b : Nat) : Option Bool :=
  ((rows.filter fun r => decide (r.1 ≤ b) && decide (b < r.1 + n)).getLast?).map (·.2)
/-- Units that the rows of one store cover whole with clean data, of those that a test names (R176). -/
def cleanUnits (size n : Nat) (rows : List (Nat × Bool)) (was : Nat → Bool) : List Nat :=
  (((rows.flatMap fun r => unitsOf size r.1 n).eraseDups).filter was).filter fun u =>
    (List.range size).all fun k => storeWinner rows n (u * size + k) == some false
/-- A sector of a domain's line in an L1 is clean. -/
def l1ClearSector (s : State) (core dom u : Nat) : State :=
  s.modCore core fun c => { c with l1 := c.l1.map fun x => if x.line == u / 4 && x.dom == dom then { x with pois := x.pois &&& ~~~((1#4) <<< (u % 4)), hurt := x.hurt &&& ~~~((1#4) <<< (u % 4)) } else x }
/-- Global sectors that the rows of a store have covered whole with clean data are clean, where the store was performed (R166, R176). -/
def clearSectors (s : State) (t : Team) (scope n : Nat) (l : List (Nat × DWord × Target)) (pois : Nat → Bool) : State :=
  let rows := fun (home : Bool) => l.filterMap fun x => match x.2.2 with
    | .mem pa pol => if !isAperture pa && (decide (2 ≤ scope) || pol != 0) == home then some (pa, pois x.1) else none
    | .sp _ => none
  let core := t.place.core
  let inL1 := fun (u : Nat) => (l1Find (s.core core) t.flow.did (u / 4)).any fun x => x.pois.getLsbD (u % 4)
  let s := (cleanUnits 32 n (rows false) inL1).foldl (fun s u => l1ClearSector s core t.flow.did u) s
  (cleanUnits 32 n (rows true) fun u => inL1 u || s.mem.pois.contains u).foldl
    (fun s u => { l1ClearSector s core t.flow.did u with mem := s.mem.mark u false }) s
/-- Granules that the rows of a store have covered whole with clean data are clean (R176). -/
def clearGranules (s : State) (t : Team) (n : Nat) (l : List (Nat × DWord × Target)) (pois : Nat → Bool) : State :=
  let cl := clusterOf t.place.core
  let places := l.filterMap fun x => match x.2.2 with
    | .sp p => some (p, pois x.1)
    | .mem _ _ => none
  ((places.map fun p => p.1.home).eraseDups).foldl (fun s h =>
    let rows := (places.filter fun p => p.1.home == h).map fun p => (p.1.off, p.2)
    (cleanUnits 16 n rows fun u => (spRead s cl ⟨h, u * 16⟩ 1).2).foldl
      (fun s u => spMod s cl ⟨h, u * 16⟩ fun m => { m with pois := setDel m.pois ((spMem s cl ⟨h, u * 16⟩).2 / 16) }) s) s
/-- ST, STS and STP (R176, R180): check, wait, then store rows in ascending order; what they cover whole with clean data together is clean. -/
def storeBody (f : MForm) (packed : Bool) (s : State) (t : Team) : Out :=
  let r := widthRegs f.width
  let t := t.awaitRegs (indexRegs f ++ dataRegs f r)
  checked s t f true false (rowAccs s t f packed .write) fun l => if l1Full s t f true l then holdTeam s t .quiesce else
    let n := widthBytes f.width
    let s := requestStores (tlbRows (releaseBy s t f (!l.isEmpty)) t f l) t (mScope f) l
    let s := l.foldl (fun s x => storeTarget s t (mScope f) x.2.2 (dataBytes t f.data.toNat n x.1) (dataPois t f.data.toNat r x.1)) s
    let s := clearGranules (clearSectors s t (mScope f) n l (dataPois t f.data.toNat r)) t n l (dataPois t f.data.toNat r)
    finish (s.drawn mDraws) (keepWake s t) f.stl 1
/-- LD (R180). -/
def execLd (f : MForm) (s : State) : Out := issue (.ld f) s f.stl (mDataOk f) (mSuppressed f) (loadBody f false)
/-- ST (R180). -/
def execSt (f : MForm) (s : State) : Out := issue (.st f) s f.stl (mDataOk f) (mSuppressed f) (storeBody f false)
/-- LDS (R178, R180). -/
def execLds (f : MForm) (s : State) : Out := issue (.lds f) s f.stl (mDataOk f) (mSuppressed f) (loadBody f false)
/-- STS (R180). -/
def execSts (f : MForm) (s : State) : Out := issue (.sts f) s f.stl (mDataOk f) (mSuppressed f) (storeBody f false)
/-- LDP (R180). -/
def execLdp (f : MForm) (s : State) : Out := issue (.ldp f) s f.stl (mDataOk f) (mSuppressed f) (loadBody f true)
/-- STP (R180). -/
def execStp (f : MForm) (s : State) : Out := issue (.stp f) s f.stl (mDataOk f) (mSuppressed f) (storeBody f true)

/-- What one read of the constant cache serves: a 32-bit word, or the 64 bits of a b64 row (R163). DESIGN CHOICE, log 112: the miss of a narrower row reads its whole word. -/
def constUnit (pa n : Nat) : Nat × Nat := (pa / max 4 n * max 4 n, max 4 n)
/-- The constant cache of the cluster holds every byte of a unit (R163). -/
def constHit (s : State) (cl dom : Nat) (u : Nat × Nat) : Bool := (List.range u.2).all fun i => (s.cluster cl).cc.any fun e => e.1 == dom && e.2.1 == u.1 + i
/-- The bytes of a unit: what the constant cache of the cluster holds, or memory's; where the two differ the choice is free (R163). -/
def constRow (s : State) (cl dom : Nat) (u : Nat × Nat) : List Byte :=
  let k := u.1 % 65536
  let now := homeRead s u.1 u.2 k
  if constHit s cl dom u && (s.draw (2 ^ 20 + k)).getLsbD 0 then
    (List.range u.2).map fun i => match (s.cluster cl).cc.find? fun e => e.1 == dom && e.2.1 == u.1 + i with
      | some e => e.2.2
      | none => now.getD i 0
  else now
/-- The bytes of a constant access: those of its unit that it names. -/
def constBytes (s : State) (cl dom pa n : Nat) : List Byte := ((constRow s cl dom (constUnit pa n)).drop (pa % max 4 n)).take n
/-- The constant cache keeps what was read at the home (R163); aperture pages are uncached (R361). -/
def constKeep (s : State) (cl dom pa : Nat) (bs : List Byte) : State :=
  s.modCluster cl fun c => { c with
    cc := bs.zipIdx.map (fun b => (dom, pa + b.2, b.1))
            ++ c.cc.filter fun e => !(e.1 == dom && decide (pa ≤ e.2.1) && decide (e.2.1 < pa + bs.length)) }
/-- A read of a unit through the constant cache (R163): a hit asks for nothing, a miss reads the home, or asks an aperture page, and what the home gave is kept (R320, R355). -/
def constRead (s : State) (cl dom : Nat) (u : Nat × Nat) : State :=
  if constHit s cl dom u then s
  else if isAperture u.1 then readOut s dom u.1 u.2
  else (constKeep s cl dom u.1 (homeRead s u.1 u.2 0)).meter dom 3 u.2
/-- LDC (R163, R180): through the constant cache; rows that name the same word are served by one read. -/
def execLdc (f : MForm) (s : State) : Out :=
  issue (.ldc f) s f.stl (mDataOk f) (mSuppressed f) fun s t =>
    let t := t.awaitRegs (indexRegs f)
    checked s t f false false (rowAccs s t f false .read) fun l =>
      let cl := clusterOf t.place.core
      let n := widthBytes f.width
      let vals := l.map fun x => match x.2.2 with
        | .mem pa _ => (x.1, constBytes s cl t.flow.did pa n, homePois s pa n)
        | .sp _ => (x.1, [], false)
      let units := (l.filterMap fun x => match x.2.2 with
        | .mem pa _ => some (constUnit pa n)
        | .sp _ => none).eraseDups
      let s' := units.foldl (fun s u => constRead s cl t.flow.did u) (tlbRows s t f l)
      finish (s'.drawn (2 * mDraws)) (writeRows t f (widthRegs f.width) vals) f.stl 1

/-! ## Atomics -/

/-- The sum of .fadd: FP32, round to nearest even, no flush, canonical NaN, whatever FMT holds (R181). -/
def atomFadd (a b : Nat) : Nat := toFloat fp32 ⟨0, false, false, none⟩ (FVal.add 0 (numIn fp32 false a) (numIn fp32 false b))
/-- The new value of an atomic of w bits (R181). -/
def atomNew (qual w old data : Nat) : Nat :=
  let sg := fun x => intOf w true x
  match qual with
  | 0 => (old + data) % 2 ^ w
  | 1 => atomFadd old data
  | 2 => if sg data < sg old then data else old
  | 3 => if sg old < sg data then data else old
  | 4 => min old data
  | 5 => max old data
  | 6 => Nat.land old data
  | 7 => Nat.lor old data
  | 8 => Nat.xor old data
  | 9 => data
  | 10 => if data ≤ old then 0 else old + 1
  | _ => if old = 0 || data < old then data else old - 1
/-- The old value of an atomic that neither the L1 nor, at .plot, a line of the segment gives is read at the stacks, whether a CAS then writes or not (R181, R320). -/
def atomRead (s : State) (t : Team) (f : MForm) (g : Target) : State := match g with
  | .mem pa pol =>
    let inL1 := decide (mScope f ≤ 1) && pol == 0
    let inSeg := decide (mScope f ≤ 2) && pol != 2 && segHolds (s.cluster (clusterOf t.place.core)) t.flow.did pa
    if isAperture pa || inL1 || inSeg then s else s.meter t.flow.did 3 (widthBytes f.width)
  | .sp _ => s
/-- Prepare the lines of an atomic: those performed in the L1 are filled on a miss, with no request at the segment (R165, R181, R323); reads of aperture pages go out (R355). -/
def atomLine (s : State) (t : Team) (f : MForm) (l : List (Nat × DWord × Target)) : State :=
  let core := t.place.core
  let dom := t.flow.did
  let n := widthBytes f.width
  let fill := linesOf l fun pa pol => decide (mScope f ≤ 1) && pol == 0 && !isAperture pa && !l1Serves s core dom (mScope f) pol pa n
  let s := fill.foldl (fun s x => atomFill s core dom x.1) s
  (apertureRows l).foldl (fun s pa => readOut s dom pa n) (l.foldl (fun s x => atomRead s t f x.2.2) s)
/-- The location a target names, whatever the policy of the page. -/
def atomPlace (g : Target) : Target := match g with
  | .mem pa _ => .mem pa 0
  | .sp p => .sp p
/-- The operations that the rows of an atomic make: one for each row (R181), of an ATOMAGG one for each location that their addresses name (R182). -/
def atomOps (agg : Bool) (l : List (Nat × DWord × Target)) : List (List (Nat × DWord × Target)) :=
  if agg then ((l.map fun x => atomPlace x.2.2).eraseDups).map fun a => l.filter fun x => atomPlace x.2.2 == a else l.map fun x => [x]
/-- What a row of an operation finds and leaves, the value before it with its poison: the next row finds what it writes (R182); a poisoned location stays poisoned (R176). -/
def atomNext (n : Nat) (new : Nat → Nat → Option Nat) (pois : Nat → Bool) (v : List Byte × Bool) (row : Nat) : List Byte × Bool :=
  match new row (bytesNat v.1) with
  | some x => (natBytes n x, pois row || v.2)
  | none => v
/-- One operation of an atomic: read once, every row of it in ascending order, write once what the last one leaves (R181, R182). -/
def atomOp (t : Team) (f : MForm) (new : Nat → Nat → Option Nat) (pois : Nat → Bool) (acc : State × List (Nat × List Byte × Bool))
    (g : List (Nat × DWord × Target)) : State × List (Nat × List Byte × Bool) :=
  match g with
  | [] => acc
  | x :: _ =>
    let n := widthBytes f.width
    let old := loadTarget acc.1 t (mScope f) n x.1 x.2.2
    let r := g.foldl (fun (r : (List Byte × Bool) × Bool × List (Nat × List Byte × Bool)) y =>
      (atomNext n new pois r.1 y.1, r.2.1 || (new y.1 (bytesNat r.1.1)).isSome, r.2.2 ++ [(y.1, r.1)])) (old, false, [])
    (if r.2.1 then storeTarget acc.1 t (mScope f) x.2.2 r.1.1 r.1.2 else acc.1, acc.2 ++ r.2.2)
/-- ATOM, CAS and, with agg, ATOMAGG: rows in ascending order, each old value into DATA; new gives what a row writes (R181, R182). -/
def atomBody (agg : Bool) (f : MForm) (reads : Nat) (new : Team → Nat → Nat → Option Nat) (s : State) (t : Team) : Out :=
  let t := t.awaitRegs (indexRegs f ++ dataRegs f reads)
  checked s t f true false (rowAccs s t f false .write) fun l => if l1Full s t f true l then holdTeam s t .quiesce else
    let ops := atomOps agg l
    let s := requestStores (atomLine (tlbRows (releaseBy s t f (!l.isEmpty)) t f l) t f (ops.filterMap List.head?)) t (mScope f) l
    let r := ops.foldl (atomOp t f (new t) fun row => dataPois t f.data.toNat reads row) (s, [])
    finish ((acquireBy r.1 t f (!l.isEmpty)).drawn mDraws) (writeRows (keepWake r.1 t) f (widthRegs f.width) r.2) f.stl 1
/-- The operand of an atomic in a row. -/
def atomData (t : Team) (f : MForm) (r row : Nat) : Nat := bytesNat (dataBytes t r (widthBytes f.width) row)
/-- What ATOM and ATOMAGG write. -/
def atomWrites (f : MForm) (t : Team) (row old : Nat) : Option Nat :=
  some (atomNew f.qual.toNat (8 * widthBytes f.width) old (atomData t f f.data.toNat row))
/-- What CAS writes: the new value when memory equals the compare value (R181). -/
def casWrites (f : MForm) (t : Team) (row old : Nat) : Option Nat :=
  if old = atomData t f f.data.toNat row then some (atomData t f (f.data.toNat + widthRegs f.width) row) else none
/-- ATOM (R181). -/
def execAtom (f : MForm) (s : State) : Out :=
  issue (.atom f) s f.stl (mDataOk f) (mSuppressed f) (atomBody false f (widthRegs f.width) (atomWrites f))
/-- CAS (R181): the compare value in DATA, the new value after it; b64 takes four registers. -/
def execCas (f : MForm) (s : State) : Out :=
  issue (.cas f) s f.stl (mOk (2 * widthRegs f.width) (if f.width == .b64 then 4 else 1) f) (mSuppressed f)
    (atomBody false f (2 * widthRegs f.width) (casWrites f))
/-- ATOMAGG (R182): the rows that name one address make one operation. -/
def execAtomagg (f : MForm) (s : State) : Out :=
  issue (.atomagg f) s f.stl (mDataOk f) (mSuppressed f) (atomBody true f (widthRegs f.width) (atomWrites f))

/-! ## FIFO banks -/

/-- The FIFO address: x(BASE) + OFF32; bits [5:0] name the bank (R170). -/
def fifoAddr (t : Team) (f : MForm) : DWord := t.xget f.base.toNat + f.off.signExtend 64
/-- Check the FIFO bank: 0x38, 0x09 for a set bit above [5:0], 0x0C unless it is the domain's and in FIFO mode; no alignment applies to a bank index (R170, R177). -/
def fifoFault (s : State) (t : Team) (f : MForm) : Option Nat :=
  let a := (fifoAddr t f).toNat
  let b := (s.cluster (clusterOf t.place.core)).banks.getD (a % 64) Bank.reset
  if t.xpois f.base.toNat then some 0x38 else if 64 ≤ a then some 0x09
  else if b.owner != t.flow.did then some 0x0C
  else if b.quiesced.isSome then none
  else if b.mode != .fifo then some 0x0C else none
/-- Check and wait, then act on the FIFO bank with the participating rows. -/
def fifoBody (f : MForm) (reads : List Nat) (ready : Bank → Nat → Bool) (act : State → Team → Nat → Bank → List Nat → Out) (s : State) (t : Team) :
    Out :=
  let t := t.awaitRegs reads
  let rows := rowList (t.part f.prd) t.foot.rows
  match rows with
  | [] => finish s t f.stl 1
  | _ => match fifoFault s t f with
    | some c => raiseRows s t c (maskOf rows) (some (fifoAddr t f))
    | none =>
      let n := (fifoAddr t f).toNat % 64
      let b := (s.cluster (clusterOf t.place.core)).banks.getD n Bank.reset
      if b.quiesced.isSome then holdTeam s t .quiesce
      else if !ready b rows.length then holdTeam s t .fifo
      else act s t n b rows
/-- Entries a FIFO bank holds (R170). -/
def fifoDepth : Nat := 8192
/-- LDF: one batch, in order, into ascending rows (R183). -/
def execLdf (f : MForm) (s : State) : Out :=
  issue (.ldf f) s f.stl (mDataOk f) (mSuppressed f) (fifoBody f [] (fun b n => decide (n ≤ b.fifo.length)) fun s t n b rows =>
    let w := widthBytes f.width
    let vals := (rows.zip b.fifo).map fun x => (x.1, natBytes w x.2.1.toNat, x.2.2)
    let s := s.modCluster (clusterOf t.place.core) fun c => { c with banks := c.banks.modify n fun b => { b with fifo := b.fifo.drop rows.length } }
    finish (acquireBy s t f true) (writeRows t f (widthRegs f.width) vals) f.stl 1)
/-- STF: one entry for each participating row, contiguous (R183). -/
def execStf (f : MForm) (s : State) : Out :=
  issue (.stf f) s f.stl (mDataOk f) (mSuppressed f)
    (fifoBody f (dataRegs f (widthRegs f.width)) (fun b n => decide (b.fifo.length + n ≤ fifoDepth)) fun s t n _ rows =>
      let new := rows.map fun r => (BitVec.ofNat 128 (bytesNat (dataBytes t f.data.toNat (widthBytes f.width) r)),
                                    dataPois t f.data.toNat (widthRegs f.width) r)
      if isRel f.order && releaseStalls s t.place.core t.flow.did (mScope f) then holdTeam s t .quiesce else
      let s := releaseBy s t f true
      let s := s.modCluster (clusterOf t.place.core) fun c => { c with banks := c.banks.modify n fun b => { b with fifo := b.fifo ++ new } }
      finish s t f.stl 1)

/-! ## Prefetch, lines and monitors -/

/-- A row whose line a prefetch may bring in: no cache takes lines of aperture pages or of policy 2 (R165, R166). -/
def prefRow (g : Target) : Bool := match g with
  | .mem pa pol => !isAperture pa && pol != 2
  | .sp _ => false
/-- The whole line that a target lies in. -/
def wholeLine (g : Target) : Target := match g with
  | .mem pa pol => .mem (pa / 128 * 128) pol
  | .sp p => .sp p
/-- PREF (R184): the whole line comes into the cache, also when the L1 holds some of its bytes; rows that fail a check drop their prefetch; poison in an address still faults (R161). -/
def execPref (f : MForm) (s : State) : Out :=
  issue (.pref f) s f.stl (mOk 0 1 f) (mSuppressed f) fun s t =>
    let t := t.awaitRegs (indexRegs f)
    let all := rowAccs s t f false .read
    match all.filter fun r => r.code == some 0x38 with
    | r :: rest => raiseRows (walkRows s t f all) t 0x38 (maskOf ((r :: rest).map (·.row))) (some r.addr)
    | [] =>
      let scope := if f.qual = 0 then 1 else 2
      let l := ((okRows all).filter fun x => prefRow x.2.2).map fun x => (x.1, x.2.1, wholeLine x.2.2)
      let miss := linesOf l fun pa pol => !l1Serves s t.place.core t.flow.did scope pol pa 128
      let fills := if scope = 1 then (miss.filter fun x => x.2 == 0).map (·.1) else []
      if miss.any (fun x => segStalls s t.place.core x.2 (x.1 * 128)) || evictStalls s t.place.core t.flow.did fills then holdTeam s t .quiesce
      else finish ((requestLoads (walkRows s t f all) t scope 128 l).drawn mDraws) t f.stl 1

/-- Clean one line of a domain in the core's L1: its dirty bytes are performed (R185). -/
def lineClean (s : State) (core dom line scope : Nat) : State :=
  match l1Find (s.core core) dom line with
  | none => s
  | some l => (l1Flush s core l).modCore core fun c => { c with
      l1 := c.l1.map fun x => if x.line == line && x.dom == dom then { l1Clean x with scope := max x.scope scope } else x }
/-- Drop a domain's copy of a line from the cluster's segments, which are narrower than a scope above .plot (R185). -/
def lineSegDrop (s : State) (core dom line : Nat) : State :=
  s.modCluster (clusterOf core) fun c => { c with banks := c.banks.map fun b => { b with seg := b.seg.filter fun l => !(l.line == line && l.dom == dom) } }
/-- Drop a domain's copy of a line from the constant cache of a cluster (R163, R185). -/
def constDrop (s : State) (cl dom line : Nat) : State := s.modCluster cl fun c => { c with cc := c.cc.filter fun e => !(e.1 == dom && e.2.1 / 128 == line) }
/-- CLINE on one line at a scope: caches narrower than SCOPE are the L1 for .plot and wider, and the segment and the constant cache for .field and wider (R185). -/
def clineAt (qual scope : Nat) (core dom : Nat) (s : State) (line : Nat) : State :=
  if scope < 2 then s else
  let s := if qual = 1 then s else lineClean s core dom line scope
  if qual = 0 then s else
  let s := l1Drop s core dom line
  if 3 ≤ scope then constDrop (lineSegDrop s core dom line) (clusterOf core) dom line else s
/-- CLINE (R185). -/
def execCline (f : MForm) (s : State) : Out :=
  issue (.cline f) s f.stl (mOk 0 1 f) (mSuppressed f) fun s t =>
    let t := t.awaitRegs (indexRegs f)
    checked s t f (f.qual != 1) false (rowAccs s t f false (if f.qual = 1 then .inval else .read)) fun l =>
      let s := (linesOf l fun pa _ => !isAperture pa).foldl (fun s x => clineAt f.qual.toNat (scopeNat f.scope) t.place.core t.flow.did s x.1)
        (tlbRows s t f l)
      finish (s.drawn mDraws) t f.stl 1

/-- The monitor line of a target (R186): global lines by physical address, beds and banks by their own lines. -/
def monLine (t : Team) (g : Target) : Nat × Nat := match g with
  | .mem pa _ => (0, pa / 128)
  | .sp p => spLine (clusterOf t.place.core) p
/-- The lowest participating row of a monitor instruction, checked alone (R186). -/
def lowestAcc (s : State) (t : Team) (f : MForm) : Option RowAcc :=
  match rowList (t.part f.prd) t.foot.rows with
  | [] => none
  | r :: _ => some (rowAcc s t f false .read r)
/-- MARM (R186). -/
def execMarm (f : MForm) (s : State) : Out :=
  issue (.marm f) s f.stl (mOk 0 1 f) (mSuppressed f) fun s t =>
    let t := t.awaitRegs (indexRegs f)
    match lowestAcc s t f with
    | none => finish s t f.stl 1
    | some r => match faultRows [r] with
      | some (c, m, a) => raiseRows (walkRows s t f [r]) t c m (some a)
      | none => match okRows [r] with
        | [] => finish s t f.stl 1
        | x :: _ =>
          let m := monLine t x.2.2
          finish ((walkRows s t f [r]).drawn mDraws) { t with sync := { t.sync with mon := some ⟨m.1, m.2, none⟩ } } f.stl 1
/-- MWAIT ends: the monitor is disarmed and MWCAUSE written (R186). DESIGN CHOICE, log 99: with cause 5 too, where the address is not in the armed line. -/
def endMwait (t : Team) (cause : Nat) : Team :=
  { t with sync := { t.sync with mon := none, mwaitAt := none, mwcause := cause } }
/-- ac that an MWAIT waits (R186). -/
def mwaitTime (qual : Nat) : Nat := 64 * 2 ^ qual
/-- MWAIT (R186, R187): a held wake, a line that is not armed, the timeout, else the team is held. -/
def execMwait (f : MForm) (s : State) : Out :=
  issue (.mwait f) s f.stl (mOk 0 1 f) (mSuppressed f) fun s t =>
    let t := t.awaitRegs (indexRegs f)
    match lowestAcc s t f with
    | none => finish s (endMwait t 5) f.stl 1
    | some r =>
      let w := walkRows s t f [r]
      let ret := fun cause => finish w (endMwait t cause) f.stl 1
      match faultRows [r] with
      | some (c, m, a) => raiseRows w t c m (some a)
      | none => match t.sync.mon, okRows [r] with
        | some m, x :: _ =>
          if (m.space, m.line) != monLine t x.2.2 then ret 5
          else match m.woke with
            | some c => ret c
            | none =>
              let from_ := t.sync.mwaitAt.getD s.clock.ac
              if from_ + mwaitTime f.qual.toNat ≤ s.clock.ac then ret 2
              else holdTeam w { t with sync := { t.sync with mwaitAt := some from_ } } .mwait
        | _, _ => ret 5

end Sys2Proof.Machine
end

