-- ==== Sys2Proof/Machine/Sync.lean ====
section
/-! DEFINITION. The Y instructions (R115-R133): fences, waits, rendezvous, FMT and system registers, CARVE, TLBI, CCTL, clocks, entropy and halts. -/

namespace Sys2Proof.Machine

/-- Header predicate of a Y form. -/
def yOk (f : YForm) (t : Team) : Bool := qHeaderOk t f.pq
/-- D names a q predicate: a number 8 to 15 (R115). -/
def qNumOk (t : Team) (d : BitVec 10) : Bool := decide (8 ≤ d.toNat) && prednumOk t d.toNat

/-- The scope of a FENCE: TY bit 46 and SUB (R115). -/
def fenceScope (f : YForm) : Nat := (if f.ty.getLsbD 0 then 4 else 0) + f.sub.toNat
/-- FENCE (R116, R167): every access is performed when it issues, so the release and the acquire remain; a release that meets a quiesced segment bank waits (R130). -/
def execFence (f : YForm) (s : State) : Out :=
  issue (.fence f) s f.stl (fun t => yOk f t && decide (fenceScope f ≤ 5)) (ySuppressed f) fun s t =>
    if releaseStalls s t.place.core t.flow.did (fenceScope f) then holdTeam s t .fence
    else finish (acquireAt (releaseAt s t.place.core t.flow.did (fenceScope f)) t.place.core t.flow.did (fenceScope f)) t f.stl 1
/-- WAITC (R21, R117). DESIGN CHOICE, log 67: the 0x02 checks that R115 makes of the fields of a Y form come at decode, before its predicate. -/
def execWaitc (f : YForm) (s : State) : Out :=
  issue (.waitc f) s f.stl (fun t => yOk f t && decide (f.imm.toNat ≤ 255)) (ySuppressed f) fun s t =>
    if t.count f.sub.toNat ≤ f.imm.toNat then finish s t f.stl 1 else holdTeam s t .waitc

/-- The condition of a TRYW: none when a selector is out of range (R118, R212). -/
def trywMet (f : YForm) (s : State) (t : Team) : Option Bool :=
  let sel := (t.sget f.a.toNat).bits.toNat
  let val := (t.sget f.b.toNat).bits.toNat
  match f.sub.toNat with
  | 0 => if sel < 24 then some (rvReady s t sel) else none
  | 1 => if sel < 16 && (s.bed t.place.plot t.place.bed).chans.getLsbD sel
         then some (((s.core t.place.core).chans.getD sel Channel.reset).q.all fun c =>
           !(c.plot == t.place.plot && c.bed == t.place.bed && decide (c.seq < issuePoint s t)) || c.passed val)
         else none
  | _ => if sel < 4 then some (decide (t.count sel ≤ val)) else none
/-- ac that a TRYW has waited (R118). -/
def trywWaited (s : State) (t : Team) : Nat := match t.sync.tryw with
  | some n => n + (s.clock.ac - t.sync.trywFrom)
  | none => 0
/-- TRYW ends with an outcome. -/
def endTryw (t : Team) (q : Nat) (b : Bool) : Team := ({ t with sync := { t.sync with tryw := none } } : Team).qset q b
/-- TRYW (R118). -/
def execTryw (f : YForm) (s : State) : Out :=
  issue (.tryw f) s f.stl (fun t => yOk f t && decide (f.sub.toNat ≤ 2) && qNumOk t f.d && sregOk t f.a.toNat && sregOk t f.b.toNat) (ySuppressed f) fun s t =>
    if (t.sget f.a.toNat).poison || (f.sub != 0 && (t.sget f.b.toNat).poison) then raise s t 0x38
    else match trywMet f s t with
      | none => raise s t 0x02
      | some true => finish s (endTryw t (f.d.toNat - 8) true) f.stl 1
      | some false =>
        if 2048 ≤ trywWaited s t then finish s (endTryw t (f.d.toNat - 8) false) f.stl 1
        else holdTeam s { t with sync := { t.sync with tryw := some (trywWaited s t), trywFrom := s.clock.ac } } .tryw

/-- The rendezvous index of IMM32, legal below 24 (R115). -/
def rvIndexOk (f : YForm) : Bool := decide (f.imm.toNat < 24)
/-- RVINIT (R121). -/
def execRvinit (f : YForm) (s : State) : Out :=
  issue (.rvinit f) s f.stl (fun t => yOk f t && f.imm &&& 0xFFFF00E0 == 0 && decide (f.imm.toNat % 32 < 24)) (ySuppressed f) fun s t =>
    let n := f.imm.toNat % 32
    let count := f.imm.toNat / 256
    let p := s.point t.place.plot n
    if !p.arrived.isEmpty || p.count != 0 || boundPending s t.place.plot n then raise s t 0x02
    else finish (s.modPoint t.place.plot n fun p =>
      { p with live := count == 0, expect := if count = 0 then p.expect else count, arrived := [], count := 0, poison := false }) t f.stl 1
/-- RVARR (R122, R124): a second arrival of a live phase is held. -/
def execRvarr (f : YForm) (s : State) : Out :=
  issue (.rvarr f) s f.stl (fun t => yOk f t && (f.sub == 0 || f.sub == 2) && rvIndexOk f) (ySuppressed f) fun s t =>
    let n := f.imm.toNat
    let p := s.point t.place.plot n
    if p.live && p.arrived.contains t.place.teamix then holdTeam s t .rvarr
    else if f.sub == 2 && releaseStalls s t.place.core t.flow.did 2 then holdTeam s t .quiesce
    else
      let s := if f.sub = 2 then releaseAt s t.place.core t.flow.did 2 else s
      thenDo (finish s t f.stl 1) fun s => arriveAt s t.place.plot n t.place.teamix false
/-- RVWAIT (R123). -/
def execRvwait (f : YForm) (s : State) : Out :=
  issue (.rvwait f) s f.stl (fun t => yOk f t && qNumOk t f.d && rvIndexOk f) (ySuppressed f) fun s t =>
    let n := f.imm.toNat
    let p := s.point t.place.plot n
    if !rvReady s t n then holdTeam s t .rvwait
    else
      let t := { t with sync := { t.sync with want := t.sync.want.set n (p.phase + 1), rvLive := p.live } }
      let s := acquireAt s t.place.core t.flow.did 2
      if f.d.toNat = 15 && p.poison then raise s { t with sync := { t.sync with rvLive := false } } 0x38
      else finish s (t.qset (f.d.toNat - 8) p.poison) f.stl 1

/-- FMT keeps bits [20:0] (R6, R86, R126). -/
def fmtWrite (w : Word) : Word := w &&& 0x1FFFFF
/-- SETFMT (R126). -/
def execSetfmt (f : YForm) (s : State) : Out :=
  issue (.setfmt f) s f.stl (fun t => yOk f t && (f.ib || sregOk t f.a.toNat)) (ySuppressed f) fun s t =>
    let a := t.sget f.a.toNat
    if !f.ib && a.poison then raise s t 0x38
    else finish s { t with flow := { t.flow with fmt := fmtWrite (if f.ib then f.imm else a.bits) } } f.stl 1

/-- Low or high half of a 64-bit value. -/
def half (hi : Bool) (x : DWord) : Word := if hi then x.extractLsb' 32 32 else x.extractLsb' 0 32
/-- The die's arithmetic-cycle counter of a team (R131). -/
def dieClock (s : State) (t : Team) : DWord := BitVec.ofNat 64 (s.clock.ac + (s.die (dieOf t.place.core)).acOffset)
/-- SEGOCCn (R172). -/
def segOccWord (s : State) (t : Team) (n : Nat) : Word :=
  let c := s.cluster (clusterOf t.place.core)
  let b := c.banks.getD n Bank.reset
  BitVec.ofNat 32 ((fillRule c t.flow.did n).2 * 65536 + if b.mode == .cache then segOcc b t.flow.did else 0)
/-- DOMST (R302). -/
def domst (s : State) (t : Team) : Word :=
  let debug := match coreSlot s t.place.core t.stamp.home with
    | some w => slotDebug w
    | none => false
  BitVec.ofNat 32 (t.trap.dcause * 256 + (if debug then 4 else 0) + (if t.gate.isSome then 2 else 0) + (if t.stamp.priv then 1 else 0))
/-- Registers that read as zero inside a gate (R307). -/
def gateZero (i : Nat) : Bool :=
  (0x010 ≤ i && i ≤ 0x013) || (0x020 ≤ i && i ≤ 0x07F) || (0x104 ≤ i && i ≤ 0x107) || (0x10A ≤ i && i ≤ 0x10C)
/-- The system registers of R71, R114, R172, R191 and R302 by index; none for an unassigned one. -/
def sysReg (s : State) (t : Team) (i : Nat) : Option Word :=
  let n := fun x => some (BitVec.ofNat 32 x)
  let cl := s.cluster (clusterOf t.place.core)
  if i < 0x020 then match i with
    | 0x000 => n Config.swidth
    | 0x001 => n t.place.teamix
    | 0x002 => some (half false t.stamp.plotix)
    | 0x003 => some (half true t.stamp.plotix)
    | 0x004 => n t.place.bed
    | 0x005 => n t.foot.rows
    | 0x006 => n t.flow.did
    | 0x007 => n t.stamp.nest
    | 0x008 => some t.flow.fmt
    | 0x009 => some t.schk
    | 0x00A => some t.trap.hvec
    | 0x010 => n (t.count 0)
    | 0x011 => n (t.count 1)
    | 0x012 => n (t.count 2)
    | 0x013 => n (t.count 3)
    | _ => none
  else if i < 0x100 then
    if i = 0x020 then some t.trap.hflt else if i = 0x021 then some (half false t.trap.hpc) else if i = 0x022 then some t.region.hrgn
    else if i < 0x040 then none
    else if i < 0x060 then some (maskWord t.trap.hmask (i - 0x040))
    else if i < 0x080 then some (maskWord t.trap.hfrow (i - 0x060))
    else if i = 0x080 then some (half false (dieClock s t)) else if i = 0x081 then some (half true (dieClock s t)) else none
  else if i < 0x120 then match i - 0x100 with
    | 0x00 => n t.rsDepth
    | 0x01 => some (summaryOf t.flow.mask)
    | 0x02 => n t.place.quad
    | 0x03 => n t.csDepth
    | 0x04 => some t.trap.trapArg
    | 0x05 => n t.sync.mwcause
    | 0x06 => some (half false t.trap.faddr)
    | 0x07 => some (half true t.trap.faddr)
    | 0x08 => n (agetD cl.hits t.flow.did 0)
    | 0x09 => n (agetD cl.misses t.flow.did 0)
    | 0x0A => some (half true t.trap.hpc)
    | 0x0B => some (half false t.region.regpc)
    | 0x0C => some (half true t.region.regpc ||| if t.region.valid then 0x80000000 else 0)
    | 0x0D => some (domst s t)
    | 0x0E => n t.gcause
    | _ => none
  else if i < 0x140 then some (maskWord t.flow.mask (i - 0x120))
  else if 0x180 ≤ i && i < 0x1C0 then some (segOccWord s t (i - 0x180))
  else none
/-- RDSR (R127). -/
def execRdsr (f : YForm) (s : State) : Out :=
  issue (.rdsr f) s f.stl (fun t => yOk f t && sregOk t f.d.toNat) (ySuppressed f) fun s t =>
    match sysReg s t f.imm.toNat with
    | none => raise s t 0x02
    | some w => finish s (t.sset f.d.toNat (Elem.clean (if t.gate.isSome && gateZero f.imm.toNat then 0 else w))) f.stl 1
/-- The team after a WRSR: RW registers keep their fields, HVEC refuses SLOT 5 to 7, HMASK is written in a handler only, the rest are ignored (R5, R56, R127, R192, R193). -/
def wrsrTo (t : Team) (i : Nat) (w : Word) : Team :=
  if i = 0x008 then { t with flow := { t.flow with fmt := fmtWrite w } }
  else if i = 0x009 then { t with schk := w &&& 1 }
  else if i = 0x00A then (if 4 < (w.extractLsb' 5 3).toNat then t else { t with trap := { t.trap with hvec := w &&& 0xFFFFFFE1 } })
  else if 0x040 ≤ i && i < 0x060 && t.trap.inHandler then { t with trap := { t.trap with hmask := setMaskWord t.trap.hmask (i - 0x040) w } }
  else t
/-- WRSR (R127). DESIGN CHOICE, log 69: a poisoned source is found before an unassigned index. -/
def execWrsr (f : YForm) (s : State) : Out :=
  issue (.wrsr f) s f.stl (fun t => yOk f t && sregOk t f.a.toNat) (ySuppressed f) fun s t =>
    let a := t.sget f.a.toNat
    if a.poison then raise s t 0x38
    else match sysReg s t f.imm.toNat with
      | none => raise s t 0x02
      | some _ => finish s (wrsrTo t f.imm.toNat a.bits) f.stl 1

/-! ## CARVE, TLBI, CCTL -/

/-- Banks of a core that a domain's mask allows and no bed holds (R128, R164). -/
def freeBanks (s : State) (core dom : Nat) : List Nat :=
  let used := (bedsOn s core).flatMap Bed.held
  match coreSlot s core dom with
  | some w => (List.range 96).filter fun b => slotBank w b && !used.contains b
  | none => []
/-- A copy that has not completed names the scratchpad of its own bed, below the banks of the map (R162): its ranges, or the scratchpad that a gather reads. -/
def namesBed (c : Copy) : Bool := c.ranges.any (fun r => decide (r.1 < 0x400000)) || (c.kind == 1 && c.dir == 2 && decide (c.g < 0x400000))
/-- Whether a scoreboard entry or a copy still names the bed's scratchpad (R128). -/
def bedNamed (s : State) (t : Team) : Bool :=
  (s.core t.place.core).sb.any (fun e => e.home == .bed t.place.plot t.place.bed)
    || ((s.core t.place.core).chans.flatMap (·.q)).any fun c => c.plot == t.place.plot && c.bed == t.place.bed && namesBed c
/-- Grow or shrink the bed extension to a number of banks: whether it succeeds, and the state (R128). The sets of the L1 follow its banks, so that it is written back whole when they change (R164, R165; log 26). -/
def carveTo (s : State) (t : Team) (want : Nat) : Bool × State :=
  let b := s.bed t.place.plot t.place.bed
  let cur := b.ext.length
  let base := extBase s t.place.plot t.place.bed
  if want ≤ cur then
    let s := if want < cur then l1WriteBack s t.place.core else s
    (true, s.modBed t.place.plot t.place.bed fun b => { b with ext := b.ext.take want, mem := b.mem.zero (base + want * 32768) ((cur - want) * 32768) })
  else
    let free := freeBanks s t.place.core t.flow.did
    if l1Banks s t.place.core < 2 + (want - cur) || free.length < want - cur then (false, s)
    else
      let s := l1WriteBack s t.place.core
      (true, s.modBed t.place.plot t.place.bed fun b => { b with ext := b.ext ++ free.take (want - cur) })
/-- CARVE (R128). DESIGN CHOICE, log 87: a poisoned bank count faults before the acceptance is looked at. -/
def execCarve (f : YForm) (s : State) : Out :=
  issue (.carve f) s f.stl (fun t => yOk f t && qNumOk t f.d && sregOk t f.a.toNat) (ySuppressed f) fun s t =>
    let a := t.sget f.a.toNat
    if a.poison then raise s t 0x38
    else if (s.bed t.place.plot t.place.bed).producer != t.place.place || !t.sync.rvLive then raise s t 0x02
    else if bedNamed s t then holdTeam s t .carve
    else if a.bits.toNat != (s.bed t.place.plot t.place.bed).ext.length && l1Stalls s t.place.core then holdTeam s t .quiesce
    else
      let r := carveTo s t a.bits.toNat
      finish r.2 ({ t with sync := { t.sync with rvLive := false } }.qset (f.d.toNat - 8) r.1) f.stl 1

/-- Whether a cached translation lies in the range of a TLBI (R129). -/
def tlbiHits (n x : Nat) (e : TlbEntry) : Bool :=
  match n with
  | 0 => if e.block then e.page == x / 2 ^ 29 else e.page == x / 65536
  | 1 => if e.block then e.page == x / 2 ^ 29 else e.page / 8192 == x / 2 ^ 29
  | _ => true
/-- Drop a domain's cached translations that a test names in every TLB and translation cache of an estate (R129). -/
def tlbDrop (s : State) (die dom : Nat) (p : TlbEntry → Bool) : State :=
  let keep := fun (l : List TlbEntry) => l.filter fun e => !(e.dom == dom && p e)
  { s with cores := s.cores.mapIdx fun i c => if sameEstate s die (dieOf i) then { c with tlb := keep c.tlb, stlb := keep c.stlb } else c,
           clusters := s.clusters.mapIdx fun i c => if sameEstate s die (i / 16) then { c with tlb := keep c.tlb } else c }
/-- TLBI (R129). -/
def execTlbi (f : YForm) (s : State) : Out :=
  issue (.tlbi f) s f.stl (fun t => yOk f t && decide (f.imm.toNat ≤ 2) && (f.imm == 2 || xregOk t f.a.toNat)) (ySuppressed f)
    fun s t =>
      if f.imm.toNat < 2 && t.xpois f.a.toNat then raise s t 0x38
      else if !t.stamp.priv then raise s t 0x09
      else if releaseStalls s t.place.core t.flow.did 4 then holdTeam s t .quiesce
      else
        let s := releaseAt s t.place.core t.flow.did 4
        finish (tlbDrop s (dieOf t.place.core) t.flow.did (tlbiHits f.imm.toNat (t.xget f.a.toNat).toNat)) t f.stl 1

/-- The watches on a plot bank's lines are lost (R187 cause 1). -/
def bankWatchLost (s : State) (cluster bank : Nat) : State :=
  (List.range 1024).foldl (fun s k => wakeIf s 2 (cluster * 2 ^ 24 + bank * 1024 + k) 1 fun _ => true) s
/-- A bank enters a mode with its contents reset; when the set of cache banks changes every segment is emptied (R130, R168). -/
def setBankMode (s : State) (cluster bank : Nat) (m : BankMode) : State :=
  let old := ((s.cluster cluster).banks.getD bank Bank.reset).mode
  let flush := (old == .cache) != (m == .cache)
  let s := if s.teams.any (fun t => t.sync.mon.isSome) then bankWatchLost s cluster bank else s
  s.modCluster cluster fun c => { c with
    banks := (if flush then c.banks.map (fun b => { b with seg := [] }) else c.banks).modify bank fun b =>
      { b with mode := m, mem := Scratch.empty, fifo := [], seg := [] } }
/-- The mode that CCTL n sets. -/
def cctlMode (n : Nat) : BankMode := if n = 1 then .cache else if n = 2 then .plot else .fifo
/-- CCTL (R130). DESIGN CHOICE, log 70: an index above 63 raises 0x02, after the 0x38 of a poisoned one. -/
def execCctl (f : YForm) (s : State) : Out :=
  issue (.cctl f) s f.stl (fun t => yOk f t && decide (f.imm.toNat ≤ 4) && sregOk t f.a.toNat) (ySuppressed f) fun s t =>
    let a := t.sget f.a.toNat
    let n := f.imm.toNat
    let cl := clusterOf t.place.core
    let b := (s.cluster cl).banks.getD a.bits.toNat Bank.reset
    let put := fun (q : Option Nat) => s.modCluster cl fun c => { c with banks := c.banks.modify a.bits.toNat fun b => { b with quiesced := q } }
    if a.poison then raise s t 0x38
    else if 64 ≤ a.bits.toNat then raise s t 0x02
    else if b.owner != t.flow.did then raise s t 0x0C
    else if n = 0 then finish (put (some t.flow.did)) t f.stl 1
    else if n = 4 then finish (put none) t f.stl 1
    else if b.quiesced != some t.flow.did then raise s t 0x02
    else
      let s := setBankMode s cl a.bits.toNat (cctlMode n)
      finish s (keepWake s t) f.stl 1

/-! ## Clocks, entropy, halts -/

/-- CLK (R131). -/
def execClk (f : YForm) (s : State) : Out :=
  issue (.clk f) s f.stl (fun t => yOk f t && decide (f.imm.toNat ≤ 1) && xregOk t f.d.toNat) (ySuppressed f) fun s t =>
    finish s (t.xset f.d.toNat (if f.imm = 0 then dieClock s t else BitVec.ofNat 64 s.clock.ns) false) f.stl 1
/-- RNG: fresh entropy, a free value (R132). -/
def execRng (f : YForm) (s : State) : Out :=
  issue (.rng f) s f.stl (fun t => yOk f t && (if f.ty = 4 then xregOk t f.d.toNat else sregOk t f.d.toNat)) (ySuppressed f) fun s t =>
    let x := s.draw 0
    finish (s.drawn 1) (if f.ty = 4 then t.xset f.d.toNat x false else t.sset f.d.toNat (Elem.clean (x.extractLsb' 0 32))) f.stl 1
/-- Halt after the instruction, at the next slot. -/
def haltAfter (o : Out) (tid : Nat) : Out := thenDo o fun s => match s.team? tid with
  | some t => haltInPlace s t .haltDebug
  | none => s
/-- HALT (R133). -/
def execHalt (f : YForm) (s : State) : Out :=
  issue (.halt f) s f.stl (yOk f) (ySuppressed f) fun s t => haltAfter (finish s t f.stl 1) t.tid
/-- BKPT (R133): halts and reports IMM32 to the domain's function when debug is on, else acts as NOP. -/
def execBkpt (f : YForm) (s : State) : Out :=
  issue (.bkpt f) s f.stl (yOk f) (ySuppressed f) fun s t =>
    if (domst s t).getLsbD 2 then haltAfter (finish (s.send ⟨t.stamp.home, 2, t.tid, natBytes 4 f.imm.toNat⟩) t f.stl 1) t.tid
    else finish s t f.stl 1

end Sys2Proof.Machine
end

