-- ==== Sys2Proof/Machine/Streamer.lean ====
section
/-! DEFINITION. The streamer: the copy instructions and their checks (R203-R210, R231-R234), the landing of elements (R211-R221), freezing, cancelling and completing (R222-R228), and status records (R229, R230). -/

namespace Sys2Proof.Machine

/-! ## The record -/

/-- NDM1 of a control word (R206). -/
def ctlNdm1 (ctl : Nat) : Nat := ctl % 16
/-- TAB (R206). -/
def ctlTab (ctl : Nat) : Nat := ctl / 65536
/-- Table entries as dimensions (R207). -/
def tableDims : Nat → List Byte → List Dim
  | 0, _ => []
  | n + 1, bs =>
    (bytesNat (bs.take 4), bytesNat ((bs.drop 4).take 4), intOf 64 true (bytesNat ((bs.drop 8).take 8))) :: tableDims n (bs.drop 16)
/-- The dimensions of a record (R205, R207). -/
def recordDims (w : List Word) (tab : List Dim) : List Dim :=
  let x := fun i => (w.getD i 0).toNat
  let es := ctlEsize (x 3)
  (x 4, es, (es : Int)) :: (if ctlNdm1 (x 3) = 0 then [] else [(x 5, x 7, intOf 32 true (x 6))]) ++ tab
/-- A copy about to be issued by a team on a channel. -/
def newCopy (t : Team) (kind rv uid : Nat) (w : List Word) (tab : List Dim) : Copy :=
  let indexed := kind == 1 || kind == 2
  let w' := if indexed then w.set 3 (w.getD 3 0 &&& 0xFFFFFFF0) else w
  { op := uid, seq := uid, tid := t.tid, plot := t.place.plot, bed := t.place.bed, dom := t.flow.did, priv := t.stamp.priv, kind := kind, wds := w,
    dims := recordDims w' (if indexed then [] else tab), next := 0, st := .queued, cause := 0, faddr := 0, rv := rv, outcome := 0,
    faultOnFreeze := false, mark := 0, hurt := [], fresh := false }
/-- DIR values of a kind (R209). -/
def dirOk (kind dir : Nat) : Bool :=
  match kind with
  | 0 => true
  | 1 => dir == 0 || dir == 2
  | 2 => dir == 1
  | 3 => dir == 0
  | _ => dir == 0 || dir == 2
/-- Whether a range leaves the map of R162 or spans two regions. -/
def rangeLeaves (s : State) (ag : SpAgent) (r : Int × Nat × Bool) : Bool :=
  decide (r.1 < 0) || match spRegion s ag r.1.toNat r.2.1 with
    | .error 0x11 => true
    | _ => false
/-- Whether a range names a bank that is not the domain's or is in another mode. -/
def rangeBank (s : State) (ag : SpAgent) (r : Int × Nat × Bool) : Bool :=
  match spRegion s ag r.1.toNat r.2.1 with
  | .error 0x0C => true
  | _ => false
/-- Two ranges overlap. -/
def rangesMeet (a b : Int × Nat × Bool) : Bool := decide (a.1 < b.1 + b.2.1) && decide (b.1 < a.1 + a.2.1)
/-- Words and fields of the record that break R208, R209 and R210. -/
def recordBad (c : Copy) (tab : List Dim) : Bool :=
  let ctl := c.wd 3
  let es := c.esize
  let n := ctlNdm1 ctl + 1
  let mis := fun (x : Int) => x % (es : Int) != 0
  let extra := c.dims.drop 1
  [ decide (4 < ctl / 16 % 8), ctl / 4096 % 16 != 0, ctl / 128 % 2 != 0, !dirOk c.kind c.dir, c.kind != 6 && c.mq != 0,
    c.indexed && n != 1, c.kind == 0 && c.dir == 2 && c.wd 1 != 0,
    n == 1 && (c.wd 6 != 0 || c.wd 7 != 0 || (!c.indexed && c.wd 5 != 0)), decide (n ≤ 2) && ctlTab ctl != 0,
    (c.kind == 3 || c.fromFifo) && (extra.any (fun d => d.2.2 != 0)),
    c.toQueue && (c.wd 2 != 0 || extra.any fun d => d.2.1 != 0),
    c.fromFifo && (c.wd 1 != 0 || decide (64 ≤ c.wd 0)),
    !(c.fromFifo || c.kind == 3) && mis c.g, mis (c.wd 2), (extra ++ tab).any (fun d => mis d.2.1 || mis d.2.2),
    c.indexed && c.wd 5 % 4 != 0, !c.toQueue && !pitchOk es c.dims,
    (c.kind == 1 || c.fromFifo) && (c.wd 2 % 16 != 0 || (c.hi - c.lo) % 16 != 0),
    c.fromFifo && es != 16, c.kind == 3 && es == 16 ].any id
/-- A layout fault (R210). -/
def layoutBad (s : State) (ag : SpAgent) (c : Copy) (tab : List Dim) : Bool :=
  recordBad c tab || c.ranges.any (rangeLeaves s ag) ||
    (c.kind == 0 && c.dir == 2 && match c.ranges with
      | [a, b] => rangesMeet a b
      | _ => false)
/-- A bank fault (R204): a scratchpad bank, or the FIFO bank of CPY DIR 3. -/
def copyBankBad (s : State) (ag : SpAgent) (c : Copy) : Bool :=
  c.ranges.any (rangeBank s ag) ||
    (c.fromFifo && let b := (s.cluster ag.cluster).banks.getD (c.wd 0) Bank.reset
                   b.owner != c.dom || b.mode != .fifo)
/-- Scoreboard entries of a copy (R23, R232). DESIGN CHOICE, log 71: the FIFO bank that CPY with DIR 3 reads takes no entry, since R232 lists hulls and the index list only. -/
def copyEntries (s : State) (ag : SpAgent) (c : Copy) : List SbEntry :=
  c.ranges.filterMap fun r => match spRegion s ag r.1.toNat r.2.1 with
    | .ok home => some ⟨c.seq, c.op, c.dom, r.2.2, true, home, homeOff r.1.toNat, homeOff r.1.toNat + r.2.1⟩
    | .error _ => none

/-! ## Issue -/

/-- The team is the producer of its bed (R13). -/
def isProducer (s : State) (t : Team) : Bool := (s.bed t.place.plot t.place.bed).producer == t.place.place
/-- The bed holds a channel (R203). DESIGN CHOICE, log 63: SEL 16 to 31 names a channel that no bed holds (R46 gives channels 0 to 15 and no fault for the rest). -/
def holdsChan (s : State) (t : Team) (ch : Nat) : Bool := decide (ch < 16) && (s.bed t.place.plot t.place.bed).chans.getLsbD ch
/-- A channel of a core. -/
def State.chan (s : State) (core ch : Nat) : Channel := (s.core core).chans.getD ch Channel.reset
/-- Change a channel of a core. -/
def State.modChan (s : State) (core ch : Nat) (f : Channel → Channel) : State := s.modCore core fun c => { c with chans := c.chans.modify ch f }
/-- Where the dimension table of a record lies, when it has one: offset and length (R207). -/
def tableRange (w : List Word) : Option (Nat × Nat) :=
  let ctl := (w.getD 3 0).toNat
  if ctlNdm1 ctl < 2 then none else some (ctlTab ctl * 64, 16 * (ctlNdm1 ctl - 1))
/-- What the read of the dimension table waits for: as any engine read, for entries, watermarks, and stores of the bed's teams that are held (R207, R25, R213). -/
def tableHeld (s : State) (t : Team) (w : List Word) : Option Hold :=
  match tableRange w with
  | none => none
  | some r =>
    let home := SpHome.bed t.place.plot t.place.bed
    if !inBed s t.spAgent r.1 r.2 then none
    else match readHeld s t.place.core t.flow.did home r.1 r.2 s.uid false with
      | some h => some h
      | none => if accHeld s t.place.core t.flow.did home r.1 r.2 s.uid false then some .scoreboard else none
/-- What an issue of a copy that passes every check waits for: its channel's queue, the scoreboard, the counter (R17, R24, R204). -/
def copyHeld (s : State) (t : Team) (ch n : Nat) : Option Hold :=
  if 8 ≤ (s.chan t.place.core ch).q.length || 255 ≤ t.count 0 || !sbRoom s t.place.core t.flow.did n then some .engineQueue else none
/-- Issue a copy that passes every check (R232). -/
def issueCopy (s : State) (t : Team) (stl : BitVec 4) (ch : Nat) (c : Copy) : Out :=
  let s' := (sbTake s t.place.core (copyEntries s t.spAgent c)).modChan t.place.core ch fun x => { x with q := x.q ++ [c] }
  finish { s' with uid := s'.uid + 1 } { t with ops := t.ops ++ [⟨c.op, 0, false⟩] } stl 1
/-- The body of CPY, CPYG, CPYS, CPYF and CPYM: the checks of R204 in order, then the issue. -/
def copyBody (kind : Nat) (f : EForm) (s : State) (t : Team) : Out :=
  let r := f.rbase.toNat
  let ch := f.sel.toNat
  let ag := t.spAgent
  let w := t.record r 8
  if !isProducer s t then raise s t 0x10
  else if !holdsChan s t ch then raise s t 0x13
  else if t.recordPois r 8 then raise s t 0x38
  else match tableHeld s t w with
    | some h => holdTeam s t h
    | none =>
      let tr := tableRange w
      let inside := match tr with
        | some x => inBed s ag x.1 x.2
        | none => true
      let tb := match tr with
        | some x => if inside then spReadRange s ag x.1 x.2 else ([], false)
        | none => ([], false)
      let tab := match tr with
        | some x => tableDims (x.2 / 16) tb.1
        | none => []
      let c := newCopy t kind f.rv.toNat s.uid w tab
      if tb.2 then raise s t 0x38
      else if !inside || layoutBad s ag c tab then raise s t 0x11
      else if copyBankBad s ag c then raise s t 0x0C
      else match copyHeld s t ch (copyEntries s ag c).length with
        | some h => holdTeam s t h
        | none => issueCopy s t f.stl ch c
/-- CPY (R232). -/
def execCpy (f : EForm) (s : State) : Out := issue (.cpy f) s f.stl (eOk 8 f) (eSuppressed f) (copyBody 0 f)
/-- CPYG (R217, R232). -/
def execCpyg (f : EForm) (s : State) : Out := issue (.cpyg f) s f.stl (eOk 8 f) (eSuppressed f) (copyBody 1 f)
/-- CPYS (R219, R232). -/
def execCpys (f : EForm) (s : State) : Out := issue (.cpys f) s f.stl (eOk 8 f) (eSuppressed f) (copyBody 2 f)
/-- CPYF (R220, R232). -/
def execCpyf (f : EForm) (s : State) : Out := issue (.cpyf f) s f.stl (eOk 8 f) (eSuppressed f) (copyBody 3 f)
/-- CPYM (R221, R232). -/
def execCpym (f : EForm) (s : State) : Out := issue (.cpym f) s f.stl (eOk 8 f) (eSuppressed f) (copyBody 6 f)

/-! ## Status -/

/-- STATE of a channel (R229). DESIGN CHOICE, log 117: a channel whose oldest copy is queued and has not started reads 0, idle. -/
def chanState (c : Channel) : Nat := match c.q.head? with
  | none => if c.quiesced then 3 else 0
  | some x => match x.st with
    | .frozen => 2
    | .marking => 4
    | _ => if c.quiesced then 3 else match x.st with
      | .running => 1
      | _ => 0
/-- The words that describe a copy: W, LO, HI, KIND, BYTES (R229). DESIGN CHOICE, log 118: of a CPYM of 2^32 bytes or more, W, HI and BYTES read their low 32 bits. -/
def describe (c : Copy) : List Word := [c.water, c.lo, c.hi, c.kind, c.bytes].map (BitVec.ofNat 32)
/-- The status record of a channel (R229). -/
def chanRecord (c : Channel) : List Word :=
  let d := match c.q.head? with
    | some x => describe x
    | none => c.desc
  let cause := match c.q.head? with
    | some x => if x.st == .frozen then x.cause else 0
    | none => 0
  let fa : DWord := match c.q.head? with
    | some x => if x.st == .frozen then x.faddr else 0
    | none => 0
  [d.getD 0 0, d.getD 1 0, d.getD 2 0,
   BitVec.ofNat 32 (c.q.length * 2 ^ 20 + (d.getD 3 0).toNat * 65536 + cause * 256 + c.last * 64 + chanState c),
   half false fa, half true fa, BitVec.ofNat 32 c.done, d.getD 4 0]
/-- A bit for each channel of the bed that passes a test. -/
def chanBits (s : State) (t : Team) (p : Channel → Bool) : Nat :=
  ((List.range 16).filter fun c => holdsChan s t c && p (s.chan t.place.core c)).foldl (fun x c => x + 2 ^ c) 0
/-- QLEN of eight channels (R230). -/
def chanLens (s : State) (t : Team) (from_ : Nat) : Nat :=
  ((List.range 8).map fun i => if holdsChan s t (from_ + i) then (s.chan t.place.core (from_ + i)).q.length * 16 ^ i else 0).sum
/-- The record of CHST (R230). -/
def chstRecord (s : State) (t : Team) : List Word :=
  [ chanBits s t (fun c => chanState c == 2) * 65536 + (s.bed t.place.plot t.place.bed).chans.toNat,
    chanBits s t (fun c => !c.q.isEmpty), chanLens s t 0, chanLens s t 8,
    sbCap s t.place.core * 256 + sbUsed s t.place.core t.flow.did, 0, 0, 0 ].map (BitVec.ofNat 32)
/-- WMRD (R229, R234). -/
def execWmrd (f : EForm) (s : State) : Out :=
  issue (.wmrd f) s f.stl (eOk 8 f) (eSuppressed f) fun s t =>
    if !isProducer s t then raise s t 0x10
    else if !holdsChan s t f.sel.toNat then raise s t 0x13
    else finish s (t.putRecord f.rbase.toNat (chanRecord (s.chan t.place.core f.sel.toNat))) f.stl 1
/-- CHST (R230, R234). -/
def execChst (f : EForm) (s : State) : Out :=
  issue (.chst f) s f.stl (eOk 8 f) (eSuppressed f) fun s t =>
    if !isProducer s t then raise s t 0x10 else finish s (t.putRecord f.rbase.toNat (chstRecord s t)) f.stl 1

/-! ## Resuming and cancelling -/

/-- Resume the frozen copy of a channel at its element (R225). -/
def resumeCopy (c : Channel) : Channel :=
  { c with q := c.q.mapIdx fun i x => if i = 0 && x.st == .frozen then { x with st := .running, cause := 0, faddr := 0, fresh := true } else x }
/-- A copy that ends as a failed copy writes its poison marks next (R226); outcome 1 cancelled, 2 faulted. -/
def cancelCopy (outcome : Nat) (x : Copy) : Copy := if x.st == .marking then x else { x with st := .marking, outcome := outcome, mark := x.next }
/-- CPYC's actions on a channel (R233). -/
def cpycAct (act : Nat) (c : Channel) : Channel :=
  match act with
  | 0 => resumeCopy c
  | 1 => { c with q := c.q.mapIdx fun i x => if i = 0 then cancelCopy 1 x else x }
  | _ => { c with q := c.q.map (cancelCopy 1) }
/-- CPYC (R233). -/
def execCpyc (f : EForm) (s : State) : Out :=
  issue (.cpyc f) s f.stl (eOk 8 f) (eSuppressed f) fun s t =>
    let a := t.sget f.rbase.toNat
    if !isProducer s t then raise s t 0x10
    else if !holdsChan s t f.sel.toNat then raise s t 0x13
    else if a.poison then raise s t 0x38
    else if 2 < a.bits.toNat then raise s t 0x02
    else finish (s.modChan t.place.core f.sel.toNat (cpycAct a.bits.toNat)) t f.stl 1

/-! ## Running -/

/-- The oldest copy of a channel. -/
def headCopy (s : State) (core ch : Nat) : Option Copy := (s.chan core ch).q.head?
/-- Change the oldest copy of a channel. -/
def modHead (s : State) (core ch : Nat) (g : Copy → Copy) : State :=
  s.modChan core ch fun c => { c with q := c.q.mapIdx fun i x => if i = 0 then g x else x }
/-- The scratchpad agent of a copy (R15). -/
def Copy.spAgent (c : Copy) (core : Nat) : SpAgent := ⟨c.dom, c.plot, c.bed, clusterOf core, false⟩
/-- The global agent of a copy: the streamer's translation cache, the team's privilege (R224, R302). -/
def Copy.agent (c : Copy) (core : Nat) : Agent := ⟨c.dom, c.priv, core, true⟩
/-- An entry of an operation conflicts with an earlier one that is settled by the scoreboard, not by a watermark or the copies' own rule (R25). -/
def sbConflict (e x : SbEntry) : Bool :=
  decide (e.seq < x.seq) && e.dom == x.dom && e.home == x.home && decide (e.lo / 128 < (x.hi + 127) / 128) && decide (x.lo / 128 < (e.hi + 127) / 128)
    && (e.write || x.write) && !(e.write && e.copy && (!x.write || x.copy))
/-- Whether the scoreboard lets an operation start (R25, R27). -/
def sbStarts (s : State) (core op : Nat) : Bool :=
  let l := (s.core core).sb
  (l.filter fun x => x.op == op).all fun x => l.all fun e => !sbConflict e x
/-- COPY_START: the copy at the head of a channel starts (R203, R232). -/
def execCopyStart (x : ChanArg) (s : State) : Out :=
  match headCopy s x.core x.chan with
  | some c => if c.st == .queued && !(s.chan x.core x.chan).quiesced && sbStarts s x.core c.op
              then .next (modHead s x.core x.chan fun c => { c with st := .running }) else .next s
  | none => .next s

/-- A copy's read of scratchpad bytes waits: for the scoreboard or a watermark, an earlier store that is held, or a quiesced bank (R25, R130, R213). -/
def copyReadHeld (s : State) (core : Nat) (c : Copy) (home : SpHome) (off n : Nat) : Bool :=
  (readHeld s core c.dom home (homeOff off) n c.seq false).isSome || accHeld s core c.dom home (homeOff off) n c.seq false
    || bankQuiesced s (clusterOf core) c.dom off
/-- The index of element k and its poison, or none while its read is held (R212, R217). DESIGN CHOICE, log 32: an index in a bank that has changed its mode or owner meanwhile is a poisoned one. -/
def indexOf (s : State) (core : Nat) (c : Copy) (k : Nat) : Option (Nat × Bool) :=
  let off := c.wd 5 + 4 * k
  match spRegion s (c.spAgent core) off 4 with
  | .error _ => some (0, true)
  | .ok home =>
    if copyReadHeld s core c home off 4 then none
    else let r := spReadRange s (c.spAgent core) off 4
         some (bytesNat r.1, r.2)
/-- What reading or writing one element meets. -/
inductive Land (α : Type) where
  | wait
  | fail (code addr : Nat)
  | got (x : α)

/-- Read bytes of a scratchpad source of a copy (R213, R214): an offset that names no readable byte fails as on the global side. -/
def readSp (s : State) (core : Nat) (c : Copy) (off : Nat) : Land (List Byte × Bool) :=
  match spRegion s (c.spAgent core) off c.esize with
  | .error e => .fail (if e = 0x0C then 0x0A else 0x09) off
  | .ok home =>
    if copyReadHeld s core c home off c.esize then .wait
    else .got (spReadRange s (c.spAgent core) off c.esize)
/-- The oldest entry of a copy's FIFO bank (R218): a quiesced or empty bank holds the copy, and one that is no longer the domain's FIFO fails (R130, R168). -/
def readFifo (s : State) (core : Nat) (c : Copy) : Land (List Byte × Bool) :=
  let b := (s.cluster (clusterOf core)).banks.getD (c.wd 0) Bank.reset
  if b.owner == c.dom && b.quiesced.isSome then .wait
  else if b.owner != c.dom || b.mode != .fifo then .fail 0x0A (c.wd 0)
  else match b.fifo with
    | [] => .wait
    | e :: _ => .got (natBytes 16 e.1.toNat, e.2)
/-- Read an element from global memory at an address (R215, R224); a quiesced segment bank stalls it (R130). -/
def readGlobal (s : State) (core : Nat) (c : Copy) (a : Nat) : Land (List Byte × Bool) :=
  match translate s (c.agent core) .read a 1 with
  | .error e => .fail e a
  | .ok (pa, pol) => if segStalls s core pol pa then .wait else .got (homeRead s pa c.esize 0, homePois s pa c.esize)
/-- Bytes of a free value. -/
def freeBytes (s : State) (k n : Nat) : List Byte := (List.range n).map fun i => (s.draw (k + i)).extractLsb' 0 8
/-- The source bytes of element k: what is landed, read or delivered (R217-R221). -/
def sourceOf (s : State) (core : Nat) (c : Copy) (k : Nat) : Land (List Byte × Bool) :=
  let es := c.esize
  match c.kind with
  | 0 => match c.dir with
    | 0 => readGlobal s core c (c.gOf k)
    | 1 => readSp s core c (c.spOf k)
    | 2 => readSp s core c (c.gOf k)
    | _ => readFifo s core c
  | 1 => match indexOf s core c k with
    | none => .wait
    | some (_, true) => .got (freeBytes s 64 es, true)
    | some (i, false) =>
      let a := (c.g + i * es) % 2 ^ 64
      if c.dir = 2 then readSp s core c a else readGlobal s core c a
  | 2 => readSp s core c (c.spOf k)
  | 3 => .got (natBytes es c.g, false)
  | _ => if c.dir = 2 then readSp s core c (c.gOf k) else readGlobal s core c (c.gOf k)
/-- Where element k goes on the global side, or none for a poisoned index (R219). -/
def globalDest (s : State) (core : Nat) (c : Copy) (k : Nat) : Land (Option Nat) :=
  if c.kind = 2 then match indexOf s core c k with
    | none => .wait
    | some (_, true) => .got none
    | some (i, false) => .got (some ((c.g + i * c.esize) % 2 ^ 64))
  else .got (some (c.gOf k))
/-- Whether the destination of element k must wait: a copy that issued before has not passed its bytes (R214), an earlier load or store of them is held (R213), or its bank is quiesced (R130). -/
def destHeld (s : State) (core : Nat) (c : Copy) (k : Nat) : Bool :=
  let off := c.spOf k
  bankQuiesced s (clusterOf core) c.dom off || match spRegion s (c.spAgent core) off c.esize with
    | .error _ => false
    | .ok home => accHeld s core c.dom home (homeOff off) c.esize c.seq true
        || (sbHits (s.core core) c.dom home (homeOff off) c.esize c.seq).any fun e => e.write && e.copy && copyHolds (s.core core) e (homeOff off) c.esize
/-- The failure of a landing whose bank is in another mode after a release (R130, R168); a fill never fails after issue (R220), so what it names there is not written. -/
def destFails (s : State) (core : Nat) (c : Copy) (k : Nat) : Option Nat :=
  if c.kind = 3 then none else match spRegion s (c.spAgent core) (c.spOf k) c.esize with
  | .error e => some (if e = 0x0C then 0x0A else 0x09)
  | .ok _ => none
/-- Bytes that a metadata queue holds (R246). -/
def mqBytes (l : List MqItem) : Nat := (l.filter fun i => match i with
  | .byte _ _ => true
  | .mark _ => false).length
/-- Whether a byte of a unit has been written by an element up to k: by scratchpad offset, or by global address. -/
def elemCovers (c : Copy) (addr : Nat → Nat) (k b : Nat) : Bool := (List.range (k + 1)).any fun j => addr j ≤ b && b < addr j + c.esize
/-- The state and copy after element k landed in scratchpad (R211, R176): full bits, and a granule landed whole and clean is clean again. -/
def landSp (s : State) (core : Nat) (c : Copy) (k : Nat) (bs : List Byte) (poison : Bool) : State × Copy :=
  let off := c.spOf k
  let ag := c.spAgent core
  let s := spWriteRange s ag off bs poison
  let c := if poison then { c with hurt := setIns c.hurt (off / 16) } else c
  let last := decide (c.total ≤ k + 1) || decide (off / 16 < c.spOf (k + 1) / 16)
  let whole := last && !c.hurt.contains (off / 16) &&
    (List.range 16).all fun b => (List.range 16).any fun j => j ≤ k && c.spOf (k - j) ≤ off / 16 * 16 + b && off / 16 * 16 + b < c.spOf (k - j) + c.esize
  let s := match spPlace s ag (off / 16 * 16) with
    | .ok p =>
      let s := if whole then spMod s ag.cluster p fun m => { m with pois := setDel m.pois ((spMem s ag.cluster p).2 / 16) } else s
      if last && (c.kind == 1 || c.fromFifo) then spSetFull s ag.cluster p true else s
    | .error _ => s
  (s, c)
/-- The state and copy after element k was written to global memory at an address (R215, R219, R176); bytes to a peer count in LBYTES (R363). -/
def landGlobal (s : State) (c : Copy) (pa a k : Nat) (bs : List Byte) (poison : Bool) : State × Copy :=
  let s := homeWrite s c.dom none pa bs poison
  if isAperture pa then ((if toPeer s c.dom pa then s.meter c.dom 4 bs.length else s), c) else
  let c := if poison then { c with hurt := setIns c.hurt (a / 32) } else c
  let whole := c.kind != 2 && !c.hurt.contains (a / 32) && (List.range 32).all fun b => elemCovers c c.gOf k (a / 32 * 32 + b)
  ((if whole then { s with mem := s.mem.mark (pa / 32) false } else s), c)
/-- Freeze cause of a fault code (R229). -/
def freezeCause (code : Nat) : Nat := if code = 0x08 then 1 else if code = 0x09 then 2 else if code = 0x0A then 3 else 4
/-- A global-side failure freezes the copy and reports 0x12, or ends it as faulted when its team has ended (R224, R227). -/
def freezeCopy (s : State) (core ch : Nat) (c : Copy) (cause addr : Nat) : State :=
  if c.faultOnFreeze then modHead s core ch (cancelCopy 2)
  else (modHead s core ch fun x => { x with st := .frozen, cause := cause, faddr := BitVec.ofNat 64 addr }).report c.tid 0x12 ch (BitVec.ofNat 64 addr) 0
/-- An element starts another line than the one before it, so its access makes a line request (R215, R323). -/
def newLine (a : Nat) (prev : Option Nat) : Bool := match prev with
  | some b => a / 128 != b / 128
  | none => true
/-- A copy's global read of an element: one request for each line, but an access of its own for each element of an uncached or an aperture page (R215, R322, R355). -/
def copyRead (s : State) (core : Nat) (c : Copy) (a : Nat) (prev : Option Nat) : State :=
  match translate s (c.agent core) .read a 1 with
  | .error _ => s
  | .ok (pa, pol) =>
    let s := tlbFill s (c.agent core) a
    if pol = 2 || isAperture pa then lineRead s core c.dom pol pa c.esize
    else if newLine a prev then lineRead s core c.dom pol (pa / 128 * 128) 128 else s
/-- The global source address of element k, if it has one. -/
def sourceAddr (s : State) (core : Nat) (c : Copy) (k : Nat) : Option Nat :=
  if c.dir != 0 || c.kind == 3 then none
  else if c.kind = 1 then match indexOf s core c k with
    | some (i, false) => some ((c.g + i * c.esize) % 2 ^ 64)
    | _ => none
  else some (c.gOf k)
/-- Account for a landed element: its line request, which a resumed copy makes afresh, and SBYTES (R215, R225, R228, R320). -/
def landCount (s : State) (core : Nat) (c : Copy) (k : Nat) : State :=
  let s := match sourceAddr s core c k with
    | some a => copyRead s core c a (if k = 0 || c.fresh then none else sourceAddr s core c (k - 1))
    | none => s
  s.meter c.dom 2 c.esize
/-- The poison mark of a cancelled copy takes no room, but waits for the queue of its domain as the copy's bytes do (R246). -/
def mqMarks (m : Matrix) (c : Copy) : Bool := m.qowner == c.dom && !(m.images.any fun i => some i.tid == m.holder)
/-- The metadata queue takes bytes of a copy only for its owner (R246), and not while the holder's image is still to be scanned in (R256). -/
def mqTakes (m : Matrix) (c : Copy) : Bool := mqMarks m c && decide (mqBytes (m.mq.getD c.mq []) + c.esize ≤ 2048)
/-- Deliver bytes into a metadata queue (R221, R246). -/
def mqDeliver (s : State) (core q : Nat) (l : List MqItem) : State :=
  s.modCore core fun c => { c with mx := { c.mx with mq := c.mx.mq.modify q (· ++ l) } }
/-- The copy after one more element. -/
def Copy.step (c : Copy) : Copy := { c with next := c.next + 1, fresh := false }
/-- A write to a peer cannot be delivered: no port that carries the estate's traffic delivers, or the one it takes, which the spec leaves open, does not (R363, R364). -/
def linkLost (s : State) (core dom pa : Nat) : Bool :=
  let l := estatePorts s (dieOf core)
  toPeer s dom pa && (l.all (!·) || (l.any (!·) && (s.draw 8).getLsbD 0))
/-- Where the element before element k went on the global side. -/
def prevDest (s : State) (core : Nat) (c : Copy) (k : Nat) : Option Nat :=
  if k = 0 then none else match globalDest s core c (k - 1) with
    | .got a => a
    | _ => none
/-- A copy's global write of an element, with where the one before it went: one line request for each line at its cluster's segment (R322, R323). -/
def copyWrite (s : State) (core : Nat) (c : Copy) (pa pol a : Nat) (prev : Option Nat) : State :=
  let s := tlbFill s (c.agent core) a
  if newLine a prev then lineWrite s core c.dom pol pa else s
/-- Land one element of the running copy (R211, R214, R217-R221, R224): none while it waits. -/
def landOne (s : State) (core ch : Nat) (c : Copy) : Option State :=
  let k := c.next
  match sourceOf s core c k with
  | .wait => none
  | .fail e a => some (freezeCopy (if (sourceAddr s core c k).isSome then tlbFill s (c.agent core) a else s) core ch c (freezeCause e) a)
  | .got (bs, p) =>
    if c.toQueue then
      (if mqTakes (s.core core).mx c
       then some (modHead (mqDeliver (landCount s core c k) core c.mq (bs.map fun b => .byte b p)) core ch Copy.step) else none)
    else if c.toGlobal then match globalDest s core c k with
      | .wait => none
      | .fail e a => some (freezeCopy (tlbFill s (c.agent core) a) core ch c (freezeCause e) a)
      | .got none => some (modHead (landCount s core c k) core ch Copy.step)
      | .got (some a) => match translate s (c.agent core) .write a 2 with
        | .error e => some (freezeCopy (tlbFill s (c.agent core) a) core ch c (freezeCause e) a)
        | .ok (pa, pol) =>
          if linkLost s core c.dom pa then some (freezeCopy s core ch c 4 a)
          else if segStalls s core pol pa then none
          else
            let r := landGlobal (landCount (copyWrite s core c pa pol a (if c.fresh then none else prevDest s core c k)) core c k) c pa a k bs p
            some (modHead r.1 core ch fun _ => r.2.step)
    else if destHeld s core c k then none
    else match destFails s core c k with
    | some e => some (freezeCopy s core ch c (freezeCause e) (c.spOf k))
    | none =>
      let r := landSp (landCount s core c k) core c k bs p
      let s := if c.fromFifo then r.1.modCluster (clusterOf core) fun x => { x with banks := x.banks.modify (c.wd 0) fun b => { b with fifo := b.fifo.drop 1 } }
               else r.1
      some (modHead s core ch fun _ => r.2.step)
/-- Free values that landing one element may use. -/
def landDraws : Nat := 512
/-- Once a copy has landed its last element it has read its last too: its read entries are freed (R23). -/
def landedAll (s : State) (core ch : Nat) : State := match headCopy s core ch with
  | some c => if c.st == .running && decide (c.total ≤ c.next) then sbFreeReads s core c.op else s
  | none => s
/-- COPY_ELEMENT_LAND: the copy at the head of a channel lands its next element (R211). -/
def execCopyElementLand (x : ChanArg) (s : State) : Out :=
  match headCopy s x.core x.chan with
  | some c =>
    if c.st == .running && !(s.chan x.core x.chan).quiesced && decide (c.next < c.total) then
      match landOne s x.core x.chan c with
      | some s' => .next ((landedAll s' x.core x.chan).drawn landDraws)
      | none => .next s
    else .next s
  | none => .next s

/-- An MLOOP that issued after a failed copy, has applied no K-step and whose ranges meet the copy's unlanded destination (R27, R251). -/
def failMeets (sb : List SbEntry) (c : Copy) (m : MCmd) : Bool :=
  m.kind == 0 && m.kdone == 0 && !m.finished && decide (c.op < m.op) && match sb.find? fun e => e.op == c.op && e.write with
    | none => false
    | some e => sb.any fun x => x.op == m.op && x.home == e.home && decide (max (e.lo + (c.startOf c.next - c.lo)) x.lo < min e.hi x.hi)
/-- A matrix command meets the unlanded destination of a copy that is writing its poison marks: it never starts (R27, R251). -/
def cmdDoomed (s : State) (core : Nat) (m : MCmd) : Bool :=
  ((s.core core).chans.flatMap (·.q)).any fun c => c.st == .marking && failMeets (s.core core).sb c m
/-- A failed copy completes: the matrix commands that wait on its unlanded destination never start (R27, R251). -/
def doomMatrix (s : State) (core : Nat) (c : Copy) : State :=
  let mark := fun (l : List MCmd) => l.map fun m => if failMeets (s.core core).sb c m then { m with doomed := true } else m
  s.modCore core fun k => { k with mx := { k.mx with q := mark k.mx.q, images := k.mx.images.map fun i => { i with q := mark i.q } } }
/-- A copy completes: it leaves its channel, its entries are freed, its operation is done and its bound arrival is applied (R20, R23, R222). -/
def completeCopy (s : State) (core ch : Nat) (c : Copy) : State :=
  let c' := { c with mark := max c.mark (if c.outcome = 0 then 0 else c.total) }
  let s := s.modChan core ch fun x => { x with q := x.q.drop 1, last := c.outcome, done := (x.done + 1) % 2 ^ 32, desc := describe c' }
  let s := if c.outcome = 0 then s else doomMatrix s core c
  let s := (sbFree s core c.op).opDone c.tid c.op
  if c.rv = 31 then s
  else match s.team? c.tid with
    | some t => arriveAt s c.plot c.rv t.place.teamix (c.outcome != 0)
    | none => s
/-- COPY_COMPLETE (R215). -/
def execCopyComplete (x : ChanArg) (s : State) : Out :=
  match headCopy s x.core x.chan with
  | some c =>
    if (c.st == .running || (c.st == .queued && c.total == 0 && !(s.chan x.core x.chan).quiesced)) && decide (c.total ≤ c.next)
    then .next (completeCopy s x.core x.chan { c with st := .landed, outcome := 0 }) else .next s
  | none => .next s

/-- Mark the granule of element k poisoned, and full for a gather or FIFO landing (R226); a withdrawn bank is left alone. -/
def markSp (s : State) (core : Nat) (c : Copy) (k : Nat) : State :=
  let ag := c.spAgent core
  match spPlace s ag (c.spOf k) with
  | .error _ => s
  | .ok p =>
    let s := spMod s ag.cluster p fun m => { m with pois := setIns m.pois ((spMem s ag.cluster p).2 / 16) }
    if c.kind = 1 || c.fromFifo then spSetFull s ag.cluster p true else s
/-- Mark the sector of element k poisoned at the home, unless its page fails a check (R226): one line request for each line at the cluster's segment (R322, R323). -/
def markGlobal (s : State) (core : Nat) (c : Copy) (k : Nat) : State :=
  match globalDest s core c k with
  | .got (some a) => match translate s (c.agent core) .write a 2 with
    | .ok (pa, pol) => if isAperture pa then s else
      let s := copyWrite s core c pa pol a (prevDest s core c k)
      { s with mem := s.mem.mark (pa / 32) true }
    | .error _ => s
  | _ => s
/-- The unit that a mark of element k covers. -/
def markUnit (s : State) (core : Nat) (c : Copy) (k : Nat) : Nat :=
  if c.toGlobal then (match globalDest s core c k with
    | .got (some a) => a / 32
    | _ => 0)
  else c.spOf k / 16
/-- The segment through which a mark of element k goes is quiesced (R130). -/
def markStalls (s : State) (core : Nat) (c : Copy) (k : Nat) : Bool :=
  c.toGlobal && match globalDest s core c k with
    | .got (some a) => match translate s (c.agent core) .write a 2 with
      | .ok (pa, pol) => segStalls s core pol pa
      | .error _ => false
    | _ => false
/-- The mark of element k waits: the read of its index is held (R213, R219), its segment is quiesced (R130), or the element itself would wait. DESIGN CHOICE, log 101: the marks of a scratchpad destination wait for what the landings of their bytes would wait for. -/
def markHeld (s : State) (core : Nat) (c : Copy) (k : Nat) : Bool :=
  (c.kind == 2 && (indexOf s core c k).isNone) || markStalls s core c k || (!c.toGlobal && destHeld s core c k)
/-- How many elements from k on one burst of 16 marks reaches (R226). -/
def markReach (s : State) (core : Nat) (c : Copy) : Nat → Nat → List Nat → Nat
  | 0, _, _ => 0
  | fuel + 1, k, units =>
    if c.total ≤ k || markHeld s core c k then 0
    else
      let units := setIns units (markUnit s core c k)
      if 16 < units.length then 0 else 1 + markReach s core c fuel (k + 1) units
/-- POISON_MARKS: a failed copy at the head of a channel, once the scoreboard lets it start (R25, R27), writes up to 16 marks, or delivers the mark of its queue; with the last it completes (R226, R246). -/
def execPoisonMarks (x : ChanArg) (s : State) : Out :=
  match headCopy s x.core x.chan with
  | some c =>
    if c.st != .marking || !sbStarts s x.core c.op then .next s
    else if c.toQueue then
      let left := (c.total - c.next) * c.esize
      if left = 0 then .next (completeCopy s x.core x.chan c)
      else if mqMarks (s.core x.core).mx c then .next (completeCopy (mqDeliver s x.core c.mq [.mark left]) x.core x.chan c)
      else .next s
    else
      let n := markReach s x.core c 256 c.mark []
      if n = 0 && decide (c.mark < c.total) then .next s else
      let s := (List.range n).foldl (fun s i => if c.toGlobal then markGlobal s x.core c (c.mark + i) else markSp s x.core c (c.mark + i)) s
      let c := { c with mark := c.mark + n }
      .next (((if c.total ≤ c.mark then completeCopy s x.core x.chan c else modHead s x.core x.chan fun _ => c).tick 1).drawn landDraws)
  | none => .next s
/-- Stop, or let run again, the channels that the beds of a plot hold (R228). -/
def quiesceChans (s : State) (p : Plot) (stop : Bool) : State :=
  p.beds.foldl (fun s b => s.modCore b.core fun c => { c with chans := c.chans.mapIdx (fun i ch => if b.chans.getLsbD i then { ch with quiesced := stop } else ch) }) s
/-- CHANNEL_QUIESCE: the channels of a plot that is being saved stop (R228). -/
def execChannelQuiesce (x : PlotArg) (s : State) : Out :=
  match s.plot? x.plot with
  | none => .fault .noSuchUnit
  | some p => if p.st != .saving then .next s else .next ((quiesceChans s p true).putPlot { p with quiesced := true })

end Sys2Proof.Machine
end

