-- ==== Sys2Proof/Machine/Matrix.lean ====
section
/-! DEFINITION. The matrix unit (R236-R258, R98): holding it, the record, operand layouts, sparsity, the convolution-unfolding unit, running commands, freezing and the save image. -/

namespace Sys2Proof.Machine

/-! ## The record -/

/-- N (R241). -/
def mN (w : List Word) : Nat := mWd w 10 / 256 % 256 + 1
/-- M (R241). -/
def mM (w : List Word) : Nat := mWd w 10 % 128 + 1
/-- MQ (R241). -/
def mMq (w : List Word) : Nat := mWd w 11 / 16384 % 4
/-- SPARSE (R241). -/
def mSparse (w : List Word) : Nat := mWd w 11 / 1024 % 4
/-- CONV (R241). -/
def mConv (w : List Word) : Bool := mWd w 11 / 512 % 2 == 1
/-- BSCL (R241). -/
def mBscl (w : List Word) : Bool := mWd w 11 / 256 % 2 == 1
/-- ASCL (R241). -/
def mAscl (w : List Word) : Bool := mWd w 11 / 128 % 2 == 1
/-- CTL.ZERO (R241). -/
def mZero (w : List Word) : Bool := mWd w 11 % 2 == 1

/-- Element width in bits of a matrix A or B code (R87). -/
def mWidth (code : Nat) : Option Nat :=
  if code = 1 || code = 2 then some 16 else if code = 3 || code = 4 || code = 6 || code = 7 then some 8
  else if code = 5 || code = 8 then some 4 else none
/-- Whether an operand is of integer class (R242). -/
def mInt (code : Nat) (scaled : Bool) : Bool := code == 7 || code == 8 || (code == 6 && !scaled)
/-- Elements of a K-step (R98, R242). DESIGN CHOICE, log 119: 32 for a format that the matrix unit does not take, where R247's checks on CIN and KS, of 0x02, come before the format check. -/
def mKstep (code : Nat) : Nat := if code = 1 || code = 2 then 16 else 32
/-- A code of a captured FMT: 0 A, 1 B, 2 result, 4 blocklog. -/
def fmtField (fmt : Word) (i : Nat) : Nat := (fmt.extractLsb' (4 * i) 4).toNat
/-- A matrix-format fault (R242). -/
def mFormatBad (w : List Word) (fmt : Word) : Bool :=
  let a := fmtField fmt 0
  let b := fmtField fmt 1
  let bl := fmtField fmt 4
  let scl := fun (c : Nat) (s : Bool) => (s && !([3, 4, 5, 6] : List Nat).contains c) || (c == 5 && !s) || (s && c != 5 && !(4 ≤ bl && bl ≤ 7))
  (mWidth a).isNone || (mWidth b).isNone || mInt a (mAscl w) != mInt b (mBscl w)
    || fmtField fmt 2 != (if mInt a (mAscl w) then 9 else 0) || scl a (mAscl w) || scl b (mBscl w) || mKstep a != mKstep b
/-- Convolution fields (R247). -/
structure Conv where
  ih : Nat
  iw : Nat
  pady : Nat
  padx : Nat
  sy : Nat
  sx : Nat
  fh : Nat
  fw : Nat
  cin : Nat
  ow : Nat
  deriving DecidableEq, Repr
/-- The convolution fields of a record (R247). -/
def mConvOf (w : List Word) : Conv :=
  let c0 := mWd w 12
  let c1 := mWd w 13
  let c2 := mWd w 14
  { ih := c0 / 65536, iw := c0 % 65536, pady := c1 / 2 ^ 24, padx := c1 / 65536 % 256, sy := c1 / 4096 % 16 + 1, sx := c1 / 256 % 16 + 1,
    fh := c1 / 16 % 16 + 1, fw := c1 % 16 + 1, cin := c2 / 65536, ow := c2 % 65536 }
/-- Structure faults of an MLOOP (R241, R245, R247, R258). -/
def mStructBad (w : List Word) (fmt : Word) (vop vregs rows : Nat) : Bool :=
  let ctl := mWd w 11
  let v := mConvOf w
  let k := mKstep (fmtField fmt 0)
  let ks := mKs w
  [ mWd w 10 / 128 % 2 != 0, ctl / 65536 != 0, ctl / 2 % 64 != 0, mMeta w == 3, mSparse w == 3,
    (mSparse w == 0) != (mMeta w == 0), mMq w != 0 && mMeta w != 1, mWd w 3 != 0 && !mAscl w, mWd w 4 != 0 && !mBscl w,
    !mConv w && (mWd w 12 != 0 || mWd w 13 != 0 || mWd w 14 != 0 || mWd w 15 != 0), mConv w && mWd w 8 != 0, mConv w && mSparse w != 0,
    mConv w && (v.ih == 0 || v.iw == 0 || v.cin == 0 || v.ow == 0 || v.cin % k != 0 || v.fh * v.fw * v.cin != ks * k),
    mMeta w != 2 && vop != 0,
    mMeta w == 2 && (vop % 2 != 0 || decide (16 < ks) || decide (vregs < vop + 2 * ks) || decide (rows < mM w)) ].any id
/-- Bytes that a row or column holds in a K-step (R243). -/
def mSeg (code : Nat) (sparse : Bool) : Nat := mKstep code * (mWidth code).getD 8 / 8 / (if sparse then 2 else 1)
/-- The shift of the scale address generator (R90, R244). -/
def mShift (code bl : Nat) (sparse : Bool) : Nat := (if code = 5 then 4 else bl) - (if sparse then 1 else 0)
/-- Bytes of a scale record. -/
def mRsize (code : Nat) : Nat := if code = 5 then 2 else 1
/-- Alignment faults of an MLOOP (R90, R243, R247). -/
def mAlignBad (w : List Word) (fmt : Word) : Bool :=
  let a := fmtField fmt 0
  let b := fmtField fmt 1
  let bl := fmtField fmt 4
  let sp := mSparse w != 0
  let off := fun (m : Nat) (l : List Nat) => l.any fun i => mWd w i % m != 0
  let scl := fun (base sb code : Nat) (sparse : Bool) => mWd w base % 2 ^ mShift code bl sparse != 0 || mWd w sb % mRsize code != 0
  (if mConv w then off 16 [0, 5] else off (mSeg a sp) [0, 5, 8]) || off (mSeg b false) [1, 6, 9]
    || (mAscl w && scl 0 3 a sp) || (mBscl w && scl 1 4 b false)

/-! ## Addresses -/

/-- n32 arithmetic. -/
def n32 (x : Nat) : Nat := x % 2 ^ 32
/-- Where row m of A, or column n of B, starts in K-step j (R243, R245). -/
def mRowAt (w : List Word) (b : Bool) (j r : Nat) : Nat :=
  if b then n32 (mWd w 1 + j * mWd w 9 + r * mWd w 6) else n32 (mWd w 0 + j * mWd w 8 + r * mWd w 5)
/-- The input element of the virtual A at (m, k): its address, or none for padding (R247). -/
def mConvAt (w : List Word) (width m k : Nat) : Option (Nat × Bool) :=
  let v := mConvOf w
  let p := mWd w 15 + m
  let t := k / v.cin
  let c := k % v.cin
  let iy : Int := (p / v.ow * v.sy + t / v.fw : Nat) - (v.pady : Int)
  let ix : Int := (p % v.ow * v.sx + t % v.fw : Nat) - (v.padx : Int)
  if 0 ≤ iy && iy < v.ih && 0 ≤ ix && ix < v.iw then
    some (n32 (mWd w 0 + (iy.toNat * v.iw + ix.toNat) * mWd w 5 + c * width / 8), c % 2 == 1)
  else none
/-- Addresses of the elements of a row or column in K-step j: address and nibble, none for padding. -/
def mElems (w : List Word) (fmt : Word) (b : Bool) (j r : Nat) : List (Option (Nat × Bool)) :=
  let code := fmtField fmt (if b then 1 else 0)
  let width := (mWidth code).getD 8
  let ks := mKstep code
  let n := if !b && mSparse w != 0 then ks / 2 else ks
  (List.range n).map fun i =>
    if !b && mConv w then mConvAt w width r (j * ks + i) else some (mRowAt w b j r + i * width / 8, i % 2 == 1)
/-- Where the scale record of an element lies (R90, R244). -/
def mScaleAt (w : List Word) (fmt : Word) (b : Bool) (a : Nat) : Nat :=
  let code := fmtField fmt (if b then 1 else 0)
  let base := mWd w (if b then 1 else 0)
  mWd w (if b then 4 else 3) + n32 (a + 2 ^ 32 - base) / 2 ^ mShift code (fmtField fmt 4) (!b && mSparse w != 0) * mRsize code
/-- A hull of byte ranges: lowest and one past the highest. -/
def hullOf (l : List (Nat × Nat)) : Option (Nat × Nat) :=
  match l with
  | [] => none
  | x :: r => some (r.foldl (fun h y => (min h.1 y.1, max h.2 y.2)) x)
/-- Byte ranges of the rows of A or the columns of B over all K-steps. -/
def mSpans (w : List Word) (fmt : Word) (b : Bool) : List (Nat × Nat) :=
  let code := fmtField fmt (if b then 1 else 0)
  let seg := mSeg code (!b && mSparse w != 0)
  if !b && mConv w then
    let v := mConvOf w
    [(mWd w 0, mWd w 0 + (v.ih * v.iw - 1) * mWd w 5 + v.cin * (mWidth code).getD 8 / 8)]
  else (List.range (mKs w)).flatMap fun j => (List.range (if b then mN w else mM w)).map fun r => (mRowAt w b j r, mRowAt w b j r + seg)
/-- Byte ranges of the scale records of an operand. -/
def mScaleSpans (w : List Word) (fmt : Word) (b : Bool) : List (Nat × Nat) :=
  let code := fmtField fmt (if b then 1 else 0)
  (mSpans w fmt b).map fun x => (mScaleAt w fmt b x.1, mScaleAt w fmt b (x.2 - 1) + mRsize code)
/-- The ranges an MLOOP names: the hulls of A, of B and of the scales (R249). -/
def mloopRanges (w : List Word) (fmt : Word) : List (Nat × Nat) :=
  let scales := (if mAscl w then mScaleSpans w fmt false else []) ++ (if mBscl w then mScaleSpans w fmt true else [])
  (hullOf (mSpans w fmt false)).toList ++ (hullOf (mSpans w fmt true)).toList ++ (hullOf scales).toList
/-- The range of C that MST and MLDA name (R254). -/
def mcRange (w : List Word) : Nat × Nat := (mWd w 2, mWd w 2 + (mM w - 1) * mWd w 7 + 4 * mN w)
/-- The fault of ranges that leave the map (0x09) or name a bank (0x0C) (R240). -/
def rangesFault (s : State) (ag : SpAgent) (l : List (Nat × Nat)) : Option Nat :=
  let r := l.map fun x => spRegion s ag x.1 (x.2 - x.1)
  if r.any fun x => match x with
    | .error 0x0C => false
    | .error _ => true
    | .ok _ => false then some 0x09
  else if r.any fun x => match x with
    | .error _ => true
    | .ok _ => false then some 0x0C
  else none

/-! ## Holding and issue -/

/-- The unit of a core. -/
def State.mx (s : State) (core : Nat) : Matrix := (s.core core).mx
/-- Change the unit of a core. -/
def State.modMx (s : State) (core : Nat) (f : Matrix → Matrix) : State := s.modCore core fun c => { c with mx := f c.mx }
/-- The time for which the unit has held its domain's commands is kept as its queue fills and empties (R239): the unit after a change, at an ac. -/
def leaseMark (ac : Nat) (old new : Matrix) : Matrix :=
  if old.q.isEmpty && !new.q.isEmpty then { new with leaseAt := ac }
  else if !old.q.isEmpty && new.q.isEmpty then { new with leaseHeld := new.leaseHeld + (ac - old.leaseAt) }
  else new
/-- Change the unit of a core, its queue included. -/
def State.modMxq (s : State) (core : Nat) (f : Matrix → Matrix) : State := s.modMx core fun m => leaseMark s.clock.ac m (f m)
/-- Whether a team is displaced or saved: its image holds its work (R239). -/
def mDisplaced (m : Matrix) (tid : Nat) : Bool := m.images.any fun i => i.tid == tid
/-- Whether a team holds the unit: it was granted and has not released (R237-R239). -/
def mHolds (m : Matrix) (tid : Nat) : Bool := (m.holder == some tid && !m.releasing && !mDisplaced m tid) || m.images.any fun i => i.tid == tid && !i.releasing
/-- The commands of a team in the unit or in its list. -/
def mQueue (m : Matrix) (tid : Nat) : List MCmd := match m.images.find? fun i => i.tid == tid with
  | some i => i.q
  | none => m.q
/-- What the issue of a matrix command waits for: the queue of 4, the counter, the scoreboard (R16, R17, R24). -/
def mHeld (s : State) (t : Team) (n : Nat) : Option Hold :=
  if 4 ≤ ((mQueue (s.mx t.place.core) t.tid).filter fun c => !c.started).length || 255 ≤ t.count 1 || !sbRoom s t.place.core t.flow.did n
  then some .engineQueue else none
/-- Put a command into the unit's queue, or into the list of a displaced team (R239). -/
def mPut (m : Matrix) (c : MCmd) : Matrix :=
  if mDisplaced m c.tid then { m with images := m.images.map fun i => if i.tid == c.tid then { i with q := i.q ++ [c] } else i }
  else { m with q := m.q ++ [c] }
/-- Scoreboard entries of a command. -/
def mEntries (s : State) (ag : SpAgent) (op dom : Nat) (write : Bool) (l : List (Nat × Nat)) : List SbEntry :=
  l.filterMap fun x => match spRegion s ag x.1 (x.2 - x.1) with
    | .ok home => some ⟨op, op, dom, write, false, home, homeOff x.1, homeOff x.1 + (x.2 - x.1)⟩
    | .error _ => none
/-- Issue a checked command (R248). -/
def mIssue (f : EForm) (kind : Nat) (w : List Word) (md : List (List DWord)) (ranges : List (Nat × Nat)) (s : State) (t : Team) : Out :=
  let es := mEntries s t.spAgent s.uid t.flow.did (kind == 2) ranges
  match mHeld s t es.length with
  | some h => holdTeam s t h
  | none =>
    let c : MCmd := { op := s.uid, kind := kind, acc := f.sel.toNat, tid := t.tid, dom := t.flow.did, wds := w, fmt := t.flow.fmt, regMeta := md,
                      kdone := 0, started := false, status := 0, finished := false, doomed := false }
    let s' := (sbTake s t.place.core es).modMxq t.place.core fun m => mPut m c
    finish { s' with uid := s'.uid + 1 } { t with ops := t.ops ++ [⟨c.op, 1, false⟩] } f.stl 1
/-- MLOOP (R240-R248). -/
def execMloop (f : EForm) (s : State) : Out :=
  issue (.mloop f) s f.stl (eOk 16 f) (eSuppressed f) fun s t =>
    let w := t.record f.rbase.toNat 16
    let vop := f.vop.toNat
    let ok := decide (vop + 2 * mKs w ≤ t.foot.vregs) && decide (mM w ≤ t.foot.rows)
    let regs := if ok then metaRegs vop w else []
    let t := t.awaitRegs regs
    let pois := regs.any fun r => (List.range (mM w)).any fun m => (t.vget r m).poison
    if !mHolds (s.mx t.place.core) t.tid then raise s t 0x02
    else if t.recordPois f.rbase.toNat 16 || pois then raise s t 0x38
    else if mStructBad w t.flow.fmt vop t.foot.vregs t.foot.rows then raise s t 0x02
    else if mFormatBad w t.flow.fmt then raise s t 0x1A
    else if mAlignBad w t.flow.fmt then raise s t 0x0B
    else
      let ranges := mloopRanges w t.flow.fmt
      match rangesFault s t.spAgent ranges with
      | some c => raise s t c
      | none =>
        let md := if mMeta w = 2 then (List.range (mM w)).map fun m => (List.range (mKs w)).map fun j =>
          (t.vget (vop + 2 * j + 1) m).bits ++ (t.vget (vop + 2 * j) m).bits else []
        mIssue f 0 w md ranges s t
/-- MZERO (R252). -/
def execMzero (f : EForm) (s : State) : Out :=
  issue (.mzero f) s f.stl (fun t => qHeaderOk t f.pq) (eSuppressed f) fun s t =>
    if !mHolds (s.mx t.place.core) t.tid then raise s t 0x02 else mIssue f 1 [] [] [] s t
/-- MST and MLDA (R240, R241, R243, R254). -/
def mcBody (kind : Nat) (f : EForm) (s : State) (t : Team) : Out :=
  let w := t.record f.rbase.toNat 16
  if !mHolds (s.mx t.place.core) t.tid then raise s t 0x02
  else if t.recordPois f.rbase.toNat 16 then raise s t 0x38
  else if mWd w 7 < 4 * mN w then raise s t 0x02
  else if mWd w 2 % 16 != 0 || mWd w 7 % 16 != 0 then raise s t 0x0B
  else match rangesFault s t.spAgent [mcRange w] with
    | some c => raise s t c
    | none => mIssue f kind w [] [mcRange w] s t
/-- MST (R254). -/
def execMst (f : EForm) (s : State) : Out := issue (.mst f) s f.stl (eOk 16 f) (eSuppressed f) (mcBody 2 f)
/-- MLDA (R254). -/
def execMlda (f : EForm) (s : State) : Out := issue (.mlda f) s f.stl (eOk 16 f) (eSuppressed f) (mcBody 3 f)
/-- The matrix share of a domain on a core (R237). -/
def mShare (s : State) (core dom : Nat) : Nat := match coreSlot s core dom with
  | some w => slotShare w
  | none => 0
/-- MACQ (R237). A wait that goes on keeps its place among the requests; one that issues anew, after a handler that abandoned the wait or waits again, asks as the newest (R119; DEDUCED, log 124). -/
def execMacq (f : EForm) (s : State) : Out :=
  issue (.macq f) s f.stl (fun t => qHeaderOk t f.pq) (eSuppressed f) fun s t =>
    let m := s.mx t.place.core
    if mHolds m t.tid then finish s t f.stl 1
    else if mShare s t.place.core t.flow.did = 0 then raise s { t with trap := { t.trap with dcause := 1 } } 0x31
    else
      let s := if t.sched.hold == some .macq && m.reqs.any (fun r => r.tid == t.tid) then s
               else s.modMx t.place.core fun m => { m with reqs := m.reqs.filter (fun r => r.tid != t.tid) ++ [⟨t.tid, t.flow.did, s.clock.ac⟩] }
      holdTeam s t .macq
/-- The unit is free. -/
def mFree (m : Matrix) : Matrix := { m with holder := none, releasing := false, frozen := false }
/-- A team gives up the unit: at once when its queue is empty, else when it drains (R238). -/
def mRelease (m : Matrix) : Matrix := if m.q.isEmpty then mFree m else { m with releasing := true }
/-- A displaced team gives up the unit (R238): at once when its list is empty, but an image that its grant is to bring back is scanned in first. -/
def relImage (m : Matrix) (tid : Nat) : Matrix :=
  { m with images := (m.images.filter fun i => !(i.tid == tid && i.q.isEmpty && m.holder != some tid)).map fun i => if i.tid == tid then { i with releasing := true } else i }
/-- MREL (R238). -/
def execMrel (f : EForm) (s : State) : Out :=
  issue (.mrel f) s f.stl (fun t => qHeaderOk t f.pq) (eSuppressed f) fun s t =>
    let m := s.mx t.place.core
    if mDisplaced m t.tid then finish (s.modMx t.place.core fun m => relImage m t.tid) t f.stl 1
    else if m.holder == some t.tid then finish (s.modMx t.place.core mRelease) t f.stl 1
    else finish s t f.stl 1
/-- Whether accumulator words are poisoned. -/
def accPois (l : List (Nat × Elem)) : Bool := l.any fun e => e.2.poison
/-- The record of MSTAT (R255). -/
def mstatRecord (s : State) (t : Team) : List Word :=
  let m := s.mx t.place.core
  let held := mHolds m t.tid
  let img := m.images.find? fun i => i.tid == t.tid
  let acc := match img with
    | some i => i.acc
    | none => m.acc
  let mq := match img with
    | some i => i.mq
    | none => m.mq
  let b := fun (x : Bool) (n : Nat) => if x then n else 0
  let q := fun k => b held (mqBytes (mq.getD k []))
  [ min 7 ((t.ops.filter fun o => o.cls == 1 && !o.done).length) * 32 + b (held && img.isSome) 8 + b held 4 + b (held && accPois (acc.getD 1 [])) 2
      + b (held && accPois (acc.getD 0 [])) 1,
    t.mat.last, t.mat.kdone, q 1 * 65536 + q 0, q 3 * 65536 + q 2, agetD m.ksteps t.flow.did 0 % 2 ^ 32, 0, 0 ].map (BitVec.ofNat 32)
/-- MSTAT (R255). -/
def execMstat (f : EForm) (s : State) : Out :=
  issue (.mstat f) s f.stl (eOk 8 f) (eSuppressed f) fun s t => finish s (t.putRecord f.rbase.toNat (mstatRecord s t)) f.stl 1
/-- An MLOOP of the team still names a queue of a mask (R253). -/
def mqBusy (m : Matrix) (tid mask : Nat) : Bool :=
  (mQueue m tid).any fun c => c.tid == tid && c.kind == 0 && mMeta c.wds == 1 && mask / 2 ^ mMq c.wds % 2 == 1
/-- Empty the queues of a mask. -/
def mqClear (l : List (List MqItem)) (mask : Nat) : List (List MqItem) := l.mapIdx fun i q => if mask / 2 ^ i % 2 = 1 then [] else q
/-- MQSET (R253). -/
def execMqset (f : EForm) (s : State) : Out :=
  issue (.mqset f) s f.stl (eOk 8 f) (eSuppressed f) fun s t =>
    let w := t.record f.rbase.toNat 8
    let m := s.mx t.place.core
    if !mHolds m t.tid then raise s t 0x02
    else if t.recordPois f.rbase.toNat 8 then raise s t 0x38
    else if 16 ≤ mWd w 0 || (w.drop 1).any (fun x => x != 0) then raise s t 0x02
    else if mqBusy m t.tid (mWd w 0) then holdTeam s t .mqset
    else
      let s' := s.modMx t.place.core fun m =>
        if mDisplaced m t.tid then { m with images := m.images.map fun i => if i.tid == t.tid then { i with mq := mqClear i.mq (mWd w 0) } else i }
        else { m with mq := mqClear m.mq (mWd w 0) }
      finish s' t f.stl 1

/-! ## Running -/

/-- An accumulator word. -/
def accGet (l : List (Nat × Elem)) (m n : Nat) : Elem := agetD l (256 * m + n) Elem.zero
/-- Set an accumulator word; zero clean words are not listed. -/
def accPut (l : List (Nat × Elem)) (m n : Nat) (e : Elem) : List (Nat × Elem) :=
  if e = Elem.zero then adel l (256 * m + n) else aput l (256 * m + n) e
/-- Apply a function to each word of a region. -/
def accRegion (l : List (Nat × Elem)) (rows cols : Nat) (g : Nat → Nat → Elem → Elem) : List (Nat × Elem) :=
  (List.range rows).foldl (fun l m => (List.range cols).foldl (fun l n => accPut l m n (g m n (accGet l m n))) l) l
/-- Poison every word of a command's region (R245, R246, R251). -/
def accPoison (l : List (Nat × Elem)) (w : List Word) : List (Nat × Elem) := accRegion l (mM w) (mN w) fun _ _ e => { e with poison := true }
/-- The scratchpad agent of a command (R15). -/
def mAgent (s : State) (core : Nat) (c : MCmd) : SpAgent := match s.team? c.tid with
  | some t => ⟨c.dom, t.place.plot, t.place.bed, clusterOf core, false⟩
  | none => ⟨c.dom, 0, 0, clusterOf core, false⟩
/-- The ranges that a command names (R249). -/
def cmdRanges (c : MCmd) : List (Nat × Nat) := if c.kind = 0 then mloopRanges c.wds c.fmt else if c.kind = 1 then [] else [mcRange c.wds]
/-- A command whose ranges no longer lie in banks of the domain in scratchpad mode (R130, R168) cannot run. -/
def cmdLost (s : State) (core : Nat) (c : MCmd) : Bool := (rangesFault s (mAgent s core c) (cmdRanges c)).isSome
/-- Whether a read of a range is held (R25, R212), by an earlier store that is held too (R249). -/
def mReadHeld (s : State) (core : Nat) (c : MCmd) (x : Nat × Nat) : Bool :=
  let ag := mAgent s core c
  rangeQuiesced s ag.cluster c.dom x.1 x.2 || match spRegion s ag x.1 (x.2 - x.1) with
    | .ok home => (readHeld s core c.dom home (homeOff x.1) (x.2 - x.1) c.op false).isSome || accHeld s core c.dom home (homeOff x.1) (x.2 - x.1) c.op false
    | .error _ => false
/-- The byte ranges of the rows of C. -/
def cRows (w : List Word) : List (Nat × Nat) := (List.range (mM w)).map fun m => (mWd w 2 + m * mWd w 7, mWd w 2 + m * mWd w 7 + 4 * mN w)
/-- MST's writes wait for a quiesced bank, and for earlier loads and stores of their bytes that are held (R130, R249). -/
def mstHeld (s : State) (core : Nat) (c : MCmd) : Bool :=
  let ag := mAgent s core c
  (cRows c.wds).any fun x => rangeQuiesced s ag.cluster c.dom x.1 x.2 || match spRegion s ag x.1 (x.2 - x.1) with
    | .ok home => accHeld s core c.dom home (homeOff x.1) (x.2 - x.1) c.op true
    | .error _ => false
/-- The byte ranges that K-step j reads. -/
def kReads (c : MCmd) (j : Nat) : List (Nat × Nat) :=
  let one := fun (b scaled : Bool) =>
    let code := fmtField c.fmt (if b then 1 else 0)
    let size := max 1 ((mWidth code).getD 8 / 8)
    (List.range (if b then mN c.wds else mM c.wds)).flatMap fun r => (mElems c.wds c.fmt b j r).flatMap fun e => match e with
      | none => []
      | some (a, _) => (a, a + size) :: (if scaled then let x := mScaleAt c.wds c.fmt b a
                                                        [(x, x + mRsize code)] else [])
  one false (mAscl c.wds) ++ one true (mBscl c.wds)
/-- The value of an element with its scale (R89, R90, R244). -/
def mValue (code : Nat) (raw : Nat) (scale : Option (Nat × Nat)) : FVal :=
  match scale with
  | none => match codeOf code with
    | some (.flt f) => numOf f raw
    | some (.int w sg) => numInt (intOf w sg raw)
    | none => .nan
  | some (e, x) =>
    if e = 0xFF then .nan else if code = 5 then decodeF4x raw e x
    else match codeOf code with
      | some (.flt f) => (numOf f raw).scale ((e : Int) - 127)
      | some (.int w sg) => (numInt (intOf w sg raw)).scale ((e : Int) - 127)
      | none => .nan
/-- The elements of a row or column in K-step j: values and whether any byte read is poisoned; padding is +0 (R247). -/
def mRow (s : State) (core : Nat) (c : MCmd) (b : Bool) (j r : Nat) : List FVal × Bool :=
  let ag := mAgent s core c
  let code := fmtField c.fmt (if b then 1 else 0)
  let width := (mWidth code).getD 8
  let scaled := if b then mBscl c.wds else mAscl c.wds
  let l := (mElems c.wds c.fmt b j r).map fun e => match e with
    | none => (FVal.fin false 0 0, false)
    | some (a, hi) =>
      let d := spReadRange s ag a (max 1 (width / 8))
      let raw := if width = 4 then bytesNat d.1 / (if hi then 16 else 1) % 16 else bytesNat d.1
      let sc := if scaled then some (spReadRange s ag (mScaleAt c.wds c.fmt b a) (mRsize code)) else none
      (mValue code raw (sc.map (fun (x : List Byte × Bool) => ((x.1.getD 0 0).toNat, (x.1.getD 1 0).toNat))), d.2 || (match sc with
        | some x => x.2
        | none => false))
  (l.map (·.1), l.any (·.2))
/-- Group size, kept per group, index bits and field bits of a SPARSE code (R245). -/
def sparseShape (sp : Nat) : Nat × Nat × Nat × Nat := if sp = 1 then (4, 2, 2, 4) else (8, 4, 3, 12)
/-- The indices of a metadata word, by kept value. -/
def sparseIdx (sp kstep : Nat) (w : DWord) : List Nat :=
  let (g, k, b, f) := sparseShape sp
  (List.range (kstep / g * k)).map fun q => w.toNat / 2 ^ (q / k * f + b * (q % k)) % 2 ^ b
/-- Whether an index sequence does not rise strictly inside a group (R245). -/
def sparseBad (sp kstep : Nat) (w : DWord) : Bool :=
  let k := (sparseShape sp).2.1
  let l := sparseIdx sp kstep w
  (List.range l.length).any fun q => q % k != 0 && decide (l.getD q 0 ≤ l.getD (q - 1) 0)
/-- The dense place in the K-step of each kept value. -/
def sparsePlaces (sp kstep : Nat) (w : DWord) : List Nat :=
  let (g, k, _, _) := sparseShape sp
  (sparseIdx sp kstep w).zipIdx.map fun x => x.2 / k * g + x.1
/-- One accumulator word after a K-step (R98, R242). -/
def kWord (c : MCmd) (fresh : Bool) (base : Elem) (a : List FVal) (places : List Nat) (b : List FVal) : Word :=
  let prods := (a.zip places).map fun x => x.1.mul (b.getD x.2 (.fin false 0 0))
  if mInt (fmtField c.fmt 0) (mAscl c.wds) then
    let acc := if fresh then 0 else intOf 32 true base.bits.toNat
    BitVec.ofNat 32 (intResult 32 true (c.fmt.getLsbD 15) (acc + (prods.map fun x => x.scaled 0).sum))
  else
    let acc := if fresh then FVal.fin false 0 0 else numOf fp32 base.bits.toNat
    BitVec.ofNat 32 (toFloat fp32 ⟨0, false, false, none⟩ (FVal.sum 0 (acc :: prods)))
/-- Apply a K-step with its metadata words (by row m) to the accumulator; more poisons the whole region (R246, R248): the words, and whether any poison was set. -/
def kApply (s : State) (core : Nat) (c : MCmd) (md : List DWord) (more : Bool) (acc : List (Nat × Elem)) : List (Nat × Elem) × Bool :=
  let j := c.kdone
  let kstep := mKstep (fmtField c.fmt 0)
  let sp := mSparse c.wds
  let rows := (List.range (mM c.wds)).map fun m => mRow s core c false j m
  let cols := (List.range (mN c.wds)).map fun n => mRow s core c true j n
  let fresh := j == 0 && mZero c.wds
  let places := fun m => if sp = 0 then List.range kstep else sparsePlaces sp kstep (md.getD m 0)
  let acc := accRegion acc (mM c.wds) (mN c.wds) fun m n e =>
    let a := rows.getD m ([], false)
    let b := cols.getD n ([], false)
    ⟨kWord c fresh e a.1 (places m) b.1, (!fresh && e.poison) || a.2 || b.2 || more⟩
  (acc, more || rows.any (·.2) || cols.any (·.2))
/-- Take n bytes' worth from a metadata queue: the bytes, whether any is marked or poisoned, and the rest; none when it holds fewer (R245, R246). DESIGN CHOICE, log 108: the bytes that a mark stands for are zero. -/
def mqPop : Nat → List MqItem → Option (List Byte × Bool × List MqItem)
  | _, [] => none
  | 0, l => some ([], false, l)
  | n + 1, .byte b p :: r => if n = 0 then some ([b], p, r) else match mqPop n r with
    | some (bs, q, rest) => some (b :: bs, p || q, rest)
    | none => none
  | n + 1, .mark k :: r =>
    if n + 1 < k then some (List.replicate (n + 1) 0, true, .mark (k - (n + 1)) :: r)
    else if n + 1 = k then some (List.replicate k 0, true, r)
    else match mqPop (n + 1 - k) r with
      | some (bs, _, rest) => some (List.replicate k 0 ++ bs, true, rest)
      | none => none
/-- Metadata words of popped bytes. -/
def mqWords : Nat → List Byte → List DWord
  | 0, _ => []
  | n + 1, bs => BitVec.ofNat 64 (bytesNat (bs.take 8)) :: mqWords n (bs.drop 8)
/-- Change the command at the head of the queue. -/
def modCmd (s : State) (core : Nat) (g : MCmd → MCmd) : State :=
  s.modMx core fun m => { m with q := m.q.mapIdx fun i c => if i = 0 then g c else c }
/-- Change an accumulator. -/
def modAcc (s : State) (core n : Nat) (g : List (Nat × Elem) → List (Nat × Elem)) : State := s.modMx core fun m => { m with acc := m.acc.modify n g }
/-- Set the matrix status of a team (R255). -/
def setMat (s : State) (tid : Nat) (g : MatSt → MatSt) : State := match s.team? tid with
  | some t => s.putTeam { t with mat := g t.mat }
  | none => s
/-- The unit may work: it has a holder, is not frozen and waits for no scan-in. -/
def mRuns (m : Matrix) : Bool := match m.holder with
  | some tid => !m.frozen && !mDisplaced m tid
  | none => false
/-- ac that the unit works, counted against the lease (R239, R250). -/
def mWork (s : State) (core n : Nat) : State := s.modMx core fun m => { m with leaseUsed := m.leaseUsed + n }
/-- MATRIX_COMMAND_START (R248, R250, R251): a doomed MLOOP never starts; malformed register metadata ends it (R245). -/
def execMatrixCommandStart (x : CoreArg) (s : State) : Out :=
  let m := s.mx x.core
  match m.q with
  | c :: _ =>
    if !mRuns m || c.started || !sbStarts s x.core c.op then .next s
    else
      let s := (mWork s x.core (if c.kind = 0 then 24 else if c.kind = 1 then 16 else 8 + (mM c.wds * mN c.wds * 4 + 255) / 256))
      let s := if c.kind = 0 then setMat s c.tid fun a => { a with kdone := 0 } else s
      if c.doomed || cmdDoomed s x.core c || cmdLost s x.core c then .next (modCmd s x.core fun c => { c with started := true, finished := true, doomed := true })
      else if c.kind = 0 && mMeta c.wds == 2 && c.regMeta.any (fun l => l.any (sparseBad (mSparse c.wds) (mKstep (fmtField c.fmt 0)))) then
        .next ((modCmd s x.core fun c => { c with started := true, finished := true, status := 2 }).report c.tid 0x18 c.acc 0 0)
      else .next (modCmd s x.core fun c => { c with started := true })
  | [] => .next s
/-- Times of a K-step (R250). -/
def kTime (c : MCmd) : Nat := (if fmtField c.fmt 0 = 5 && fmtField c.fmt 1 = 5 then 16 else 32) / (if mSparse c.wds = 0 then 1 else 2)
/-- A K-step has been applied: counts and meters (R255, R320); with the last the command has read all it reads (R23). -/
def kCount (s : State) (core : Nat) (c : MCmd) (pois : Bool) : State :=
  let s := modCmd s core fun c => { c with kdone := c.kdone + 1, status := if pois then 1 else c.status }
  let s := (setMat s c.tid fun a => { a with kdone := c.kdone + 1 }).meter c.dom 1 1
  let s := if mKs c.wds ≤ c.kdone + 1 then sbFreeReads s core c.op else s
  mWork (s.modMx core fun m => { m with ksteps := aput m.ksteps c.dom (agetD m.ksteps c.dom 0 + 1) }) core (kTime c)
/-- MATRIX_K_STEP (R98, R245, R246, R248). DESIGN CHOICE, log 107: a step whose metadata is marked or poisoned reports no malformed entry. -/
def execMatrixKStep (x : CoreArg) (s : State) : Out :=
  let m := s.mx x.core
  match m.q with
  | c :: _ =>
    if !mRuns m || !c.started || c.kind != 0 || c.finished || c.doomed || mKs c.wds ≤ c.kdone then .next s
    else if cmdDoomed s x.core c then .next (modCmd s x.core fun c => { c with finished := true, doomed := true })
    else if (kReads c c.kdone).any (mReadHeld s x.core c) then .next s
    else if cmdLost s x.core c then .next (modCmd s x.core fun c => { c with finished := true, doomed := true })
    else if mMeta c.wds = 1 then
      match mqPop (8 * mM c.wds) (m.mq.getD (mMq c.wds) []) with
      | none => .next s
      | some (bs, marked, rest) =>
        let md := mqWords (mM c.wds) bs
        let s := s.modMx x.core fun m => { m with mq := m.mq.set (mMq c.wds) rest }
        if !marked && md.any (sparseBad (mSparse c.wds) (mKstep (fmtField c.fmt 0))) then
          .next ((modCmd (modAcc (sbFreeReads s x.core c.op) x.core c.acc fun l => accPoison l c.wds) x.core fun c => { c with finished := true, status := 2 }).report
            c.tid 0x18 c.acc 0 0)
        else
          let r := kApply s x.core c md marked ((s.mx x.core).acc.getD c.acc [])
          .next (kCount (modAcc s x.core c.acc fun _ => r.1) x.core c r.2)
    else
      let r := kApply s x.core c (c.regMeta.map fun l => l.getD c.kdone 0) false (m.acc.getD c.acc [])
      .next (kCount (modAcc s x.core c.acc fun _ => r.1) x.core c r.2)
  | [] => .next s
/-- Words of row m of C that lie in the k-th 16-byte piece. -/
def mstPiece (acc : List (Nat × Elem)) (n m k : Nat) : List Elem := ((List.range 4).filter fun i => 4 * k + i < n).map fun i => accGet acc m (4 * k + i)
/-- MST's writes (R251, R254): the state, and whether a poisoned word was stored. -/
def mstWrite (s : State) (core : Nat) (c : MCmd) : State × Bool :=
  let ag := mAgent s core c
  let acc := (s.mx core).acc.getD c.acc []
  let n := mN c.wds
  let pieces := (List.range (mM c.wds)).flatMap fun m => (List.range ((n + 3) / 4)).map fun k => (mWd c.wds 2 + m * mWd c.wds 7 + 16 * k, mstPiece acc n m k)
  (pieces.foldl (fun s p => spWriteRange s ag p.1 (p.2.flatMap fun e => natBytes 4 e.bits.toNat) (p.2.any fun e => e.poison)) s,
   pieces.any fun p => p.2.any fun e => e.poison)
/-- MLDA's loads (R254). -/
def mldaRead (s : State) (core : Nat) (c : MCmd) : List (Nat × Elem) :=
  let ag := mAgent s core c
  accRegion ((s.mx core).acc.getD c.acc []) (mM c.wds) (mN c.wds) fun m n _ =>
    let r := spReadRange s ag (mWd c.wds 2 + m * mWd c.wds 7 + 4 * n) 4
    ⟨BitVec.ofNat 32 (bytesNat r.1), r.2⟩
/-- An MST that lost a bank poisons what it still reaches of its region (R226, R297). -/
def mstFail (s : State) (core : Nat) (c : MCmd) : State :=
  let ag := mAgent s core c
  ((List.range (mM c.wds)).flatMap fun m => (List.range ((mN c.wds + 3) / 4)).map fun k => mWd c.wds 2 + m * mWd c.wds 7 + 16 * k).foldl
    (fun s a => match spPlace s ag a with
      | .ok p => spMod s ag.cluster p fun x => { x with pois := setIns x.pois ((spMem s ag.cluster p).2 / 16) }
      | .error _ => s) s
/-- The head command completes: its entries are freed, it leaves the queue, and a released unit whose queue drains is free (R20, R238). -/
def mComplete (s : State) (core : Nat) (c : MCmd) (status : Nat) : State :=
  let s := s.modMxq core fun m => let m := { m with q := m.q.drop 1 }
                                  if m.releasing && m.q.isEmpty then mFree m else m
  let s := if c.kind = 0 then setMat s c.tid fun a => { last := status, kdone := if c.doomed && c.kdone = 0 then 0 else a.kdone } else s
  (sbFree s core c.op).opDone c.tid c.op
/-- MATRIX_COMMAND_COMPLETE (R248, R252, R254). -/
def execMatrixCommandComplete (x : CoreArg) (s : State) : Out :=
  let m := s.mx x.core
  match m.q with
  | c :: _ =>
    if !mRuns m || !c.started then .next s
    else match c.kind with
      | 0 =>
        if c.doomed then .next (mComplete (modAcc s x.core c.acc fun l => accPoison l c.wds) x.core c 1)
        else if c.finished || mKs c.wds ≤ c.kdone then .next (mComplete (mWork s x.core 8) x.core c c.status)
        else .next s
      | 1 => .next (mComplete (modAcc s x.core c.acc fun _ => []) x.core c 0)
      | 2 =>
        if mstHeld s x.core c then .next s
        else if c.doomed || cmdLost s x.core c then .next (mComplete (mstFail s x.core c) x.core c 2)
        else
          let r := mstWrite s x.core c
          let s := if r.2 then r.1.report c.tid 0x1B c.acc 0 0 else r.1
          .next (mComplete s x.core c 0)
      | _ =>
        if c.doomed then .next (mComplete s x.core c 2)
        else if (cRows c.wds).any (mReadHeld s x.core c) then .next s
        else if cmdLost s x.core c then .next (mComplete s x.core c 2)
        else .next (mComplete (modAcc s x.core c.acc fun _ => mldaRead s x.core c) x.core c 0)
  | [] => .next s

/-! ## Grants, lease, freezing and images -/

/-- The deficit rule of R81: every domain of a list adds its weight; the largest counter among those that may win wins, ties to the lower identifier; the winner pays the sum. -/
def deficitPick (credit : List (Nat × Int)) (doms may : List Nat) (weight : Nat → Nat) : Option Nat × List (Nat × Int) :=
  let credit := doms.foldl (fun c d => aput c d (agetD c d 0 + (weight d : Int))) credit
  let total : Int := ((doms.map weight).sum : Nat)
  match may with
  | [] => (none, credit)
  | d0 :: r =>
    let w := r.foldl (fun b d => if agetD credit b 0 < agetD credit d 0 || (agetD credit b 0 == agetD credit d 0 && d < b) then d else b) d0
    (some w, aput credit w (agetD credit w 0 - total))
/-- A team waits in MACQ: its request stands and it is held there, running (R237). -/
def reqWaits (s : State) (r : MReq) : Bool := match s.team? r.tid with
  | some t => t.sched.status == .running && t.sched.hold == some .macq
  | none => false
/-- An image waits: its team runs, or has ended with work left in it (R239, R256). -/
def imageWaits (s : State) (i : MImage) : Bool := match s.team? i.tid with
  | some t => t.sched.status == .running || t.sched.status == .exited
  | none => false
/-- A request of another domain than the holder's waits. -/
def otherWaits (s : State) (core : Nat) (dom : Nat) : Bool :=
  let m := s.mx core
  m.reqs.any (fun r => r.dom != dom && reqWaits s r) || m.images.any fun i => i.dom != dom && some i.tid != m.holder && imageWaits s i
/-- The cleared unit of a new domain (R238). -/
def mClear (m : Matrix) (dom : Nat) : Matrix := if m.qowner = dom then m else { m with acc := [[], []], mq := [[], [], [], []], qowner := dom }
/-- The lease of a domain in ac (R239). -/
def leaseOf (s : State) (core dom : Nat) : Nat := mShare s core dom * 8192
/-- The time counted against the lease (R239): how long the unit has held the domain's commands, or the work that R250 gives for them where that is more. -/
def leaseTime (s : State) (m : Matrix) : Nat := max m.leaseUsed (m.leaseHeld + if m.q.isEmpty then 0 else s.clock.ac - m.leaseAt)
/-- MATRIX_GRANT (R237, R239): the last domain's requests first while its lease lasts or none else waits, else by deficit among all that wait, of which another domain wins; within a domain its displaced holder first, then the oldest. -/
def execMatrixGrant (x : CoreArg) (s : State) : Out :=
  let m := s.mx x.core
  if m.holder.isSome then .next s
  else
    let cands : List (Nat × Nat × Bool) := (m.images.filter (imageWaits s)).map (fun i => (i.dom, i.tid, true))
      ++ (m.reqs.filter (reqWaits s)).map fun r => (r.dom, r.tid, false)
    let doms := (cands.map (·.1)).eraseDups
    let others := doms.filter fun d => d != m.lastDom
    let keeps := doms.contains m.lastDom && (others.isEmpty || decide (leaseTime s m < leaseOf s x.core m.lastDom))
    let pick := if keeps then (some m.lastDom, m.credit) else deficitPick m.credit doms others fun d => mShare s x.core d
    match pick.1 with
    | none => .next s
    | some d => match cands.find? fun c => c.1 == d with
      | none => .next s
      | some (_, tid, img) =>
        let left := if img then m.reqs else m.reqs.filter (fun r => r.tid != tid)
        let kept := d == m.lastDom
        .next (s.modMx x.core fun m => { mClear m d with holder := some tid, releasing := false, lastDom := d, credit := pick.2,
                                                         leaseUsed := if kept then m.leaseUsed else 0, leaseHeld := if kept then m.leaseHeld else 0,
                                                         frozen := false, reqs := left })
/-- The domain of the holder. -/
def holderDom (s : State) (core : Nat) : Nat := match (s.mx core).holder.bind s.team? with
  | some t => t.stamp.home
  | none => 0
/-- The holder's lease has run out while another domain waits (R239). -/
def leaseOut (s : State) (core : Nat) : Bool :=
  let m := s.mx core
  m.holder.isSome && otherWaits s core (holderDom s core) && decide (leaseOf s core (holderDom s core) ≤ leaseTime s m)
/-- MATRIX_LEASE_EXPIRY (R239): the unit freezes, to be scanned out. -/
def execMatrixLeaseExpiry (x : CoreArg) (s : State) : Out :=
  if leaseOut s x.core then .next (s.modMx x.core fun m => { m with frozen := true }) else .next s
/-- The holder's team is halted, or its plot is being saved. -/
def holderStopped (s : State) (core : Nat) : Bool × Bool := match (s.mx core).holder.bind s.team? with
  | some t => (t.sched.status != .running && t.sched.status != .exited, match s.plot? t.place.plot with
      | some p => p.st == .saving
      | none => false)
  | none => (false, false)
/-- MATRIX_FREEZE (R256): the holder is halted in place or its plot is being saved. -/
def execMatrixFreeze (x : CoreArg) (s : State) : Out :=
  let h := holderStopped s x.core
  if h.1 || h.2 then .next (s.modMx x.core fun m => { m with frozen := true }) else .next s
/-- Bytes of the save image and where it lies in the core save area (R256). -/
def mImageSize : Nat := 278528
/-- Offset of the save image in the core save area. -/
def mImageOff : Nat := 0x340000
/-- The frozen unit is to be scanned out: a save, a displacement (frozen though its holder runs), or a halted holder in the way of another domain (R256). -/
def scanOutDue (s : State) (core : Nat) : Bool :=
  let m := s.mx core
  let h := holderStopped s core
  m.frozen && m.holder.isSome && (h.2 || !h.1 || (h.1 && otherWaits s core (holderDom s core)))
/-- Scan the frozen holder out (R256): its image, and a cleared, free unit. -/
def scanOut (s : State) (core tid : Nat) : State :=
  let dom := holderDom s core
  let base := saveBaseOf s core dom + mImageOff
  let (seed, s) := s.fresh
  let (s, emerg) := savePart s dom (dieOf core) base mImageSize seed
  s.modMxq core fun m =>
    { mFree m with images := m.images ++ [⟨tid, dom, base, m.acc, m.mq, m.qowner, m.q, seed, emerg, m.releasing⟩], q := [], acc := [[], []], mq := [[], [], [], []], qowner := 0 }
/-- MATRIX_SCAN_OUT (R256). -/
def execMatrixScanOut (x : CoreArg) (s : State) : Out :=
  match (s.mx x.core).holder with
  | some tid => if scanOutDue s x.core && !mDisplaced (s.mx x.core) tid then .next (scanOut s x.core tid) else .next s
  | none => .next s
/-- An accumulator with every word poisoned (R257). -/
def accAllPois (l : List (Nat × Elem)) : List (Nat × Elem) := accRegion l 128 256 fun _ _ e => { e with poison := true }
/-- The image after its check word failed: accumulators poisoned, queues empty, a frozen MLOOP ends with poisoned input (R257). -/
def imageSpoilt (i : MImage) : MImage :=
  { i with acc := i.acc.map accAllPois, mq := [[], [], [], []],
           q := i.q.mapIdx fun k c => if k = 0 && c.started && c.kind == 0 then { c with finished := true, status := 1 } else c }
/-- MATRIX_SCAN_IN (R256, R257): the granted holder's image comes back, and a unit that it has given up is free then (R238); an image that went to the emergency slot reports 0x31 (R318). -/
def execMatrixScanIn (x : CoreArg) (s : State) : Out :=
  let m := s.mx x.core
  match m.holder.bind fun tid => m.images.find? fun i => i.tid == tid with
  | none => .next s
  | some i0 =>
    let i := if partIntact s i0.base mImageSize i0.seed i0.emerg then i0 else imageSpoilt i0
    let s := s.modMxq x.core fun m =>
      let m := { m with acc := i.acc, mq := i.mq, qowner := i.qowner, q := i.q, releasing := i.releasing, images := m.images.filter fun k => k.tid != i.tid }
      if m.releasing && m.q.isEmpty then mFree m else m
    .next (if i.emerg then s.report i.tid 0x31 0 0 2 else s)

end Sys2Proof.Machine
end

