-- ==== Sys2Proof/Machine/Evict.lean ====
section
/-! DEFINITION. Lazy eviction and restoring (R314, R317-R319): the parts of a halted team and of a bed, where they lie in the core save area, and the resuming of a slot's halted teams (R285, R312, R314). -/

namespace Sys2Proof.Machine

/-! ## Saving parts -/

/-- The first place of a size in a region of a save area that no saved part takes. -/
def areaGap (s : State) (base lo hi size : Nat) : Option Nat :=
  ((List.range ((hi - lo) / max 1 size)).map fun i => base + lo + i * size).find? fun a =>
    !s.gov.saved.any fun p => decide (p.base < a + size) && decide (a < p.base + p.size)
/-- The place of a part in a save area: its own place there when no saved part takes it, else the first that is free in its region (R317). -/
def areaPlace (s : State) (base own lo hi size : Nat) : Option Nat :=
  if decide (own + size ≤ hi) && !(s.gov.saved.any fun p => decide (p.base < base + own + size) && decide (base + own < p.base + p.size)) then some (base + own)
  else areaGap s base lo hi size
/-- Write one part of a context to the save area of a domain's slot; without a place left it goes to the emergency slot (R317, R318). -/
def putPart (s : State) (core dom plot : Nat) (tid : Option Nat) (kind bank own lo hi size : Nat) : State :=
  let (seed, s) := s.fresh
  let r := match areaPlace s (saveBaseOf s core dom) own lo hi size with
    | some a => let w := savePart s dom (dieOf core) a size seed
                (w.1, a, w.2)
    | none => (s, 0, true)
  r.1.modGov fun g => { g with saved := g.saved ++ [⟨plot, tid, kind, bank, r.2.1, size, seed, r.2.2⟩] }
/-- Where a granule of a quadrant's carve stands in the save area. DESIGN CHOICE, log 44: the carve takes the banks from the last one down, one for each quadrant in turn. -/
def granAt (quad g : Nat) : Nat := 0x8000 * (95 - 4 * (g / 32) - quad) + 0x400 * (g % 32)
/-- Save a 32-row group of a team's vector registers (R314). -/
def saveGroup (s : State) (t : Team) (g : Nat) : State :=
  putPart s t.place.core t.stamp.home t.place.plot (some t.tid) 0 g (granAt t.place.quad ((t.grans.getD g []).headD 0)) 0 0x300000 (128 * t.foot.vregs)
/-- Save the groups of a team's vector registers that stand in its core. -/
def saveRegs (s : State) (t : Team) : State := (s.groupsIn t).foldl (fun s g => saveGroup s t g) s
/-- Save the rest of a team: its scalars and its record. -/
def saveRest (s : State) (t : Team) : State :=
  let q := 0x300000 + 0x4000 * t.place.quad
  let s := putPart s t.place.core t.stamp.home t.place.plot (some t.tid) 1 0 q q (q + 0x4000) (4 * t.foot.sregs)
  putPart s t.place.core t.stamp.home t.place.plot (some t.tid) 1 1 0x310000 0x310000 0x340000 0xC00
/-- A channel as it is recorded (R228): the copy that it landed whole has completed before. -/
def parkedChan (s : State) (core ch : Nat) : Nat × Channel := (ch, { s.chan core ch with quiesced := false, q := (s.chan core ch).q.map fun c => { c with fresh := true } })
/-- Complete the copies of a bed that have reached their end (R228). -/
def finishCopies (s : State) (core : Nat) (chans : BitVec 16) : State :=
  (List.range 16).foldl (fun s ch => if !chans.getLsbD ch then s else match headCopy s core ch with
    | some c => if c.st == .running && decide (c.total ≤ c.next) then completeCopy s core ch { c with st := .landed, outcome := 0 } else s
    | none => s) s
/-- Record one channel of a bed, quiesced, and let it go: its copies leave the channel and the scoreboard (R228, R314). -/
def parkChan (s : State) (plot i c : Nat) : State :=
  let core := (s.bed plot i).core
  let s := finishCopies s core ((1#16) <<< c)
  let k := parkedChan s core c
  let s := k.2.q.foldl (fun s x => sbFree s core x.op) s
  (s.modChan core c fun _ => Channel.reset).modBed plot i fun b => { chanGone c b with parked := b.parked ++ [k] }
/-- The domain of a plot's bed. -/
def bedDom (s : State) (plot : Nat) : Nat := match s.plot? plot with
  | some p => plotDom s p
  | none => 0
/-- Save a channel of a bed: its copies are recorded (R314). -/
def saveChan (s : State) (plot i c : Nat) : State :=
  putPart (parkChan s plot i c) (s.bed plot i).core (bedDom s plot) plot none 3 (256 * i + c) 0x310000 0x310000 0x340000 0xC00
/-- Stop the channels of a bed (R228). -/
def stopChans (s : State) (plot i : Nat) : State :=
  let b := s.bed plot i
  (finishCopies s b.core b.chans).modCore b.core fun c => { c with chans := c.chans.mapIdx fun k x => if b.chans.getLsbD k then { x with quiesced := true } else x }
/-- The numbers by which saved parts name the 32 KiB of a bed that stand in a bank: 256 for each bed, the extension from 128 on. -/
def bankParts (i n : Nat) (b : Bed) : List Nat :=
  let at_ := fun (l : List Nat) (off : Nat) => (l.zipIdx.filter fun x => x.1 == n).map fun x => 256 * i + off + x.2
  at_ b.banks 0 ++ at_ b.ext 128
/-- Save one bank of a bed, once its channels are quiesced (R314, R317). -/
def saveBank (s : State) (plot i n : Nat) : State :=
  let s := stopChans s plot i
  let b := s.bed plot i
  ((bankParts i n b).foldl (fun s k => putPart s b.core (bedDom s plot) plot none 2 k (0x8000 * n) 0 0x300000 0x8000) s).modBed plot i (bankGone n)
/-- Save a bed: its channels, then its banks (R314). -/
def saveBed (s : State) (plot i : Nat) : State :=
  let b := s.bed plot i
  let s := ((List.range 16).filter fun c => b.chans.getLsbD c).foldl (fun s c => saveChan s plot i c) s
  b.held.foldl (fun s n => saveBank s plot i n) s
/-- A team stands in its quadrant: what is not its vector registers has not been saved. -/
def teamStands (s : State) (core dom : Nat) (t : Team) : Bool := t.place.core == core && t.stamp.home == dom && !s.partOut t.tid 1
/-- The counters C_d of a core are discarded for domains that have no team left in a quadrant, and those of its matrix unit for domains that have none on the core (R81, R237). -/
def dropCredit (s : State) (core : Nat) : State :=
  let stays := fun (q d : Nat) => s.teams.any fun t => teamStands s core d t && t.place.quad == q
  let here := fun (d : Nat) => s.teams.any (teamStands s core d)
  s.modCore core fun c => { c with credit := c.credit.mapIdx fun q l => l.filter fun e => stays q e.1, mx := { c.mx with credit := c.mx.credit.filter fun e => here e.1 } }
/-- A domain comes to a core where it had no team: its K-steps count from zero (R255). DESIGN CHOICE, log 121: a halted team whose record has been evicted counts as gone from the core. -/
def firstOnCore (s : State) (core dom : Nat) : State :=
  if s.teams.any (teamStands s core dom) then s else s.modMx core fun m => { m with ksteps := adel m.ksteps dom, credit := adel m.credit dom }
/-- Save what is claimed (R314). -/
def evict (s : State) (c : Claim) : State := match c with
  | .regs _ tid g => match s.team? tid with
    | some t => if (s.groupsIn t).contains g then saveGroup s t g else s
    | none => s
  | .rest _ tid => match s.team? tid with
    | some t => if s.partOut tid 1 then s else dropCredit (saveRest s t) t.place.core
    | none => s
  | .bank p i n => saveBank s p i n
  | .chan p i c => saveChan s p i c
/-- Make room on a core for something of a domain: what halted teams of other domains hold is saved as far as it is needed (R314); the L1 is written back where its banks change (R164). -/
def makeRoom (s : State) (core dom : Nat) (fits : State → Bool) : State :=
  match neededClaims s core dom fits with
  | [] => s
  | l => l.foldl evict (l1WriteBack s core)

/-! ## Restoring -/

/-- The saved parts of a bed. -/
def bedParts (s : State) (plot i : Nat) : List SavedPart :=
  s.gov.saved.filter fun x => x.plot == plot && x.tid.isNone && (x.kind == 2 || x.kind == 3) && x.bank / 256 == i
/-- A part passes its check (R319). -/
def partOk (s : State) (p : SavedPart) : Bool := partIntact s p.base p.size p.seed p.emerg
/-- Drop saved parts. -/
def dropParts (s : State) (l : List SavedPart) : State := s.modGov fun g => { g with saved := g.saved.filter fun x => !l.contains x }
/-- Whether some of the parts went to the emergency slot: each team concerned reports a domain fault with DCAUSE 2 (R318). -/
def reportEmerg (s : State) (l : List SavedPart) (tids : List Nat) : State :=
  if l.any (·.emerg) then tids.foldl (fun s t => s.report t 0x31 0 0 2) s else s
/-- The channels that a bed's record names. -/
def parkedMask (b : Bed) : BitVec 16 := b.parked.foldl (fun m k => m ||| ((1#16) <<< k.1)) 0
/-- A bed still stands in its core. -/
def bedStands (b : Bed) : Bool := !b.held.isEmpty || b.chans != 0
/-- Every team of a bed has been evicted. -/
def bedEmptied (s : State) (plot i : Nat) : Bool :=
  let l := s.teams.filter fun t => t.place.plot == plot && t.place.bed == i
  !l.isEmpty && l.all fun t => s.partOut t.tid 1
/-- A bed is not placed any more: nothing of it stands in its core, and what it had there is saved, its teams where it had neither banks nor channels (R203, R314; DEDUCED, log 125). -/
def bedEvicted (s : State) (plot i : Nat) : Bool :=
  !bedStands (s.bed plot i) && (!(s.bed plot i).parked.isEmpty || !(bedParts s plot i).isEmpty || bedEmptied s plot i)
/-- The channels that a bed holds once what is saved of it is back on a core: those it holds and those recorded; when it is placed again after nothing of it stood there, all that its plot's mask asks for and the slot grants (R203, R228, R314). -/
def backChans (s : State) (plot i core : Nat) (again : Bool) : BitVec 16 :=
  let b := s.bed plot i
  let asked := match (s.plot? plot).bind fun p => s.launch? p.launch with
    | some l => l.pkt.chan &&& slotChans ((coreSlot s core l.dom).getD [])
    | none => 0
  b.chans ||| parkedMask b ||| (if again then asked else 0)
/-- Banks that may still be given to beds of a core: the vector carve keeps its banks and the L1 two (R164). -/
def bankRoom (s : State) (core : Nat) : Nat := 94 - regBanks s core - bedBanks s core
/-- Whether a saved bed fits its core again. -/
def bedRoom (s : State) (plot i : Nat) : Bool :=
  let b := s.bed plot i
  let n := ((bedParts s plot i).filter fun x => x.kind == 2).length
  match coreSlot s b.core (bedDom s plot) with
  | none => false
  | some w => decide (n ≤ (freeBanks s b.core (bedDom s plot)).length) && decide (n ≤ bankRoom s b.core) && (backChans s plot i b.core (bedEvicted s plot i) &&& heldChans s b.core &&& ~~~b.chans) == 0
      && (parkedMask b &&& ~~~slotChans w) == 0
/-- Poison the granules of a bank of a bed whose part failed its check (R319). -/
def spoilBank (s : State) (plot i : Nat) (m : Scratch) (p : SavedPart) : Scratch :=
  let off := if p.bank % 256 < 128 then p.bank % 256 * 32768 else extBase s plot i + (p.bank % 256 - 128) * 32768
  { m with pois := (List.range 2048).foldl (fun l g => setIns l (off / 16 + g)) m.pois }
/-- The banks of a list with those that are saved replaced by free ones, and the free ones that remain. -/
def refill : List Nat → List Nat → List Nat × List Nat
  | [], free => ([], free)
  | n :: l, free => if n = bankSaved then let r := refill l (free.drop 1)
                                          (free.headD bankSaved :: r.1, r.2)
                    else let r := refill l free
                         (n :: r.1, r.2)
/-- A channel of a bed goes on after its copies were stopped: each resumes from its W and reads its sources afresh (R228). -/
def goOn (x : Channel) : Channel := if x.quiesced then { x with quiesced := false, q := x.q.map fun c => { c with fresh := true } } else x
/-- Bring what is saved of a bed back, placed again or not: banks, then its channels, whose copies resume in order from their W (R203, R228, R314). -/
def restoreBed (s : State) (plot i : Nat) (again : Bool) : State :=
  let b := s.bed plot i
  let chans := backChans s plot i b.core again
  let parts := bedParts s plot i
  let main := refill b.banks (freeBanks s b.core (bedDom s plot))
  let ext := refill b.ext main.2
  let mem := (parts.filter fun x => x.kind == 2 && !partOk s x).foldl (spoilBank s plot i) b.mem
  let tids := (s.teams.filter fun t => t.place.plot == plot && t.place.bed == i).map (·.tid)
  let s := if parts.any (fun x => x.kind == 2) then l1WriteBack s b.core else s
  let s := reportEmerg (dropParts s parts) parts tids
  let s := s.modBed plot i fun b => { b with mem := mem, banks := main.1, ext := ext.1, chans := chans, parked := [] }
  let s := s.modCore b.core fun c => { c with chans := c.chans.mapIdx fun k x => if (chans &&& ~~~b.chans).getLsbD k then Channel.reset else x }
  let s := b.parked.foldl (fun s k => sbTake (s.modChan b.core k.1 fun _ => k.2) b.core (k.2.q.flatMap fun c => copyEntries s (c.spAgent b.core) c)) s
  s.modCore b.core fun c => { c with chans := c.chans.mapIdx fun k x => if (s.bed plot i).chans.getLsbD k then goOn x else x }
/-- The 32-row groups of a team's vector registers that are saved. -/
def groupsOut (s : State) (t : Team) : List Nat := (List.range ((t.foot.alloc + 31) / 32)).filter fun g => !(s.groupsIn t).contains g
/-- Whether what is saved of a team fits a quadrant of its core (R70, R298). -/
def teamRoom (s : State) (t : Team) (quad : Nat) : Bool :=
  match coreSlot s t.place.core t.stamp.home with
  | none => false
  | some w =>
    let c := t.place.core
    let ts := quadTeams s c quad
    (!s.partOut t.tid 1 || (decide (ts.length < 16) && decide ((ts.map fun t => t.foot.alloc).sum + t.foot.alloc ≤ 2048) && decide (t.foot.sregs ≤ scalRoom s c quad)))
      && decide ((groupsOut s t).length * (t.foot.vregs / 8) ≤ granRoom s c quad w 0)
/-- Quadrants that a team may come back to: any when nothing of it is left in one (R314). -/
def teamQuads (s : State) (t : Team) : List Nat :=
  if (s.groupsIn t).isEmpty && s.partOut t.tid 1 then t.place.quad :: [0, 1, 2, 3].filter (· != t.place.quad) else [t.place.quad]
/-- The registers of a 32-row group poisoned (R319). -/
def spoilRegs (t : Team) (g : Nat) : Team :=
  { t with regs := { t.regs with v := t.regs.v.map fun c => c.mapIdx fun r e => if r / 32 = g then { e with poison := true } else e } }
/-- Every scalar poisoned (R319). -/
def spoilScalars (t : Team) : Team := { t with regs := { t.regs with s := t.regs.s.map fun e => { e with poison := true } } }
/-- A team with the parts of it that failed their check spoilt. -/
def teamChecked (s : State) (t : Team) (parts : List SavedPart) : Team :=
  let t := (parts.filter fun x => x.kind == 0 && !partOk s x).foldl (fun t x => spoilRegs t x.bank) t
  if parts.any (fun x => x.kind == 1 && !partOk s x) then spoilScalars t else t
/-- The granules of a team once its saved groups have been dealt new ones (R314). -/
def dealtGrans (s : State) (t : Team) (quad : Nat) : List (List Nat) :=
  let out := groupsOut s t
  let free := freeGrans s t.place.core quad ((coreSlot s t.place.core t.stamp.home).getD [])
  (out.zip (dealGrans out.length (t.foot.vregs / 8) free)).foldl (fun l x => l.set x.1 x.2) t.grans
/-- Bring a team's saved parts back into a quadrant; the quadrant that it leaves discards C_d with its domain's last team (R81, R314). -/
def restoreTeam (s : State) (t : Team) (quad : Nat) : State :=
  let parts := s.gov.saved.filter fun x => x.tid == some t.tid
  let s := firstOnCore s t.place.core t.stamp.home
  let t := { teamChecked s t parts with grans := dealtGrans s t quad }
  dropCredit (reportEmerg ((dropParts (l1WriteBack s t.place.core) parts).putTeam { t with place := { t.place with quad := quad } }) parts [t.tid]) t.place.core
/-- Something is fitting once other domains' claimed parts are saved: the room is made, or none. -/
def claimRoom (s : State) (core dom : Nat) (fits : State → Bool) : Option State :=
  if fits s then some s else if fits (claimView s core dom) then some (makeRoom s core dom fits) else none
/-- Bring everything of a team back, its bed first; none when it does not fit now. -/
def bringBack (s : State) (t : Team) : Option State :=
  let core := t.place.core
  let dom := t.stamp.home
  let bed := if (bedParts s t.place.plot t.place.bed).isEmpty && !bedEvicted s t.place.plot t.place.bed then some s
             else (claimRoom s core dom fun v => bedRoom v t.place.plot t.place.bed).map fun s => restoreBed s t.place.plot t.place.bed (bedEvicted s t.place.plot t.place.bed)
  match bed with
  | none => none
  | some s =>
    if !s.partOut t.tid 0 && !s.partOut t.tid 1 then some s
    else (teamQuads s t).findSome? fun q => (claimRoom s core dom fun v => teamRoom v t q).bind fun s =>
      (s.team? t.tid).map fun t => restoreTeam s t q
/-- Something of an ended team or of its bed is saved, so that its copies wait to come back (R22, R314). -/
def endedOut (s : State) (t : Team) : Bool :=
  t.sched.status == .exited && (s.partOut t.tid 0 || s.partOut t.tid 1 || !(bedParts s t.place.plot t.place.bed).isEmpty)
/-- A team of a slot that waits to go on: halted by a slice end or a recall, or ended with its bed saved, in a plot that is not being saved (R312, R314, R315). -/
def resumable (s : State) (core dom : Nat) (t : Team) : Bool :=
  t.place.core == core && t.stamp.home == dom && (t.sched.status == .haltSlice || t.sched.status == .haltRecall || endedOut s t)
    && (s.plot? t.place.plot).any fun p => match p.st with
      | .resident => true
      | .draining _ => true
      | _ => false
/-- The teams of a plot. -/
def plotMembers (s : State) (plot : Nat) : List Team := s.teams.filter fun t => t.place.plot == plot
/-- Banks that bed i of a saved plot needs. -/
def savedBanks (s : State) (plot i : Nat) : Nat := ((bedParts s plot i).filter fun x => x.kind == 2).length
/-- A saved bed with so many teams in each quadrant fits a core (R11, R284). -/
def savedBedFits (s : State) (p : Plot) (l : Launch) (core i : Nat) (cap : List Word → Nat → Bool) : Bool :=
  match coreSlot s core l.dom with
  | none => false
  | some w =>
    let n := savedBanks s p.uid i
    slotOpen s core l.dom w && (backChans s p.uid i core true &&& heldChans s core) == 0 && (parkedMask (s.bed p.uid i) &&& ~~~slotChans w) == 0 && decide (n ≤ (freeBanks s core l.dom).length)
      && carveKept s core n && cap w n
/-- Beds find distinct cores. -/
def matchBeds (fits : Nat → Nat → Bool) : List Nat → List Nat → Bool
  | [], _ => true
  | b :: bs, cores => cores.any fun c => fits b c && matchBeds fits bs (cores.filter (· != c))
/-- Teams of bed i, in order. -/
def bedMembers (s : State) (plot i : Nat) : List Team := (plotMembers s plot).filter fun t => t.place.bed == i
/-- Whether a saved plot fits its cluster now: a started plot stays there until it exits (R11, R284). -/
def savedFits (s : State) (p : Plot) (l : Launch) : Bool :=
  decide ((residentPlots s p.cluster).length < 32) &&
    matchBeds (fun i c => let v := claimView s c l.dom
      savedBedFits v p l c i fun w n => decide ((bedMembers s p.uid i).length ≤ ((List.range 4).map fun q => quadCap v c q w l.pkt n).sum))
      (List.range p.beds.length) (coresOf p.cluster)
/-- A team of the plot is awaited (R285). -/
def plotAwaited (s : State) (p : Plot) : Bool := (plotMembers s p.uid).any (awaited s)
/-- When the team of a saved plot was halted by which the plot takes its turn: the oldest halt of those awaited, or of all when none is (R285). -/
def plotHalt (s : State) (p : Plot) : Nat :=
  let ts := (plotMembers s p.uid).filter fun t => t.sched.status == .haltSave
  match (if ts.any (awaited s) then ts.filter (awaited s) else ts).map (·.sched.haltAt) with
  | [] => p.haltAt
  | a :: l => l.foldl min a
/-- Of two that wait to go on, each with whether it is awaited and when it was halted, the first goes before (R285). -/
def goesBefore (a : Bool) (at_ : Nat) (b : Bool) (bt : Nat) : Bool := (a && !b) || (a == b && decide (at_ < bt))
/-- A saved plot of a domain that fits goes before one awaited or not and halted then (R285). -/
def savedBefore (s : State) (dom : Nat) (b : Bool) (bt : Nat) : Bool :=
  s.gov.plots.any fun q => q.st == .saved && plotDom s q == dom && goesBefore (plotAwaited s q) (plotHalt s q) b bt
    && (s.launch? q.launch).any fun l => savedFits s q l
/-- Teams of a domain may go on through its slot of a core (R312, R315). -/
def slotGoes (s : State) (core dom : Nat) : Bool := match coreSlot s core dom with
  | some w => slotOpen s core dom w
  | none => false
/-- The order in which halted teams go on: resume priority first, then the oldest halt (R285). -/
def resumeOrder (s : State) (l : List Team) : List Nat :=
  let before := fun (a b : Team) => !goesBefore (awaited s b) b.sched.haltAt (awaited s a) a.sched.haltAt
  (l.foldr (fun t r => (r.takeWhile fun u => !before t u) ++ t :: r.dropWhile fun u => !before t u) []).map (·.tid)
/-- Resume the halted teams of a slot as far as what they hold can be restored, none before a saved plot of the domain that goes before it (R285, R312, R314). -/
def resumeSlot (s : State) (core slot : Nat) : State :=
  let w := (s.core core).slots.getD slot []
  if !slotOpen s core (slotDomain w) w then s
  else (resumeOrder s (s.teams.filter (resumable s core (slotDomain w)))).foldl (fun s tid => match s.team? tid with
    | none => s
    | some t => if savedBefore s t.stamp.home (awaited s t) t.sched.haltAt then s else match bringBack s t with
      | none => s
      | some s => match s.team? tid with
        | some t => if t.sched.status == .exited then s else resumeTeam s t
        | none => s) s
/-- Resume on every slot of a core. -/
def resumeCore (s : State) (core : Nat) : State :=
  if s.teams.any (fun t => t.place.core == core && (t.sched.status == .haltSlice || t.sched.status == .haltRecall || endedOut s t))
  then (List.range 8).foldl (fun s i => resumeSlot s core i) s else s
/-- The halted teams of a domain that waited for one of its saved plots go on where they need not wait any more (R285). -/
def resumeDomain (s : State) (dom : Nat) : State :=
  (((s.teams.filter fun t => t.stamp.home == dom && teamHalted t).map fun t => t.place.core).eraseDups).foldl resumeCore s
/-- Halted teams that waited for a saved plot are judged again, when room has been taken or given (R285). -/
def resumeBehind (s : State) : State := (((s.gov.plots.filter fun p => p.st == .saved).map (plotDom s)).eraseDups).foldl resumeDomain s

end Sys2Proof.Machine
end

