-- ==== Sys2Proof/Machine/Queue.lean ====
section
/-! DEFINITION. Hardware queues, capabilities and the queue controller (R277-R280, R288-R292, R295), dependence counters (R276, R293) and the queue instructions. -/

namespace Sys2Proof.Machine

/-! ## Capabilities -/

/-- Index of a capability (R278). -/
def capIndex (c : DWord) : Nat := (c.extractLsb' 0 12).toNat
/-- Domain of a capability. -/
def capDomain (c : DWord) : Nat := (c.extractLsb' 12 6).toNat
/-- Generation of a capability. -/
def capGen (c : DWord) : BitVec 27 := c.extractLsb' 21 27
/-- The check code of a capability matches its other bits. -/
def capGenuine (c : DWord) : Bool := Config.capCheck (c.extractLsb' 0 48) == c.extractLsb' 48 16
/-- A hardware queue by number. -/
def State.queue? (s : State) (q : Nat) : Option Queue := s.gov.queues.find? fun x => x.id == q
/-- A valid capability for an operation on a queue: the right is bit 18 enqueue, 19 dequeue, 20 steal (R278). -/
def capFor (q : Queue) (c : DWord) (right : Nat) : Bool :=
  capGenuine c && capIndex c == q.id && capDomain c == q.owner && q.owner != 0 && capGen c == q.gen && c.getLsbD right
/-- The queue that a capability opens for an operation. -/
def capQueue (s : State) (c : DWord) (right : Nat) : Option Queue := (s.queue? (capIndex c)).filter fun q => capFor q c right

/-! ## The store and the ring -/

/-- Put a queue back. -/
def State.putQueue (s : State) (q : Queue) : State := s.modGov fun g => { g with queues := g.queues.map fun x => if x.id == q.id then q else x }
/-- A host launch queue: its ring is filled by the host and it is bound to a QDB slot (R277, R356). -/
def hostFilled (q : Queue) : Bool := decide (q.qdb < 64)
/-- Entries in the ring (R277); the indices of a host ring run modulo its capacity (R356). -/
def ringCount (q : Queue) : Nat :=
  if hostFilled q then (q.hostTail + (q.cap - q.hostHead % max 1 q.cap)) % max 1 q.cap else q.tail - q.head
/-- Entries of a queue, ring included. -/
def queueCount (q : Queue) : Nat := q.store.length + ringCount q
/-- Place of the oldest entry of the ring. -/
def ringFirst (q : Queue) : Nat := if hostFilled q then q.hostHead else q.head
/-- Place of the next entry of the ring: the tail that the host wrote, for a ring that the host fills (R280, R356). -/
def ringNext (q : Queue) : Nat := if hostFilled q then q.hostTail else q.tail
/-- Entries that the ring may hold: its capacity, less one for a host ring, whose indices are equal when it is empty (R277, R356). -/
def ringQuota (q : Queue) : Nat := if hostFilled q then q.cap - 1 else q.cap
/-- A queue whose ring has one more entry at its tail. -/
def ringPushed (q : Queue) : Queue := if hostFilled q then { q with hostTail := (q.hostTail + 1) % max 1 q.cap } else { q with tail := q.tail + 1 }
/-- The virtual address of a ring place, in the owner's domain (R277, R280). -/
def ringPlace (q : Queue) (i : Nat) : Nat := (q.base.toNat + i % max 1 q.cap * q.esize) % 2 ^ 64
/-- Read a ring entry under OWNER; one that cannot be read reads as free values. -/
def ringRead (s : State) (q : Queue) (i : Nat) : QEntry :=
  match readVa s (domTranslate s q.owner true .read) (ringPlace q i) q.esize with
  | .ok e => e
  | .error _ => (natBytes q.esize ((List.range 16).map fun k => (s.draw k).toNat * 2 ^ (64 * k)).sum, false)
/-- The controller reads a ring entry: its walk and its reads (R320, R355). -/
def ringReads (s : State) (q : Queue) (i : Nat) : State := devReads s q.owner (domTranslate s q.owner true .read) (ringPlace q i) q.esize
/-- Enqueue an entry behind all others (R280), in the store or at the tail of the ring: the status, 0 done, 2 quota, 6 when the ring cannot be written. -/
def enqueue (s : State) (q : Queue) (priv : Bool) (e : QEntry) : State × Nat :=
  if q.store.length < 8 && ringCount q == 0 then (s.putQueue { q with store := q.store ++ [e] }, 0)
  else if ringQuota q ≤ ringCount q then (s, 2)
  else
    let w := devWrite s q.owner (domTranslate s q.owner priv .write) (ringPlace q (ringNext q)) e.1 fun _ _ => e.2
    match w.2 with
    | some _ => (devWalks s q.owner (ringPlace q (ringNext q)) e.1.length, 6)
    | none => (w.1.putQueue (ringPushed q), 0)
/-- The oldest entry of a queue (R280). -/
def oldestEntry (s : State) (q : Queue) : Option QEntry := match q.store with
  | e :: _ => some e
  | [] => if ringCount q = 0 then none else some (ringRead s q (ringFirst q))
/-- The reads that taking the oldest entry makes: none when it lies on the die (R280, R320). -/
def oldestReads (s : State) (q : Queue) : State := if q.store.isEmpty && ringCount q != 0 then ringReads s q (ringFirst q) else s
/-- A queue without its oldest entry. -/
def dropOldest (q : Queue) : Queue := match q.store with
  | _ :: r => { q with store := r }
  | [] => if hostFilled q then { q with hostHead := (q.hostHead + 1) % max 1 q.cap } else { q with head := q.head + 1 }
/-- The newest entry of a work queue. -/
def newestEntry (s : State) (q : Queue) : Option QEntry := if ringCount q = 0 then q.store.getLast? else some (ringRead s q (q.tail - 1))
/-- The reads that taking the newest entry makes. -/
def newestReads (s : State) (q : Queue) : State := if ringCount q = 0 then s else ringReads s q (q.tail - 1)
/-- A work queue without its newest entry. -/
def dropNewest (q : Queue) : Queue := if ringCount q = 0 then { q with store := q.store.dropLast } else { q with tail := q.tail - 1 }
/-- STORE_REFILL: the overflow engine moves the oldest ring entry into the store (R280). -/
def execStoreRefill (x : QueueArg) (s : State) : Out :=
  match s.queue? x.queue with
  | none => .next s
  | some q =>
    if hostFilled q || ringCount q == 0 || decide (8 ≤ q.store.length) then .next s
    else .next (((ringReads s q q.head).putQueue { q with store := q.store ++ [ringRead s q q.head], head := q.head + 1 }).drawn 128)

/-! ## Weighted service -/

/-- The next owner after one, in ascending turn. -/
def nextOwner (owners : List Nat) (cur : Nat) : Option Nat :=
  let least := fun (l : List Nat) => l.foldl (fun (b : Option Nat) x => match b with
    | none => some x
    | some y => some (min x y)) none
  match least (owners.filter fun o => cur < o) with
  | some o => some o
  | none => least owners
/-- Deficit round robin over owners (R279): the current owner while it has credit, else the next with its weight as credit; weight 0 only when no other waits. -/
def roundRobin (d : List (Nat × Int)) (owners : List Nat) (weight : Nat → Nat) : Option (Nat × List (Nat × Int)) :=
  let heavy := owners.filter fun o => decide (0 < weight o)
  let pool := if heavy.isEmpty then owners else heavy
  let fresh := fun cur => (nextOwner pool cur).map fun o => (o, [(o, (weight o : Int) - 1)])
  match d with
  | (o, c) :: _ => if pool.contains o && decide (0 < c) then some (o, [(o, c - 1)]) else fresh o
  | [] => fresh 0
/-- The weight of an owner (R279). -/
def ownerWeight (s : State) (o : Nat) : Nat := agetD s.gov.weights o 0
/-- The waiting operations that may be served: the oldest of each team, when none of its earlier ones is on its way to a peer (R279). -/
def servable (s : State) : List QOp :=
  s.gov.waiting.filter fun o => !(s.gov.sent.any fun p => p.tid == o.tid) && !(s.gov.waiting.any fun p => p.tid == o.tid && decide (p.op < o.op))
/-- The operation that the controller serves next (R279): the first that reached it of the owner whose turn it is. -/
def nextQop (s : State) : Option (QOp × List (Nat × Int)) :=
  let l := servable s
  (roundRobin s.gov.deficit ((l.map (·.owner)).eraseDups) (ownerWeight s)).bind fun r => (l.find? fun o => o.owner == r.1).map fun o => (o, r.2)

/-! ## Operations -/

/-- Write the status word of an operation and complete it (R288, R295); inside a gate a sealed register is written where it is kept (R307). -/
def qopDone (s : State) (o : QOp) (status : Nat) : State :=
  let r := o.rbase + 7
  let e := Elem.clean (BitVec.ofNat 32 status)
  let s := match s.team? o.tid with
    | none => s
    | some t => s.putTeam (match t.gate with
      | some g => if 16 ≤ r then { t with gate := some { g with regs := { g.regs with s := g.regs.s.set r e } } } else t.sset r e
      | none => t.sset r e)
  s.opDone o.tid o.op
/-- The translation of an operation's accesses under its issuer (R15, R290, R291). -/
def qopTrans (s : State) (o : QOp) (acc : Acc) : Trans := domTranslate s o.dom o.priv acc
/-- QENQ at the controller (R280, R290). -/
def serveEnq (s : State) (o : QOp) (q : Queue) : State :=
  match readVa s (qopTrans s o .read) o.addr.toNat q.esize with
  | .error _ => qopDone (devWalks s o.dom o.addr.toNat q.esize) o 6
  | .ok e =>
    let r := enqueue (devReads s o.dom (qopTrans s o .read) o.addr.toNat q.esize) q o.priv e
    qopDone (if r.2 = 2 then r.1.report o.tid 0x29 0 0 0 else r.1) o r.2
/-- QDEQ and QSTL at the controller (R291): an entry whose destination cannot be written stays; the taker's later accesses observe what the enqueuer released. -/
def serveDeq (s : State) (o : QOp) (q : Queue) (newest : Bool) : State :=
  match if newest then newestEntry s q else oldestEntry s q with
  | none => qopDone s o 1
  | some e =>
    let tr := qopTrans s o .write
    match firstFail tr o.dest.toNat q.esize with
    | some _ => qopDone (devWalks s o.dom o.dest.toNat q.esize) o 6
    | none =>
      let s := if newest then newestReads s q else oldestReads s q
      let s := (devWrite s o.dom tr o.dest.toNat e.1 fun _ _ => e.2).1.putQueue (if newest then dropNewest q else dropOldest q)
      let s := match s.team? o.tid with
        | some t => acquireAt s t.place.core o.dom 4
        | none => s
      qopDone s o 0
/-- A port of a die's estate delivers: its firewall bit is set and the link is up (R363, R364). -/
def linkUp (s : State) (die : Nat) : Bool := (estatePorts s die).any id
/-- QPUT at the controller (R292): the message goes out, with the device on which the queue lies and the capability before the bytes, and the operation waits for the peer. -/
def serveQput (s : State) (o : QOp) : State :=
  let die := match s.team? o.tid with
    | some t => dieOf t.place.core
    | none => 0
  match readVa s (qopTrans s o .read) o.addr.toNat (16 * o.len) with
  | .error _ => qopDone (devWalks s o.dom o.addr.toNat (16 * o.len)) o 6
  | .ok bs =>
    if !linkUp s die then qopDone s o 5
    else
      let s := (devReads s o.dom (qopTrans s o .read) o.addr.toNat (16 * o.len)).meter o.dom 4 (16 * o.len)
      let s := s.send ⟨o.dom, 3, o.dest.toNat, natBytes 1 o.dev ++ natBytes 8 o.queue ++ bs.1⟩
      s.modGov fun g => { g with sent := g.sent ++ [o] }
/-- QUEUE_OPERATION (R279): the controller serves one waiting operation. -/
def execQueueOperation (_x : NoArg) (s : State) : Out :=
  match nextQop s with
  | none => .next s
  | some (o, d) =>
    let s := s.modGov fun g => { g with waiting := g.waiting.filter (fun p => p.op != o.op), deficit := d }
    .next ((match o.kind with
      | 4 => serveQput s o
      | k => match s.queue? o.queue with
        | none => qopDone s o 4
        | some q => if k = 1 then serveEnq s o q else serveDeq s o q (k == 3)).drawn (2 ^ 17))

/-- The pages of a put whose bytes do not exceed 64 KiB: the bytes in the first. -/
def firstPart (dest n : Nat) : Nat := min n (65536 - dest % 65536)
/-- A QPUT of a peer arrives (R292): the status with its offset. DEDUCED, log 110: over a port of another estate than the owner's its first page takes the ownership fault (R364). -/
def qputHere (s : State) (x : QputArg) : State × Nat :=
  let dest := x.dest.toNat
  match capQueue s x.cap 18 with
  | none => (s, 4)
  | some q =>
    let tr := domTranslate s q.owner true .write
    let n := firstPart dest x.data.length
    let part := fun (s : State) (a : Nat) (bs : List Byte) => (devWrite s q.owner tr a bs fun _ _ => false).1
    if q.esize != 16 || q.kind != 1 then (s, 4)
    else if !sameEstate s x.die (domainDie s q.owner) then (s, 3)
    else if (firstFail tr dest n).isSome then (devWalks s q.owner dest n, 3)
    else if (firstFail tr (dest + n) (x.data.length - n)).isSome then
      ((if (s.draw 0).getLsbD 0 then part s dest (x.data.take n) else s).drawn 1, 65536 * n + 3)
    else
      let s := part (part s dest (x.data.take n)) (dest + n) (x.data.drop n)
      let e := natBytes 8 dest ++ natBytes 4 (x.data.length / 16) ++ natBytes 4 x.sender.toNat
      let r := enqueue s q true (e, false)
      (r.1, if r.2 = 6 then 3 else r.2)
/-- QPUT_TARGET (R292): a peer answers the oldest put of this device, or a put of a peer arrives and is answered; nothing comes in over a port that is not open (R363, R364). -/
def execQputTarget (x : QputArg) (s : State) : Out :=
  if Config.dies ≤ x.die || 3 ≤ x.port then .fault .noSuchUnit
  else if !portOpen s x.die x.port then .next s
  else if x.remote then
    match s.gov.sent with
    | [] => .next s
    | o :: rest =>
      if !([0, 2, 3, 4] : List Nat).contains x.code.toNat then .next s
      else .next (qopDone (s.modGov fun g => { g with sent := rest }) o ((if x.code == 3 then 65536 * x.offset.toNat else 0) + x.code.toNat))
  else if x.data.length % 16 != 0 || x.data.isEmpty || decide (65536 < x.data.length) || x.dest.toNat % 16 != 0 then .next s
  else
    let r := qputHere s x
    .next (r.1.send ⟨0, 4, x.sender.toNat, natBytes 4 r.2⟩)

/-! ## The instructions -/

/-- The scope at which a queue operation is a release: QENQ at .estate, QPUT at .sys; 0 for one that is none (R290, R292). -/
def qopScope (kind : Nat) : Nat := if kind = 1 then 4 else if kind = 4 then 5 else 0
/-- The queue operation is accepted: it counts and waits for the controller (R18, R279). -/
def putQop (stl : BitVec 4) (o : QOp) (s : State) (t : Team) : Out :=
  if 255 ≤ t.count 3 then holdTeam s t .engineQueue
  else if releaseStalls s t.place.core t.flow.did (qopScope o.kind) then holdTeam s t .quiesce
  else
    let s := releaseAt s t.place.core t.flow.did (qopScope o.kind)
    finish ({ s with uid := o.op + 1 }.modGov fun g => { g with waiting := g.waiting ++ [o] }) { t with ops := t.ops ++ [⟨o.op, 3, false⟩] } stl 1
/-- A queue operation about to be issued; only a QPUT names a device (R292). -/
def newQop (s : State) (t : Team) (kind queue owner rbase len : Nat) (addr dest : DWord) (dev : Nat := 0) : QOp :=
  { kind := kind, tid := t.tid, op := s.uid, queue := queue, owner := owner, rbase := rbase, addr := addr, dest := dest, len := len, dom := t.flow.did,
    priv := t.stamp.priv, dev := dev }
/-- QENQ, QDEQ and QSTL: the checks of R288 in order (R290, R291). -/
def queueBody (kind right : Nat) (f : EForm) (s : State) (t : Team) : Out :=
  let r := f.rbase.toNat
  let cap := t.xget r
  let addr := t.xget (r + 2)
  if t.recordPois r 8 then raise s t 0x38
  else if (t.record (r + 4) 3).any (fun w => w != 0) then raise s t 0x02
  else match capQueue s cap right with
    | none => raise s t 0x28
    | some q =>
      if kind != 1 && q.kind != 1 then raise s t 0x28
      else if addr.toNat % q.esize != 0 then raise s t 0x0B
      else putQop f.stl (newQop s t kind q.id q.owner r q.esize addr addr) s t
/-- QENQ (R290). -/
def execQenq (f : EForm) (s : State) : Out := issue (.qenq f) s f.stl (eOk 8 f) (eSuppressed f) (queueBody 1 18 f)
/-- QDEQ (R291). -/
def execQdeq (f : EForm) (s : State) : Out := issue (.qdeq f) s f.stl (eOk 8 f) (eSuppressed f) (queueBody 2 19 f)
/-- QSTL (R291). -/
def execQstl (f : EForm) (s : State) : Out := issue (.qstl f) s f.stl (eOk 8 f) (eSuppressed f) (queueBody 3 20 f)
/-- QPUT (R292): the capability is checked by the target. -/
def execQput (f : EForm) (s : State) : Out :=
  issue (.qput f) s f.stl (eOk 8 f) (eSuppressed f) fun s t =>
    let r := f.rbase.toNat
    let x := (t.sget (r + 6)).bits.toNat
    let cap := t.xget r
    let src := t.xget (r + 2)
    let dest := t.xget (r + 4)
    let len := x % 8192
    if t.recordPois r 8 then raise s t 0x38
    else if x / 2 ^ 24 != 0 || x / 8192 % 8 != 0 || len == 0 || decide (4096 < len) then raise s t 0x02
    else if src.toNat % 16 != 0 || dest.toNat % 16 != 0 then raise s t 0x0B
    else putQop f.stl (newQop s t 4 cap.toNat (capDomain cap) r len src dest (x / 65536 % 256)) s t

/-! ## Dependence counters -/

/-- A dependence counter of a domain (R276). -/
def depCounter (s : State) (dom i : Nat) : Word := match s.gov.counters.find? fun c => c.1 == dom && c.2.1 == i with
  | some c => c.2.2
  | none => 0
/-- Set a dependence counter. -/
def setCounter (s : State) (dom i : Nat) (v : Word) : State :=
  s.modGov fun g => { g with counters := (g.counters.filter fun c => !(c.1 == dom && c.2.1 == i)) ++ if v = 0 then [] else [(dom, i, v)] }
/-- DCNT (R293). -/
def execDcnt (f : EForm) (s : State) : Out :=
  issue (.dcnt f) s f.stl (eOk 8 f) (eSuppressed f) fun s t =>
    let r := f.rbase.toNat
    let op := (t.sget r).bits.toNat
    let i := (t.sget (r + 1)).bits.toNat
    let v := (t.sget (r + 2)).bits
    if t.recordPois r 8 then raise s t 0x38
    else if (t.record (r + 4) 4).any (fun w => w != 0) || decide (2 < op) || decide (63 < i) then raise s t 0x02
    else if op != 0 && releaseStalls s t.place.core t.flow.did 5 then holdTeam s t .quiesce
    else
      let old := depCounter s t.flow.did i
      let s := if op = 0 then s else releaseAt s t.place.core t.flow.did 5
      let s := if op = 1 then setCounter s t.flow.did i (old + v) else if op = 2 then setCounter s t.flow.did i v else s
      finish s (t.sset (r + 3) (Elem.clean old)) f.stl 1
/-- The record of GOVST (R294). -/
def govstRecord (s : State) (t : Team) : List Word :=
  let l := s.launch? t.place.launch
  let n := match l with
    | some l => l.pkt.nstage
    | none => 0
  let ring : DWord := if n = 0 then 0 else match (s.plot? t.place.plot).bind fun p => p.stages[t.stamp.role]? with
    | some x => x.1
    | none => 0
  let moves := match s.plot? t.place.plot with
    | some p => p.moves
    | none => 0
  [BitVec.ofNat 32 (256 * n + if n = 0 then 0 else t.stamp.role), ring.extractLsb' 0 32, ring.extractLsb' 32 32, BitVec.ofNat 32 moves, 0, 0, 0, 0]
/-- GOVST (R288, R294): a poisoned scalar of its record is consumed, then the record is written clean. -/
def execGovst (f : EForm) (s : State) : Out :=
  issue (.govst f) s f.stl (eOk 8 f) (eSuppressed f) fun s t =>
    if t.recordPois f.rbase.toNat 8 then raise s t 0x38 else finish s (t.putRecord f.rbase.toNat (govstRecord s t)) f.stl 1

end Sys2Proof.Machine
end

