-- ==== Sys2Proof/Machine/Governor.lean ====
section
/-! DEFINITION. The task governor (R270-R287, R340, R346): taking launches, placing plots and teams, freeing teams, completion records, stage roles and the time-triggered table. -/

namespace Sys2Proof.Machine

/-! ## Taking launches -/

/-- SPAWN (R271, R274, R276, R289): the packet reaches the cluster intake. -/
def execSpawn (f : EForm) (s : State) : Out :=
  issue (.spawn f) s f.stl (eOk 32 f) (eSuppressed f) fun s t =>
    let r := f.rbase.toNat
    let w := t.record r 32
    let cl := clusterOf t.place.core
    if t.recordPois r 32 then raise s t 0x38
    else if packetBad w true then raise s t 0x02
    else if 8 ≤ t.stamp.nest then raise s t 0x2A
    else if 255 ≤ t.count 3 then holdTeam s t .engineQueue
    else if releaseStalls s t.place.core t.flow.did 4 then holdTeam s t .quiesce
    else if 16 ≤ (s.cluster cl).intake.length || 1024 ≤ s.gov.launches.length then holdTeam s t .intake
    else
      let l := newLaunch s.uid (.spawn cl) t.flow.did (t.stamp.nest + 1) t.stamp.priv w
      let s := releaseAt { s with uid := s.uid + 2 } t.place.core t.flow.did 4
      let s := if everFits s l then (s.addLaunch l).modCluster cl fun c => { c with intake := c.intake ++ [l.uid] }
               else s.addLaunch (l.failed 3)
      finish s { t with ops := t.ops ++ [⟨l.uid + 1, 3, true⟩] } f.stl 1
/-- The counter of a launch whose WAITV is set is above zero (R276). -/
def depBlocks (s : State) (l : Launch) : Bool := l.pkt.dep.getLsbD 7 && !(depCounter s l.dom (l.pkt.dep.toNat % 64)).sle 0
/-- A launch with plots to place waits on its counter: it has waited since it was taken, or the counter has risen again (R276). -/
def depWaits (s : State) (l : Launch) : Bool := l.wait || (l.code == 0 && (decide (l.next < l.pkt.plots) || !l.again.isEmpty) && depBlocks s l)
/-- A launch of the queue that waits on its counter blocks the later packets (R276). -/
def queueBlocked (s : State) (q : Nat) : Bool := s.gov.launches.any fun l => depWaits s l && match l.origin with
  | .queue k => k == q
  | _ => false
/-- A launch queue with a packet that may be drawn. -/
def drawable (s : State) (q : Queue) : Bool := q.kind == 0 && q.owner != 0 && decide (0 < queueCount q) && !queueBlocked s q.id
/-- The owner whose packet is drawn next (R273, R279). -/
def nextDraw (s : State) : Option (Nat × List (Nat × Int)) :=
  roundRobin s.gov.drawDeficit (((s.gov.queues.filter (drawable s)).map (·.owner)).eraseDups) (ownerWeight s)
/-- What becomes of a packet that a launch queue delivers (R271). -/
def drawnLaunch (s : State) (q : Queue) (e : QEntry) : Launch :=
  let w := bytesWords 32 e.1
  let l := newLaunch s.uid (.queue q.id) q.owner 0 q.privileged w
  if packetBad w false then l.failed 1
  else if !capFor q (packetAddrOf w).cap 18 then l.failed 2
  else if !everFits s l then l.failed 3 else l
/-- LAUNCH_DRAW (R271, R273, R279): the governor takes the next packet of a launch queue. -/
def execLaunchDraw (x : QueueArg) (s : State) : Out :=
  match s.queue? x.queue, nextDraw s with
  | some q, some (o, d) =>
    if !drawable s q || q.owner != o || decide (1024 ≤ s.gov.launches.length) then .next s
    else match oldestEntry s q with
      | none => .next s
      | some e =>
        let s := (oldestReads s q).addLaunch (drawnLaunch s q e)
        .next ((({ s with uid := s.uid + 1 }.putQueue (dropOldest q)).modGov fun g => { g with drawDeficit := d }).drawn 128)
  | _, _ => .next s
/-- DEP_WAIT_RELEASE (R276): a launch whose counter has fallen to zero or below waits no more. -/
def execDepWaitRelease (x : LaunchArg) (s : State) : Out :=
  match s.launch? x.launch with
  | none => .next s
  | some l =>
    if l.wait && !depBlocks s l then .next (s.putLaunch { l with wait := false }) else .next s

/-! ## Stage roles -/

/-- Occupancy of a stage's queue (R282): ring included. -/
def stageOcc (s : State) (x : DWord × Nat × Nat × Nat) : Nat := match s.queue? (capIndex x.1) with
  | some q => queueCount q
  | none => 0
/-- Entries of a stage table (R281). -/
def stageTable : Nat → List Byte → List (DWord × Nat × Nat × Nat)
  | 0, _ => []
  | n + 1, bs =>
    let v := fun o k => bytesNat ((bs.drop o).take k)
    (BitVec.ofNat 64 (v 0 8), v 8 2, v 10 2, v 12 1) :: stageTable n (bs.drop 16)
/-- Bytes that must be zero in a stage table. -/
def stageZero : Nat → List Byte → Bool
  | 0, _ => true
  | n + 1, bs => ((bs.drop 13).take 3).all (· == 0) && stageZero n (bs.drop 16)
/-- The stage table of a launch as its argument buffer holds it now; zeros when there is none. -/
def readStages (s : State) (l : Launch) : Option (List Byte) :=
  let n := 16 * l.pkt.nstage
  if l.addr.arg = 0 then some (List.replicate n 0)
  else match readVa s (domTranslate s l.dom l.priv .read) (l.addr.arg.toNat + 64) n with
    | .ok b => some b.1
    | .error _ => none
/-- The reads that a placement makes of the stage table (R281, R320). -/
def stageReads (s : State) (l : Launch) : State :=
  if l.pkt.nstage = 0 || l.addr.arg = 0 then s else devReads s l.dom (domTranslate s l.dom l.priv .read) (l.addr.arg.toNat + 64) (16 * l.pkt.nstage)
/-- The status with which a stage table ends its launch (R281): 1 its rules, 2 a capability; 0 none. -/
def stageStatus (s : State) (l : Launch) : Nat :=
  if l.pkt.nstage = 0 then 0 else match readStages s l with
    | none => 1
    | some bs =>
      let t := stageTable l.pkt.nstage bs
      if !stageZero l.pkt.nstage bs || t.any (fun x => decide (x.2.1 < x.2.2.1)) || decide (l.pkt.beds * l.pkt.tpb < (t.map fun x => x.2.2.2).sum) then 1
      else if t.any (fun x => !((capQueue s x.1 19).any fun q => q.kind == 1)) then 2 else 0
/-- The stage table that a plot's placement reads (R281). DESIGN CHOICE, log 73: a later plot whose table no longer passes has none, so its stages want and give no team. -/
def freshStages (s : State) (l : Launch) : List (DWord × Nat × Nat × Nat) :=
  if stageStatus s l != 0 then [] else match readStages s l with
    | some bs => stageTable l.pkt.nstage bs
    | none => []
/-- The team to move to a role, and its plot's move (R282). -/
def stageMove (s : State) (p : Plot) (st : List (DWord × Nat × Nat × Nat)) : Option (Nat × Nat) :=
  let teams := s.teams.filter fun t => t.place.plot == p.uid && t.sched.status != .exited
  let l := st.zipIdx.map fun x => (x.2, stageOcc s x.1, x.1)
  let want := (l.filter fun x => decide (x.2.2.2.1 < x.2.1)).foldl (fun (b : Option (Nat × Nat)) x =>
    let k := x.2.1 - x.2.2.2.1
    match b with
    | none => some (x.1, k)
    | some y => if y.2 < k then some (x.1, k) else b) none
  let give := (l.filter fun x => decide (x.2.1 < x.2.2.2.2.1)
      && decide (x.2.2.2.2.2 < (teams.filter fun t => t.stamp.role == x.1).length)).foldl (fun (b : Option (Nat × Nat)) x => match b with
    | none => some (x.1, x.2.1)
    | some y => if x.2.1 ≤ y.2 then some (x.1, x.2.1) else b) none
  match want, give with
  | some w, some g =>
    if w.1 = g.1 then none
    else ((teams.filter fun t => t.stamp.role == g.1 && !t.trap.inHandler).foldl (fun (b : Option Team) t => match b with
      | none => some t
      | some u => if u.place.teamix < t.place.teamix then some t else b) none).map fun t => (t.tid, w.1)
  | _, _ => none
/-- ac that a plot has run (R283). -/
def plotRun (s : State) (p : Plot) : Nat := p.run + match p.runFrom with
  | some a => s.clock.ac - a
  | none => 0
/-- STAGE_EVALUATION (R282): every 1,024 ac of a plot's run. -/
def execStageEvaluation (x : PlotArg) (s : State) : Out :=
  match s.plot? x.plot with
  | none => .fault .noSuchUnit
  | some p => match s.launch? p.launch with
    | none => .next s
    | some l =>
      if l.pkt.nstage = 0 || plotRun s p < p.evalAt + 1024 then .next s
      else
        let p := { p with evalAt := p.evalAt + 1024 }
        match stageMove s p p.stages with
        | none => .next (s.putPlot p)
        | some (tid, role) =>
          let s := s.putPlot { p with moves := (p.moves + 1) % 2 ^ 32 }
          .next (match s.team? tid with
            | some t => s.putTeam { t with stamp := { t.stamp with role := role } }
            | none => s)

/-! ## Placement -/

/-- The rows that a JOIN's children still wait for are in the ring or credited (R340, R341). -/
def ringDone (s : State) (l : Launch) : Bool := match l.origin with
  | .join c i => !(s.cluster c).spills.any fun p => p.inst == i && decide (p.next < p.rows.length)
  | _ => true
/-- The plot index that a launch places next (R273, R276, R284): saved plots come before, then those to start afresh; none while its counter holds it. -/
def nextIndex (s : State) (l : Launch) : Option Nat :=
  if depWaits s l || l.code != 0 || s.gov.plots.any (fun p => p.launch == l.uid && p.st == .saved) then none
  else match l.again with
    | k :: _ => some k
    | [] =>
      if l.pkt.plots ≤ l.next then none
      else if ringDone s l || decide ((l.next + 1) * (l.pkt.rows * l.pkt.tpb) ≤ l.spawned.length) then some l.next else none
/-- Quadrants of the teams of bed b. -/
def bedQuads (teams quads : List Nat) (b : Nat) : List Nat := (quads.drop ((teams.take b).sum)).take (teams.getD b 0)
/-- Whether a bed with its teams' quadrants fits a core (R11, R70). -/
def bedQuadsFit (s : State) (core dom : Nat) (p : Packet) (quads : List Nat) : Bool :=
  bedFits s core dom p quads.length && match coreSlot s core dom with
    | none => false
    | some w => (List.range 4).all fun q => decide ((quads.filter (· == q)).length ≤ quadCap s core q w p (bedBankCount p quads.length))
/-- A choice of distinct cores of a cluster and of quadrants on which a plot fits, what may be claimed included (R273, R314). -/
def choiceFits (s : State) (dom : Nat) (p : Packet) (teams : List Nat) (x : PlaceArg) : Bool :=
  x.cores.length == teams.length && x.cores.eraseDups.length == x.cores.length && x.cores.all (fun c => clusterOf c == x.cluster)
    && x.quads.length == teams.sum && x.quads.all (fun q => decide (q < 4))
    && x.cores.zipIdx.all fun c => bedQuadsFit (claimView s c.1 dom) c.1 dom p (bedQuads teams x.quads c.2)
/-- A bed as it is placed: banks, channels, producer (R13, R162, R203). -/
def placedBed (s : State) (l : Launch) (core b teams : Nat) : Bed :=
  let w := (coreSlot s core l.dom).getD []
  { core := core, mem := Scratch.empty, banks := (freeBanks s core l.dom).take (bedBankCount l.pkt teams), ext := [], chans := l.pkt.chan &&& slotChans w,
    producer := l.pkt.prod.toNat / 2 ^ (8 * b) % 64, teams := teams, parked := [] }
/-- Scalars of a team at placement: the argument words with their poison, and the pointer (R28); each half of the buffer's line has free values of its own when it lies outside (R361). -/
def placeScalars (s : State) (l : Launch) : Except Nat (List Elem) :=
  let ptr := [Elem.clean (l.addr.arg.extractLsb' 0 32), Elem.clean (l.addr.arg.extractLsb' 32 32)]
  if l.addr.arg = 0 then .ok (List.replicate 16 Elem.zero ++ ptr)
  else
    let tr := domTranslate s l.dom l.priv .read
    match readVa s tr l.addr.arg.toNat 32, readVaFrom s tr (l.addr.arg.toNat + 32) 32 2 with
    | .ok a, .ok b => .ok ((bytesWords 8 a.1).map (fun w => ⟨w, a.2⟩) ++ (bytesWords 8 b.1).map (fun w => ⟨w, b.2⟩) ++ ptr)
    | .error c, _ => .error c
    | _, .error c => .error c
/-- Rows that a team of a JOIN or a tile receives. -/
def teamRows (l : Launch) (k teamix : Nat) : List (List Elem) := match l.origin with
  | .join _ _ => (l.spawned.drop ((k * l.pkt.tpb + teamix) * l.pkt.rows)).take l.pkt.rows
  | .tile _ => l.spawned
  | _ => []
/-- Put delivered rows into the registers (R28, R339, R346). -/
def loadRows (t : Team) (rows : List (List Elem)) : Team :=
  rows.zipIdx.foldl (fun t r => r.1.zipIdx.foldl (fun t e => t.vset e.2 r.2 e.1) t) t
/-- The granules dealt to a team that is placed in a quadrant (R70). -/
def placedGrans (s : State) (l : Launch) (core quad : Nat) : List (List Nat) :=
  dealGrans (allocRows l.pkt.rows / 32) (l.pkt.vregs / 8) (freeGrans s core quad ((coreSlot s core l.dom).getD []))
/-- Place one team (R28, R70, R72, R120): its argument words, read from the segment (R275), its rows; a fault of the argument read or of the entry slot ends it (R28, R37, R194). -/
def placeTeam (s : State) (l : Launch) (plot k bed j core quad : Nat) : State :=
  let tid := s.uid
  let ix := bed * l.pkt.tpb + j
  let place : Place := ⟨l.uid, plot, bed, j, ix, core, quad⟩
  let foot : Foot := ⟨teamRowsOf l k ix, allocRows l.pkt.rows, l.pkt.vregs, l.pkt.sregs, l.pkt.scratch⟩
  let stamp : Stamp := { entry := l.pkt.entry, entrySlot := l.pkt.entrySlot, arg := l.addr.arg, plotix := BitVec.ofNat 64 k, nest := l.nest, priv := l.priv,
                         home := l.dom, role := if l.pkt.nstage = 0 then 0 else ix % l.pkt.nstage }
  let sc := placeScalars s l
  let t := loadRows (newTeam tid place foot stamp s.clock.ac (match sc with
    | .ok e => e
    | .error _ => [])) (teamRows l k ix)
  let t := { t with grans := placedGrans s l core quad }
  let s := if l.addr.arg = 0 then s else lineAccess s (graftAgent l.dom l.priv core) .read l.addr.arg.toNat 64
  let s := ({ s with uid := tid + 1, teams := s.teams ++ [t] }).drawn 64
  match sc with
  | .error c => enterTrap s t ⟨c, false, 0, t.flow.mask, some l.addr.arg, false⟩
  | .ok _ => match targetFault s t.agent t.flow.pc with
    | some c => enterTrap (targetRead s t t.agent t.flow.pc) t ⟨c, false, 0, t.flow.mask, if c == 0x03 then none else some t.flow.pc.line, false⟩
    | none => s
/-- Make room for a bed, write back the L1 whose banks change, take an acquire at .sys and reset the channels that the bed will hold (R164, R229, R269, R314). -/
def readyCore (s : State) (l : Launch) (core : Nat) (quads : List Nat) : State :=
  let s := makeRoom s core l.dom fun v => bedQuadsFit v core l.dom l.pkt quads
  let s := acquireAt (l1WriteBack s core) core l.dom 5
  let w := (coreSlot s core l.dom).getD []
  let ch := l.pkt.chan &&& slotChans w
  (firstOnCore s core l.dom).modCore core fun c => { c with chans := c.chans.mapIdx fun i x => if ch.getLsbD i then Channel.reset else x }
/-- The pages on which a launch's constant window lies (R163). -/
def windowPagesOf (s : State) (l : Launch) : List Nat :=
  [l.addr.arg.toNat, l.addr.arg.toNat + 65535].filterMap fun va => match domTranslate s l.dom l.priv .read va with
    | .ok (pa, _) => some (pa / 65536)
    | .error _ => none
/-- A launch starts: the constant caches hold nothing of its window, so that what the submitter released is read (R163, R269). -/
def constFresh (s : State) (l : Launch) : State :=
  let pages := windowPagesOf s l
  { s with clusters := s.clusters.map fun c => { c with cc := c.cc.filter fun e => !(e.1 == l.dom && pages.contains (e.2.1 / 65536)) } }
/-- A freed plot, whose scratchpad and points no one can reach any more, gives up its trace when its cluster takes another plot (R235, R273). -/
def dropTraces (s : State) (cluster : Nat) : State := s.modGov fun g => { g with plots := g.plots.filter fun p => !(p.st == .done && p.cluster == cluster) }
/-- Put plot number k of a launch in place (R28, R273). -/
def placePlot (s : State) (l : Launch) (k : Nat) (x : PlaceArg) : State :=
  let teams := plotTeams l k
  let s := dropTraces (if l.next = 0 && l.again.isEmpty then constFresh s l else s) x.cluster
  let s := x.cores.zipIdx.foldl (fun s c => readyCore s l c.1 (bedQuads teams x.quads c.2)) s
  let uid := s.uid
  let p : Plot := { uid := uid, launch := l.uid, index := k, cluster := x.cluster, scratch := l.pkt.scratch,
                    beds := x.cores.zipIdx.map (fun c => placedBed s l c.1 c.2 (teams.getD c.2 0)), points := List.replicate 24 Point.reset,
                    stages := if l.pkt.nstage = 0 then [] else freshStages s l, moves := 0, run := 0, runFrom := some s.clock.ac, evalAt := 0, st := .resident, quiesced := false, haltAt := 0, banks := [] }
  let again := match l.again with
    | a :: r => if a = k then r else l.again
    | [] => []
  let l := { l with again := again, next := max l.next (k + 1) }
  let s := (({ (stageReads s l) with uid := uid + 1 }.drawn 128).modGov fun g => { g with plots := g.plots ++ [p] }).putLaunch l
  x.cores.zipIdx.foldl (fun s c => (bedQuads teams x.quads c.2).zipIdx.foldl (fun s q => placeTeam s l uid k c.2 q.2 c.1 q.1) s) s
/-- A launch leaves its cluster's intake when its last plot is placed (R276); a JOIN whose rows now all stand in teams completes (R338). -/
def leaveIntake (s : State) (l : Launch) : State :=
  let done := match s.launch? l.uid with
    | some l => decide (l.pkt.plots ≤ l.next)
    | none => true
  match l.origin with
  | .spawn c => if done then s.modCluster c fun k => { k with intake := k.intake.filter (· != l.uid) } else s
  | .join c _ => settleJoins (if done && ringDone s l then s.modCluster c fun k => { k with intake := k.intake.filter (· != l.uid) } else s) c
  | _ => s
/-- A launch from a queue or the table. -/
def drawnOrigin (l : Launch) : Bool := match l.origin with
  | .queue _ => true
  | .table _ => true
  | _ => false
/-- A time-triggered launch (R287). -/
def tableLaunch (l : Launch) : Bool := match l.origin with
  | .table _ => true
  | _ => false
/-- The fetch of a launch's entry slot on a core, when the slot fails its check, goes through a segment that is quiesced (R37, R130). -/
def entryStalls (s : State) (l : Launch) (core : Nat) : Bool :=
  let ag : Agent := ⟨l.dom, l.priv, core, false⟩
  (targetFault s ag ⟨l.pkt.entry, l.pkt.entrySlot⟩).isSome && match translate s ag .fetch l.pkt.entry.toNat 3 with
  | .error _ => false
  | .ok (pa, pol) => fetchStalls s core l.dom pol pa
/-- What a placement must do first waits for a segment that is quiesced: the read of the argument words, the fetch of an entry slot and the write back of the L1s (R37, R130, R164, R275). -/
def placeStalls (s : State) (l : Launch) (cores : List Nat) : Bool :=
  cores.any fun c => l1Stalls s c || entryStalls s l c || (l.addr.arg != 0 && lineStalls s (graftAgent l.dom l.priv c) .read l.addr.arg.toNat 64)
/-- The next plot of a launch is placed by the choice given, when it fits there now (R273, R274, R281). -/
def placeNext (s : State) (l : Launch) (x : PlaceArg) : State :=
  match nextIndex s l with
  | none => s
  | some k =>
    let first := l.next == 0 && !(s.gov.plots.any fun p => p.launch == l.uid)
    if first && stageStatus s l != 0 then leaveIntake ((stageReads s l).putLaunch (l.failed (stageStatus s l))) l
    else if chooseCluster s l (plotTeams l k) == some x.cluster && choiceFits s l.dom l.pkt (plotTeams l k) x && !placeStalls s l x.cores
    then resumeBehind (leaveIntake (placePlot s l k x) l)
    else s
/-- PLOT_PLACEMENT (R273): the next plot of a launch from a queue or the table. -/
def execPlotPlacement (x : PlaceArg) (s : State) : Out :=
  match s.launch? x.what with
  | none => .next s
  | some l => if drawnOrigin l then .next (placeNext s l x) else .next s
/-- SPAWN_INTAKE (R274, R275, R340, R346): the next plot of a launch of a SPAWN, a JOIN or a tile is placed; a JOIN's child launch that waits for a place in the intake takes one (R276). -/
def execSpawnIntake (x : PlaceArg) (s : State) : Out :=
  match s.launch? x.what with
  | none => match childCluster s x.what with
    | none => .next s
    | some c => .next (admitChild s c.1 c.2)
  | some l => if drawnOrigin l then .next s else .next (placeNext s l x)

/-! ## Freeing and completion -/

/-- The matrix unit of a core lets a freed team go (R238). -/
def dropMatrix (m : Matrix) (tid : Nat) : Matrix :=
  let m := { m with reqs := m.reqs.filter (fun r => r.tid != tid), images := m.images.filter (fun i => i.tid != tid) }
  if m.holder == some tid then mRelease m else m
/-- Free a bed whose teams are all freed: its banks return to the L1 and its channels are held no more (R162, R164, R203). What its scratchpad held stays as a trace (R235). -/
def freeBed (s : State) (plot bed : Nat) : State :=
  if s.teams.any (fun t => t.place.plot == plot && t.place.bed == bed) then s
  else (dropParts s (bedParts s plot bed)).modBed plot bed fun b => { b with banks := [], ext := [], chans := 0, parked := [] }
/-- A plot all of whose teams are freed is resident no more, and its instances go (R273); its points keep their last values (R235). -/
def freePlot (s : State) (plot cluster : Nat) : State :=
  if s.teams.any (fun t => t.place.plot == plot) then runStop s plot
  else (s.modGov fun g => { g with plots := g.plots.map fun p => if p.uid == plot then { p with st := .done, runFrom := none } else p }).modCluster cluster fun c =>
    { c with insts := c.insts.filter fun x => x.plot != plot }
/-- Add a freed team's untaken faults to its launch (R189, R272). -/
def countPending (s : State) (t : Team) : State := match s.launch? t.place.launch with
  | none => s
  | some l => s.putLaunch { l with pending := min 0xFFFFFFFF (l.pending + t.region.pend.length + t.region.lostCount) }
/-- A team is freed (R22, R122, R238, R269, R330): its stores are performed, its places are free, and who waited for it is judged again. -/
def freeTeam (s : State) (t : Team) : State :=
  let core := t.place.core
  let cl := clusterOf core
  let s := countPending (l1WriteBack (l1Release s core t.stamp.home 5) core) t
  let s := { s with teams := s.teams.filter fun u => u.tid != t.tid }
  let s := dropParts s (s.gov.saved.filter fun p => p.tid == some t.tid)
  let s := dropCredit (s.modMx core fun m => dropMatrix m t.tid) core
  let s := markReady cl (recheckPoints s t.place.plot t.place.teamix)
  resumeCore (freePlot (freeBed s t.place.plot t.place.bed) t.place.plot cl) core
/-- TEAM_FREE (R22): a team that has ended and whose operations have all retired; its stores wait for a segment that is quiesced (R130, R269). -/
def execTeamFree (x : TeamArg) (s : State) : Out :=
  match s.team? x.tid with
  | none => .fault .noSuchUnit
  | some t => if t.sched.status == .exited && t.ops.isEmpty && !s.reports.any (fun r => r.tid == t.tid)
         && !releaseStalls s t.place.core t.stamp.home 5 && !l1Stalls s t.place.core then .next (freeTeam s t) else .next s
/-- Every team of every plot of a launch has been freed, and none is still to be placed. -/
def launchDone (s : State) (l : Launch) : Bool :=
  l.again.isEmpty && decide (l.pkt.plots ≤ l.next) && ringDone s l && !(s.gov.plots.any fun p => p.launch == l.uid && p.st != .done)
/-- Domain 0 discards a launch (R272): no further plot of it is placed, and its record says so. DESIGN CHOICE, log 74: the plots that stand in clusters run to their end. -/
def discardLaunch (s : State) (l : Launch) : State := leaveIntake (s.putLaunch { l.failed 5 with again := [] }) l
/-- Child launches of a domain that wait for room are discarded (R272). -/
def discardChildren (dom : Nat) (c : Cluster) : Cluster :=
  { c with spills := c.spills.map fun p => { p with child := p.child.map fun l => if l.dom == dom && l.code == 0 then l.failed 5 else l } }
/-- Domain 0 discards the launches of a domain that have not failed and are not placed whole (R272). -/
def discardLaunches (s : State) (dom : Nat) : State :=
  let s := { s with clusters := s.clusters.map (discardChildren dom) }
  (s.gov.launches.filter fun l => l.dom == dom && l.code == 0 && (l.next < l.pkt.plots || !l.again.isEmpty)).foldl discardLaunch s
/-- CODE of a completion record (R272). -/
def launchCode (l : Launch) : Nat := if l.code != 0 then l.code else if l.ended != 0 then 4 else 0
/-- Read the packet of a table entry and launch it (R287); one that cannot be read has no effect. -/
def fireEntry (s : State) (e : TableEntry) : State :=
  let put := fun (s : State) (e : TableEntry) => s.modGov fun g => { g with table := g.table.map fun x => if x.id == e.id then e else x }
  let dom := (e.words.getD 5 0).toNat % 64
  match readVa s (domTranslate s dom true .read) ((e.words.getD 1 0) ++ (e.words.getD 0 0)).toNat 128 with
  | .error _ => put (devWalks s dom ((e.words.getD 1 0) ++ (e.words.getD 0 0)).toNat 128) { e with held := false }
  | .ok bs =>
    let w := bytesWords 32 bs.1
    let l := newLaunch s.uid (.table e.id) dom 0 false w
    let l := if packetBad w true then l.failed 1 else if !everFits s l then l.failed 3 else l
    let s := devReads s dom (domTranslate s dom true .read) ((e.words.getD 1 0) ++ (e.words.getD 0 0)).toNat 128
    put (({ s with uid := s.uid + 1 }.addLaunch l).drawn 128) { e with held := false, prev := some l.uid }
/-- The previous instance of a table entry has completed: a held one is launched (R287). -/
def tableDone (s : State) (launch : Nat) : State :=
  s.gov.table.foldl (fun s e => if e.prev != some launch then s else
    let e := { e with prev := none }
    let s := s.modGov fun g => { g with table := g.table.map fun x => if x.id == e.id then e else x }
    if e.held then fireEntry s e else s) s
/-- The MSI-X message that a queue's binding names (R360). -/
def queueMsix (s : State) (l : Launch) : State := match l.origin with
  | .queue q => match s.queue? q with
    | some q => match q.vector with
      | some v => s.send ⟨q.owner, 5, v, []⟩
      | none => s
    | none => s
  | _ => s
/-- The SIG counter is decremented (R276). -/
def signal (s : State) (l : Launch) : State :=
  if l.pkt.dep.getLsbD 15 then setCounter s l.dom (l.pkt.dep.toNat / 256 % 64) (depCounter s l.dom (l.pkt.dep.toNat / 256 % 64) - 1) else s
/-- Complete a launch: its record, its counter, its slot (R272). DESIGN CHOICE, log 123: the record of a packet that is malformed because its CREC is no multiple of 32 is written at that CREC. -/
def completeLaunch (s : State) (l : Launch) : State :=
  let s := putRecord s l.dom l.addr.crec (recordBytes (launchCode l) l.fcode l.ended l.pending l.fhflt l.fpc l.addr.tag)
  tableDone ((queueMsix (signal s l) l).dropLaunch l.uid) l.uid
/-- A launch of a tile. -/
def tileOrigin (l : Launch) : Bool := match l.origin with
  | .tile _ => true
  | _ => false
/-- COMPLETION_RECORD (R272, R276, R287). -/
def execCompletionRecord (x : LaunchArg) (s : State) : Out :=
  match s.launch? x.launch with
  | none => .next s
  | some l => if launchDone s l && !tileOrigin l then .next (completeLaunch s l) else .next s
/-- TILE_STATUS_WRITE (R346): a tile's task has ended; no record is written for it. -/
def execTileStatusWrite (x : LaunchArg) (s : State) : Out :=
  match s.launch? x.launch with
  | none => .next s
  | some l =>
    if launchDone s l && tileOrigin l then .next ((putTileStatus s l.tokens (if l.ended = 0 && l.code = 0 then 2 else 3)).dropLaunch l.uid)
    else .next s

/-! ## The time-triggered table -/

/-- EN of an entry (R286). -/
def entryOn (e : TableEntry) : Bool := (e.words.getD 5 0).getLsbD 8
/-- DEFER of an entry. -/
def entryDefer (e : TableEntry) : Bool := (e.words.getD 5 0).getLsbD 9
/-- The launch-clock time of the next slot of an entry. -/
def slotTime (e : TableEntry) : Nat := ((e.words.getD 3 0) ++ (e.words.getD 2 0)).toNat + e.nextK * (e.words.getD 4 0).toNat
/-- A slot of an entry is due. -/
def entryDue (s : State) (e : TableEntry) : Bool := entryOn e && decide (slotTime e ≤ s.clock.ns)
/-- Add one to a counting word of an entry. -/
def entryCount (e : TableEntry) (i : Nat) : TableEntry := { e with words := e.words.modify i (· + 1) }
/-- TABLE_FIRING (R287). -/
def execTableFiring (x : EntryArg) (s : State) : Out :=
  match s.gov.table.find? fun e => e.id == x.entry with
  | none => .next s
  | some e =>
    if !entryDue s e then .next s
    else
      let put := fun (e : TableEntry) => s.modGov fun g => { g with table := g.table.map fun y => if y.id == e.id then e else y }
      let e := { e with nextK := e.nextK + 1 }
      if e.prev.isNone then (if 1024 ≤ s.gov.launches.length then .next s else .next (fireEntry (put e) e))
      else if !entryDefer e || e.held then .next (put (entryCount e 6))
      else .next (put { entryCount e 7 with held := true })

end Sys2Proof.Machine
end

