-- ==== Sys2Proof/Machine/Preempt.lean ====
section
/-! DEFINITION. Pre-emption of plots (R283, R284, R333): draining, saving, flushing, restoring. -/

namespace Sys2Proof.Machine

/-- What the governor chooses for a plot (R283): 0 drain, 1 flush and restart, 2 save. -/
def preemptChoice (run work : Nat) (idem : Bool) : Nat :=
  let est := 16 * work
  if work != 0 && decide (7 * est ≤ 8 * run) && decide (est ≤ run + 18800) then 0
  else if idem && (work == 0 || decide (4 * run < est)) then 1 else 2
/-- A gate of a running team is aborted at its next instruction boundary by a command that names it (R309, R310). -/
def abortGate (s : State) (tid cause : Nat) : State :=
  match s.team? tid with
  | none => s
  | some t => if t.gate.isNone || t.sched.status != .running then s else
    let s := runOut s t
    match s.team? tid with
    | none => s
    | some t => match t.gate with
      | some g => gateAbort s t g cause
      | none => s
/-- A team halts for a save at its next instruction boundary: a gate is aborted, a handler halts in place (R195, R284, R310). -/
def haltForSave (s : State) (tid : Nat) : State :=
  let s := abortGate s tid 7
  match s.team? tid with
  | none => s
  | some t => match t.sched.status with
    | .running => askHalt s t .haltSave true
    | .haltSlice => s.putTeam { t with sched := { t.sched with status := .haltSave } }
    | .haltRecall => s.putTeam { t with sched := { t.sched with status := .haltSave } }
    | _ => s
/-- A plot begins to be saved (R284). -/
def startSave (s : State) (p : Plot) : State :=
  let s := (plotMembers s p.uid).foldl (fun s t => haltForSave s t.tid) s
  match s.plot? p.uid with
  | none => s
  | some p => s.putPlot { p with st := .saving, quiesced := false, haltAt := s.clock.ac }
/-- The copies of a bed are discarded, with no poison and no arrival (R228). -/
def flushBed (s : State) (b : Bed) : State :=
  let held := (List.range 16).filter fun c => b.chans.getLsbD c
  let ops := held.flatMap fun c => (s.chan b.core c).q.map (·.op)
  let s := ops.foldl (fun s op => sbFree s b.core op) s
  held.foldl (fun s c => s.modChan b.core c fun _ => Channel.reset) s
/-- The matrix unit without the work of the teams of a plot (R256): released at once, cleared. DESIGN CHOICE, log 120: the four metadata queues are emptied with the accumulators. -/
def flushMatrix (tids : List Nat) (m : Matrix) : Matrix :=
  let m := { m with reqs := m.reqs.filter (fun r => !tids.contains r.tid), images := m.images.filter (fun i => !tids.contains i.tid) }
  match m.holder with
  | some h => if tids.contains h then { mFree m with q := [], acc := [[], []], mq := [[], [], [], []] } else m
  | none => m
/-- A cluster without what its unit holds for the teams of a plot: instances, and places in the applications of a JOIN (R333). -/
def flushCluster (plot : Nat) (tids : List Nat) (c : Cluster) : Cluster :=
  let cut := fun (p : Spill) => { p with waiting := p.waiting.filter (fun t => !tids.contains t), ops := p.ops.filter (fun o => !tids.contains o.1) }
  { c with insts := c.insts.filter (fun x => x.plot != plot), spills := c.spills.map cut }
/-- The scoreboard entries of a team's matrix commands go with them. -/
def flushSb (s : State) (t : Team) : State := (t.ops.filter fun o => !o.done).foldl (fun s o => sbFree s t.place.core o.uid) s
/-- Flush and restart (R284): the plot's state is discarded and its index is placed afresh, unless its launch places nothing more. -/
def flushPlot (s : State) (p : Plot) : State :=
  let ts := plotMembers s p.uid
  let tids := ts.map (·.tid)
  let s := p.beds.foldl flushBed (ts.foldl flushSb s)
  let s := p.beds.foldl (fun s b => (l1WriteBack s b.core).modMxq b.core (flushMatrix tids)) s
  let s := { s with teams := s.teams.filter (fun t => !tids.contains t.tid), reports := s.reports.filter (fun r => !tids.contains r.tid),
                    clusters := s.clusters.map (flushCluster p.uid tids) }
  let s := s.modGov fun g => { g with plots := g.plots.filter (fun x => x.uid != p.uid), saved := g.saved.filter (fun x => x.plot != p.uid) }
  let s := match s.launch? p.launch with
    | some l => s.putLaunch { l with again := if l.code = 0 then setIns l.again p.index else [] }
    | none => s
  let s := (List.range Config.clusters).foldl (fun s c => if (s.cluster c).spills.isEmpty then s else settleJoins s c) s
  p.beds.foldl (fun s b => resumeCore (dropCredit s b.core) b.core) s
/-- PREEMPT_DECISION (R283, R284). The write back that a flush needs waits for a quiesced segment (R130). -/
def execPreemptDecision (x : PlotArg) (s : State) : Out :=
  match s.plot? x.plot with
  | none => .fault .noSuchUnit
  | some p => match p.st, s.launch? p.launch with
    | .resident, some l => if p.beds.any (fun b => l1Stalls s b.core) then .next s else match preemptChoice (plotRun s p) l.pkt.work l.pkt.idem with
      | 0 => .next (s.putPlot { p with st := .draining s.clock.ac })
      | 1 => .next (flushPlot s p)
      | _ => .next (startSave s p)
    | _, _ => .next s
/-- DRAIN_TIMEOUT (R284): a plot not freed within 18,800 ac of the decision is saved. -/
def execDrainTimeout (x : PlotArg) (s : State) : Out :=
  match s.plot? x.plot with
  | none => .fault .noSuchUnit
  | some p => match p.st with
    | .draining a => if a + 18800 ≤ s.clock.ac then .next (startSave s p) else .next s
    | _ => .next s

/-! ## Saving -/

/-- The cluster save area of a domain (R301). -/
def clusterSaveBase (s : State) (cluster dom : Nat) : Nat :=
  match (s.cluster cluster).slots.find? fun w => (w.getD 0 0).getLsbD 31 && ((w.getD 0 0).extractLsb' 0 6).toNat == dom with
  | some w => ((w.getD 2 0).extractLsb' 0 20).toNat * 2 ^ 32 + ((w.getD 1 0).extractLsb' 23 9).toNat * 2 ^ 23
  | none => 0
/-- Write one part of a plot's cluster state: bank 64 is its points and instances, others a bank of plot scratchpad (R284, R317, R333). -/
def putClusterPart (s : State) (p : Plot) (dom bank size : Nat) : State :=
  let (seed, s) := s.fresh
  let r := match areaGap s (clusterSaveBase s p.cluster dom) 0 0x800000 size with
    | some a => let w := savePart s dom (p.cluster / 16) a size seed
                (w.1, a, w.2)
    | none => (s, 0, true)
  r.1.modGov fun g => { g with saved := g.saved ++ [⟨p.uid, none, 4, bank, r.2.1, size, seed, r.2.2⟩] }
/-- Banks of plot scratchpad of a domain in a cluster. -/
def plotBanks (s : State) (cluster dom : Nat) : List (Nat × Scratch) :=
  ((s.cluster cluster).banks.zipIdx.filter fun b => b.1.owner == dom && b.1.mode == .plot).map fun b => (b.2, b.1.mem)
/-- The unit of every core of the plot holds nothing of it (R256). -/
def matrixOut (s : State) (p : Plot) : Bool := p.beds.all fun b => match (s.mx b.core).holder with
  | some h => !(plotMembers s p.uid).any fun t => t.tid == h
  | none => true
/-- RUN of a plot stands still: it is not placed any more (R283). -/
def runEnd (s : State) (plot : Nat) : State := match s.plot? plot with
  | none => s
  | some p => s.putPlot { p with run := plotRun s p, runFrom := none }
/-- Everything of a plot goes to the save area (R125, R228, R284, R333). -/
def savePlot (s : State) (p : Plot) : State :=
  let dom := plotDom s p
  let ts := plotMembers s p.uid
  let s := p.beds.foldl (fun s b => l1WriteBack (l1Release s b.core dom 5) b.core) s
  let s := ts.foldl (fun s t => match s.team? t.tid with
    | none => s
    | some t =>
      let s := saveRegs s t
      let s := if s.partOut t.tid 1 then s else saveRest s t
      (s.modMx t.place.core fun m => { m with reqs := m.reqs.filter (fun r => r.tid != t.tid) }).putTeam { t with line := none }) s
  let s := p.beds.zipIdx.foldl (fun s b => if bedStands b.1 then saveBed s p.uid b.2 else s) s
  let banks := plotBanks s p.cluster dom
  let s := banks.foldl (fun s b => putClusterPart s p dom b.1 0x20000) (putClusterPart s p dom 64 0x2000)
  let s := match (runEnd s p.uid).plot? p.uid with
    | some p => s.putPlot { p with st := .saved, quiesced := false, banks := banks }
    | none => s
  p.beds.foldl (fun s b => resumeCore (dropCredit s b.core) b.core) s
/-- PLOT_SAVE (R284): once its teams are halted, its channels are quiesced and the matrix unit holds nothing of it; the write back of its L1s waits for a quiesced segment (R130). -/
def execPlotSave (x : PlotArg) (s : State) : Out :=
  match s.plot? x.plot with
  | none => .fault .noSuchUnit
  | some p => if p.st == .saving && p.quiesced && matrixOut s p && (plotMembers s p.uid).all (fun t => t.sched.status != .running)
      && !p.beds.any (fun b => l1Stalls s b.core) then .next (savePlot s p) else .next s

/-! ## Restoring -/

/-- No other saved plot of the domain that fits, and no halted team of it that could go on, goes before (R285). -/
def restoreFirst (s : State) (p : Plot) (dom : Nat) : Bool :=
  !savedBefore s dom (plotAwaited s p) (plotHalt s p)
    && !s.teams.any fun t => t.stamp.home == dom && goesBefore (awaited s t) t.sched.haltAt (plotAwaited s p) (plotHalt s p)
      && resumable s t.place.core dom t && t.sched.status != .exited && slotGoes s t.place.core dom && (bringBack s t).isSome
/-- A time-triggered launch of a domain has a plot that fits now: it is placed before what was pre-empted for it comes back (R287). -/
def tableWaits (s : State) (dom : Nat) : Bool :=
  s.gov.launches.any fun l => l.dom == dom && tableLaunch l && match nextIndex s l with
    | some k => (chooseCluster s l (plotTeams l k)).isSome
    | none => false
/-- The quadrants given to the teams of bed i. -/
def restQuads (s : State) (p : Plot) (x : PlaceArg) (i : Nat) : List Nat :=
  bedQuads ((List.range p.beds.length).map fun k => (bedMembers s p.uid k).length) x.quads i
/-- A bed with its teams' quadrants fits a core. -/
def restBedFits (v : State) (p : Plot) (l : Launch) (core i : Nat) (quads : List Nat) : Bool :=
  savedBedFits v p l core i fun w n => (List.range 4).all fun q => decide ((quads.filter (· == q)).length ≤ quadCap v core q w l.pkt n)
/-- The choice of cores and quadrants fits. -/
def restoreChoice (s : State) (p : Plot) (l : Launch) (x : PlaceArg) : Bool :=
  x.cores.length == p.beds.length && x.cores.eraseDups.length == x.cores.length && x.cores.all (fun c => clusterOf c == p.cluster)
    && x.quads.length == (plotMembers s p.uid).length && x.quads.all (fun q => decide (q < 4))
    && x.cores.zipIdx.all fun c => restBedFits (claimView s c.1 l.dom) p l c.1 c.2 (restQuads s p x c.2)
/-- A matrix image follows its team to another core, with the scoreboard entries of its commands (R23, R256). DESIGN CHOICE, log 109: entries already held are kept there whatever room there is (R24). -/
def moveImage (s : State) (tid old new : Nat) : State :=
  if old = new then s
  else
    let img := (s.mx old).images.filter fun i => i.tid == tid
    let held := fun (e : SbEntry) => img.any fun i => i.q.any fun c => c.op == e.op
    let es := (s.core old).sb.filter held
    let s := (s.modMx old fun m => { m with images := m.images.filter fun i => i.tid != tid }).modMx new fun m => { m with images := m.images ++ img }
    sbTake (s.modCore old fun c => { c with sb := c.sb.filter fun e => !held e }) new es
/-- Bring bed i of a plot back to a core, with its teams in quadrants. -/
def restBed (s : State) (p : Plot) (l : Launch) (core i : Nat) (quads : List Nat) : State :=
  let s := makeRoom s core l.dom fun v => restBedFits v p l core i quads
  let s := acquireAt (l1WriteBack s core) core l.dom 5
  let s := restoreBed (s.modBed p.uid i fun b => { b with core := core }) p.uid i true
  ((bedMembers s p.uid i).zip quads).foldl (fun s tq =>
    let t := tq.1
    let s := (moveImage s t.tid t.place.core core).putTeam { t with place := { t.place with core := core } }
    match s.team? t.tid with
    | some t => restoreTeam s t tq.2
    | none => s) s
/-- Plot scratchpad as it was saved comes back into the banks that the domain still owns; a part that failed its check is poisoned (R284, R319). DEDUCED, log 75: R284 counts the plot scratchpad that the plot can reach as the plot's, so what other plots of the domain wrote there meanwhile is lost. -/
def restBanks (s : State) (p : Plot) (dom : Nat) : State :=
  p.banks.foldl (fun s b =>
    let bad := s.gov.saved.any fun x => x.plot == p.uid && x.kind == 4 && x.bank == b.1 && !partOk s x
    let m := if bad then { b.2 with pois := List.range 8192 } else b.2
    s.modCluster p.cluster fun c => { c with banks := c.banks.modify b.1 fun k => if k.owner == dom && k.mode == .plot then { k with mem := m } else k }) s
/-- A saved plot comes back (R228, R284, R318, R333): scratchpad and teams first, then its channels go on and its teams run. -/
def restorePlot (s : State) (p : Plot) (l : Launch) (x : PlaceArg) : State :=
  let quads := fun i => restQuads s p x i
  let parts := s.gov.saved.filter fun y => y.plot == p.uid && y.kind == 4
  let s := (restBanks (dropTraces s p.cluster) p l.dom).putPlot { p with st := .resident, quiesced := false, banks := [] }
  let s := x.cores.zipIdx.foldl (fun s c => restBed s p l c.1 c.2 (quads c.2)) s
  let tids := (plotMembers s p.uid).map (·.tid)
  let s := reportEmerg (dropParts (runStart s p.uid) parts) parts tids
  let s := tids.foldl (fun s tid => match s.team? tid with
    | some t => if t.sched.status == .haltSave then resumeTeam s t else s
    | none => s) s
  resumeDomain (markReady p.cluster (runStop s p.uid)) l.dom
/-- PLOT_RESTORE (R284, R285). -/
def execPlotRestore (x : PlaceArg) (s : State) : Out :=
  match s.plot? x.what with
  | none => .fault .noSuchUnit
  | some p => match s.launch? p.launch with
    | none => .next s
    | some l =>
      if p.st == .saved && x.cluster == p.cluster && savedFits s p l && restoreChoice s p l x && restoreFirst s p l.dom && !tableWaits s l.dom && !x.cores.any (l1Stalls s) then .next (restorePlot s p l x)
      else .next s

end Sys2Proof.Machine
end

