-- ==== Sys2Proof/Machine/Domains.lean ====
section
/-! DEFINITION. The domain guard's events (R297-R316, R320, R361, R364, R367): slices, recalls, partition registers, the reverse ownership table, gate budgets, meters, droop, firewall and aperture windows. -/

namespace Sys2Proof.Machine

/-! ## Slots -/

/-- Slot i of a core. -/
def slotOfCore (s : State) (core i : Nat) : List Word := (s.core core).slots.getD i (List.replicate 16 0)
/-- Change a slot of a core. -/
def modSlot (s : State) (core i : Nat) (g : List Word → List Word) : State := s.modCore core fun c => { c with slots := c.slots.modify i g }
/-- Set STATE of a slot (R299). -/
def setState (s : State) (core i v : Nat) : State := modSlot s core i fun w => w.set 10 (BitVec.ofNat 32 v)
/-- BUDGET of a slot in microseconds. -/
def slotBudget (w : List Word) : Nat := (w.getD 9 0).toNat
/-- BUDGET after more idle time: at most CAP slices (R312). -/
def addBudget (w : List Word) (n : Nat) : List Word := w.set 9 (BitVec.ofNat 32 (min (slotCap w * slotLen w) (slotBudget w + n)))
/-- A valid slot that takes slices. -/
def slotTakesSlices (w : List Word) : Bool := slotValid w && slotSliced w
/-- Work of a domain on a core in a slice: a team that runs or may resume, or a plot of the domain that waits to be placed (R312). -/
def sliceWork (s : State) (core dom : Nat) : Bool :=
  s.teams.any (fun t => t.place.core == core && t.stamp.home == dom && (t.sched.status == .running || resumable s core dom t))
    || s.gov.launches.any (fun l => l.dom == dom && (nextIndex s l).isSome) || s.gov.plots.any fun p => p.st == .saved && plotDom s p == dom
/-- Teams of a domain on a core. -/
def domTeams (s : State) (core dom : Nat) : List Team := s.teams.filter fun t => t.place.core == core && t.stamp.home == dom
/-- Halt every team of a domain on a core. -/
def haltDomain (s : State) (core dom : Nat) (st : Status) (force : Bool) : State :=
  (domTeams s core dom).foldl (fun s t => match s.team? t.tid with
    | some t => askHalt s t st force
    | none => s) s
/-- SLICE_END (R312, R313): the slice's time is over, or nothing of the slot is left to run; STATE stays 2 while a recall of the slot runs (R315). -/
def execSliceEnd (x : CoreArg) (s : State) : Out :=
  let sl := (s.core x.core).slice
  match sl.current with
  | none => .next s
  | some i =>
    let w := slotOfCore s x.core i
    if s.clock.ns < sl.endsAt && sliceWork s x.core (slotDomain w) then .next s
    else
      let s := modSlot s x.core i fun w => addBudget w ((sl.endsAt - s.clock.ns) / 1000)
      let s := (if slotState w == 2 then s else setState s x.core i 3).modCore x.core fun c => { c with slice := { c.slice with current := none, last := i } }
      .next (haltDomain s x.core (slotDomain w) .haltSlice false)
/-- Slot indices in turn after the last. -/
def turnOrder (last : Nat) : List Nat := (List.range 8).map fun k => (last + 1 + k) % 8
/-- The next slot with work, if there is one, and the sliced slots passed over before it (R312); one that is being recalled is passed over too. -/
def nextSlice (s : State) (core : Nat) : List Nat → List Nat → Option Nat × List Nat
  | [], passed => (none, passed)
  | i :: r, passed =>
    let w := slotOfCore s core i
    if !slotTakesSlices w then nextSlice s core r passed
    else if slotState w != 2 && sliceWork s core (slotDomain w) then (some i, passed) else nextSlice s core r (passed ++ [i])
/-- A halt that still waits for a slice end is off: the next slice has begun. Other halts go on waiting (R195). DESIGN CHOICE, log 116: R195 has the halt wait until HRET and does not say that a slice which begins meanwhile ends it. -/
def dropWish (t : Team) : Team := { t with sched := { t.sched with wish := t.sched.wish.filter (· != .haltSlice) } }
/-- The slots passed over gain LEN (R312). -/
def passOver (s : State) (core : Nat) (passed : List Nat) : State := passed.foldl (fun s k => modSlot s core k fun w => addBudget w (slotLen w)) s
/-- SLICE_START (R312, R314): the next sliced slot with work begins its slice; with none, every sliced slot is passed over. -/
def execSliceStart (x : CoreArg) (s : State) : Out :=
  let sl := (s.core x.core).slice
  if sl.current.isSome then .next s
  else
    let n := nextSlice s x.core (turnOrder sl.last) []
    let s := passOver s x.core n.2
    match n.1 with
    | none => .next s
    | some i =>
      let w := slotOfCore s x.core i
      let s := modSlot s x.core i fun w => (w.set 9 0).set 10 0
      let s := s.modCore x.core fun c => { c with slice := { c.slice with current := some i, endsAt := s.clock.ns + 1000 * (slotLen w + slotBudget w) } }
      let s := (domTeams s x.core (slotDomain w)).foldl (fun s t => s.putTeam (dropWish t)) s
      .next (resumeSlot s x.core i)

/-! ## Recall -/

/-- A bed holds a bank or a channel that a slot names. -/
def bedIn (w : List Word) (b : Bed) : Bool := b.held.any (slotBank w) || b.chans &&& slotChans w != 0
/-- A team of the borrower holds something that the owner's slot names: a granule, or a bank or a channel of its bed (R315). -/
def holdsOf (s : State) (owner : List Word) (t : Team) : Bool := (s.teamGrans t).any (slotGran owner) || bedIn owner (s.bed t.place.plot t.place.bed)
/-- Abort the gates on a core whose caller or callee is a domain, each at its team's next instruction boundary (R310). -/
def abortGates (s : State) (core dom : Nat) : State :=
  s.teams.foldl (fun s t => if t.place.core != core then s else match t.gate with
    | some g => if g.did == dom || t.flow.did == dom then abortGate s t.tid 7 else s
    | none => s) s
/-- Halt for a recall the teams of a list, handlers in place (R195, R315). -/
def haltTeams (s : State) (l : List Nat) : State :=
  l.foldl (fun s tid => match s.team? tid with
    | some t => match t.sched.status with
      | .haltSlice => s.putTeam { t with sched := { t.sched with status := .haltRecall } }
      | _ => askHalt s t .haltRecall true
    | none => s) s
/-- Evict teams that do not run, and their beds, from a core (R314, R315): everything they hold is saved, the matrix unit included. -/
def evictTeams (s : State) (core : Nat) (l : List Nat) : State :=
  let s := l1WriteBack s core
  let s := match (s.mx core).holder with
    | some h => if l.contains h && !mDisplaced (s.mx core) h then scanOut s core h else s
    | none => s
  let s := l.foldl (fun s tid => match s.team? tid with
    | some t => if t.sched.status == .running then s else evict (saveRegs s t) (.rest t.place.plot tid)
    | none => s) s
  let beds := (l.filterMap s.team?).map fun t => (t.place.plot, t.place.bed)
  beds.eraseDups.foldl (fun s b =>
    if bedStands (s.bed b.1 b.2) && !s.teams.any (fun t => t.place.plot == b.1 && t.place.bed == b.2 && t.sched.status == .running) then saveBed s b.1 b.2 else s) s
/-- Recalls that run on a die (R316). -/
def recallsOn (s : State) (die : Nat) : Nat := ((List.range 64).map fun i => (s.core (64 * die + i)).slice.recalling.length).sum
/-- A recall names two valid slots, and is not under way. -/
def recallFits (s : State) (core borrower owner : Nat) : Bool :=
  slotValid (slotOfCore s core owner) && slotValid (slotOfCore s core borrower) && borrower != owner && !(s.core core).slice.recalling.contains (borrower, owner)
/-- The borrower's teams that hold what the owner's slot names (R315). -/
def recallTeams (s : State) (core borrower owner : Nat) : List Nat :=
  ((domTeams s core (slotDomain (slotOfCore s core borrower))).filter (holdsOf s (slotOfCore s core owner))).map (·.tid)
/-- A recall starts (R310, R315): the gates of either domain abort, and the borrower's teams that hold what the owner's slot names halt. -/
def startRecall (s : State) (core borrower owner : Nat) : State :=
  let s := (setState s core owner 2).modCore core fun c => { c with slice := { c.slice with recalling := c.slice.recalling ++ [(borrower, owner)] } }
  let s := abortGates (abortGates s core (slotDomain (slotOfCore s core borrower))) core (slotDomain (slotOfCore s core owner))
  haltTeams s (recallTeams s core borrower owner)
/-- RECALL (R310, R315, R316): it starts, or waits while 20 run on its die. -/
def execRecall (x : RecallArg) (s : State) : Out :=
  if Config.cores ≤ x.core || 8 ≤ x.slot || 8 ≤ x.owner then .fault .noSuchUnit
  else if !recallFits s x.core x.slot x.owner then .next s
  else if 20 ≤ recallsOn s (dieOf x.core) then
    .next (s.modDie (dieOf x.core) fun d => { d with recalls := d.recalls.filter (· != (x.core, x.slot, x.owner)) ++ [(x.core, x.slot, x.owner)] })
  else .next (startRecall s x.core x.slot x.owner)
/-- The recalls that wait on a die start, oldest first, while fewer than 20 run (R316); one that no longer names two valid slots goes. -/
def startWaiting (s : State) (die : Nat) : State :=
  (s.die die).recalls.foldl (fun s r =>
    if 20 ≤ recallsOn s die then s
    else
      let s := s.modDie die fun d => { d with recalls := d.recalls.filter (· != r) }
      if recallFits s r.1 r.2.1 r.2.2 then startRecall s r.1 r.2.1 r.2.2 else s) s
/-- STATE of a slot when nothing recalls it: 3 for a sliced slot out of its slice (R299). -/
def restState (s : State) (core i : Nat) : Nat :=
  if slotSliced (slotOfCore s core i) && (s.core core).slice.current != some i then 3 else 0
/-- STATE of an owner's slot leaves 2 with its last recall (R315). -/
def settleOwner (s : State) (core i : Nat) : State :=
  if slotState (slotOfCore s core i) == 2 && !(s.core core).slice.recalling.any (fun r => r.2 == i) then setState s core i (restState s core i) else s
/-- The recalls of a core that a test picks have ended: what waited for them goes on (R315, R316). -/
def endRecalls (s : State) (core : Nat) (p : Nat × Nat → Bool) : State :=
  let s := s.modCore core fun c => { c with slice := { c.slice with recalling := c.slice.recalling.filter fun r => !p r } }
  startWaiting (resumeCore ((List.range 8).foldl (fun s i => settleOwner s core i) s) core) (dieOf core)
/-- RECALL_END (R315): the last of the borrower's teams halts, all that hold something of the owner's partition are evicted, and the partition holds no state of the borrower any more. -/
def execRecallEnd (x : RecallArg) (s : State) : Out :=
  if !(s.core x.core).slice.recalling.contains (x.slot, x.owner) then .next s
  else
    let l := recallTeams s x.core x.slot x.owner
    .next (endRecalls (evictTeams (haltTeams s l) x.core l) x.core (· == (x.slot, x.owner)))

/-! ## Partition registers -/

/-- Bits of each word of a core slot that must be zero when written (R299); words 9 and 10 are read-only. -/
def slotZeros : List Word := [0x3F000DC0, 0xFC00FC00, 0, 0, 0, 0xFFFF0000, 0x003FFFFF, 0xFFF00000, 0xFFF80000, 0, 0, 0xFFFFFFFF, 0xFFFFFFFF, 0xFFFFFFFF,
  0xFFFFFFFF, 0xFFFFFFFF]
/-- A core slot that breaks a rule of R299, given the other slots of the core (R298). -/
def slotBad (others : List (List Word)) (w : List Word) : Bool :=
  [ w.length != 16, (w.zip slotZeros).any (fun x => x.1 &&& x.2 != 0), decide (4 < slotCap w), !slotSliced w && slotLen w != 0,
    slotValid w && (slotWeight w == 0 || slotDomain w == 0 || others.any fun o => slotValid o && slotDomain o == slotDomain w) ].any id
/-- A write keeps every granule, bank and channel of a slot (R300). -/
def slotKeeps (old new : List Word) : Bool :=
  let lo := fun (w : List Word) => ((w.getD 1 0).extractLsb' 0 10).toNat
  let hi := fun (w : List Word) => ((w.getD 1 0).extractLsb' 16 10).toNat
  decide (lo new ≤ lo old) && decide (hi old ≤ hi new) && [2, 3, 4, 5].all fun i => old.getD i 0 &&& ~~~(new.getD i 0) == 0
/-- A bed holds a bank or channel that a write removes. -/
def bedLoses (old new : List Word) (b : Bed) : Bool :=
  b.held.any (fun k => slotBank old k && !slotBank new k) || b.chans &&& slotChans old &&& ~~~slotChans new != 0
/-- A team holds what a write removes: a granule, or a bank or a channel of its bed (R300). -/
def teamLoses (s : State) (old new : List Word) (t : Team) : Bool :=
  (s.teamGrans t).any (fun g => slotGran old g && !slotGran new g) || bedLoses old new (s.bed t.place.plot t.place.bed)
/-- Placed beds of a domain take the channels that a write newly grants and that their plots ask for, the first placed first; channels granted before are gained by no placed bed, and a bed that has been evicted is not placed: its channels come back with it (R203, R300, R314). -/
def grantChans (s : State) (core dom : Nat) (old new : List Word) : State :=
  s.gov.plots.foldl (fun s p =>
    if plotDom s p != dom then s
    else match s.launch? p.launch with
      | none => s
      | some l => p.beds.zipIdx.foldl (fun s b =>
        let now := s.bed p.uid b.2
        let more := l.pkt.chan &&& slotChans new &&& ~~~slotChans old &&& ~~~heldChans s core &&& ~~~parkedMask now
        if now.core != core || bedEvicted s p.uid b.2 || p.st == .saved || p.st == .done || now.teams == 0 || more == 0 then s
        else (s.modCore core fun c => { c with chans := c.chans.mapIdx fun i ch => if more.getLsbD i then Channel.reset else ch }).modBed p.uid b.2
          fun y => { y with chans := y.chans ||| more }) s) s
/-- The slot's contents after a write: the read-only words stay with the device, BUDGET within its cap (R299, R312). -/
def slotWritten (old new : List Word) (sliceOn : Bool) : List Word :=
  let fresh := !slotValid old || slotDomain old != slotDomain new
  let st := if !slotValid new then 0 else if slotState old == 2 && !fresh then 2 else if slotSliced new && !sliceOn then 3 else 0
  (new.set 9 (BitVec.ofNat 32 (if fresh then 0 else min (slotCap new * slotLen new) (slotBudget old)))).set 10 (BitVec.ofNat 32 st)
/-- Dies on which a domain has a valid slot, of a core or of a cluster (R298). -/
def slotDies (s : State) (dom : Nat) : List Nat :=
  ((List.range Config.cores).filter fun c => (slotIndex (s.core c) dom).isSome).map dieOf
    ++ ((List.range Config.clusters).filter fun c => (s.cluster c).slots.any fun w => (w.getD 0 0).getLsbD 31 && ((w.getD 0 0).extractLsb' 0 6).toNat == dom).map (· / 16)
/-- A domain's slots would not lie within one estate (R364). -/
def estateBad (s : State) (die dom : Nat) : Bool := !(slotDies s dom).all (sameEstate s die)
/-- Write a core slot (R299, R300): every command that names a slot aborts the gates of its domain (R310), and what it takes from placed teams is recalled first, all in this one step. -/
def writeCoreSlot (s : State) (core i : Nat) (new : List Word) : State :=
  let old := slotOfCore s core i
  let others := ((List.range 8).filter (· != i)).map (slotOfCore s core)
  if slotBad others new || (slotValid new && estateBad (modSlot s core i fun w => w.set 0 0) (dieOf core) (slotDomain new)) then s
  else
    let gone := slotValid old && (!slotValid new || slotDomain new != slotDomain old)
    let dom := slotDomain old
    let hit := if gone then (domTeams s core dom).map (·.tid)
               else if slotValid old && !slotKeeps old new then ((domTeams s core dom).filter (teamLoses s old new)).map (·.tid) else []
    let s := if slotValid old then abortGates s core dom else s
    let s := if hit.isEmpty then s else evictTeams (haltTeams s hit) core hit
    let on := (s.core core).slice.current == some i && slotValid new && slotSliced new && !gone
    let s := modSlot s core i fun _ => slotWritten old new on
    let s := if (s.core core).slice.current == some i && !on then s.modCore core fun c => { c with slice := { c.slice with current := none, last := i } } else s
    let s := if slotValid new && slotValid old && !gone then grantChans s core (slotDomain new) old new else s
    if gone then endRecalls s core (fun r => r.1 == i || r.2 == i) else resumeSlot s core i
/-- CORE_SLOT_WRITE (R299, R300). -/
def execCoreSlotWrite (x : CoreSlotArg) (s : State) : Out :=
  if Config.cores ≤ x.core || 8 ≤ x.slot then .fault .noSuchUnit else .next (writeCoreSlot s x.core x.slot x.words)

/-- A copy names a bank of its cluster (R297). -/
def copyNamesBank (c : Copy) (bank : Nat) : Bool :=
  (c.fromFifo && c.wd 0 == bank) || c.ranges.any fun r => decide (r.1 < 0x400000 + 131072 * (bank + 1)) && decide ((0x400000 + 131072 * bank : Nat) < r.1 + r.2.1)
/-- A matrix command names a bank of its cluster. -/
def cmdNamesBank (c : MCmd) (bank : Nat) : Bool :=
  (cmdRanges c).any fun r =>
    decide (r.1 < 0x400000 + 131072 * (bank + 1)) && decide (0x400000 + 131072 * bank < r.2)
/-- A copy that lost a bank ends as faulted, with its domain fault (R226, R297). -/
def copyWithdrawn (dom bank : Nat) (c : Copy) : Bool := c.dom == dom && c.st != .marking && copyNamesBank c bank
/-- The commands of one core that named a withdrawn bank (R297). -/
def withdrawCore (dom bank : Nat) (s : State) (core : Nat) : State :=
  let copies := (s.core core).chans.flatMap fun ch => (ch.q.filter (copyWithdrawn dom bank)).map (·.tid)
  let hit := fun (m : MCmd) => m.dom == dom && !m.doomed && cmdNamesBank m bank
  let mx := s.mx core
  let cmds := ((mx.q ++ mx.images.flatMap fun i => i.q).filter hit).map (·.tid)
  let doom := fun (l : List MCmd) => l.map fun m => if hit m then { m with doomed := true } else m
  let s := mapCopies s core fun c => if copyWithdrawn dom bank c then cancelCopy 2 c else c
  let s := s.modMx core fun m => { m with q := doom m.q, images := m.images.map fun i => { i with q := doom i.q } }
  (copies ++ cmds).foldl (fun s tid => s.report tid 0x31 0 0 3) s
/-- The copies of saved beds of a cluster that named a withdrawn bank (R297). -/
def withdrawParked (s : State) (cluster dom bank : Nat) : State :=
  let hit := copyWithdrawn dom bank
  let beds := (s.gov.plots.filter fun p => p.cluster == cluster).flatMap fun p => p.beds.flatMap fun b => b.parked.flatMap fun k => (k.2.q.filter hit).map (·.tid)
  let fix := fun (ch : Channel) => { ch with q := ch.q.map fun c => if hit c then cancelCopy 2 c else c }
  let cut := fun (b : Bed) => { b with parked := b.parked.map fun k => (k.1, fix k.2) }
  let s := s.modGov fun g => { g with plots := g.plots.map fun p => if p.cluster == cluster then { p with beds := p.beds.map cut } else p }
  beds.foldl (fun s tid => s.report tid 0x31 0 0 3) s
/-- Mode of a bank-owner word. -/
def bownMode (v : Word) : BankMode := if (v.extractLsb' 8 2).toNat = 1 then .cache else if (v.extractLsb' 8 2).toNat = 2 then .fifo else .plot
/-- Write a bank-owner word (R297, R301): a change of OWNER alone empties the bank, a cache segment in it too. -/
def writeBankOwner (s : State) (cluster bank : Nat) (v : Word) : State :=
  let b := (s.cluster cluster).banks.getD bank Bank.reset
  let owner := (v.extractLsb' 0 6).toNat
  if v &&& 0xFFFFFCC0 != 0 || v.extractLsb' 8 2 == 3 || (owner == b.owner && bownMode v == b.mode) then s
  else
    let s := withdrawParked ((coresOf cluster).foldl (withdrawCore b.owner bank) s) cluster b.owner bank
    let s := if bownMode v != b.mode then setBankMode s cluster bank (bownMode v)
             else (if s.teams.any (fun t => t.sync.mon.isSome) then bankWatchLost s cluster bank else s).modCluster cluster fun c =>
               { c with banks := c.banks.modify bank fun b => { b with mem := Scratch.empty, fifo := [], seg := [] } }
    s.modCluster cluster fun c => { c with banks := c.banks.modify bank fun b => { b with owner := owner, quiesced := none } }
/-- BANK_OWNER_WRITE (R301). -/
def execBankOwnerWrite (x : BankArg) (s : State) : Out :=
  if Config.clusters ≤ x.cluster || 64 ≤ x.bank then .fault .noSuchUnit else .next (writeBankOwner s x.cluster x.bank x.value)
/-- CDOMAIN of a cluster slot. -/
def cslotDomain (w : List Word) : Nat := ((w.getD 0 0).extractLsb' 0 6).toNat
/-- A cluster slot that breaks a rule of R301, given the others of the cluster (R298). -/
def cslotBad (others : List (List Word)) (w : List Word) : Bool :=
  let valid := (w.getD 0 0).getLsbD 31
  [ w.length != 68, w.getD 0 0 &&& 0x7FFFFFC0 != 0, w.getD 1 0 &&& 0x007FFFFF != 0, w.getD 2 0 &&& 0xFFF00000 != 0, w.getD 3 0 != 0,
    (w.drop 4).any (fun x => x &&& 0xF8000000 != 0 || decide (1024 < (x.extractLsb' 16 11).toNat)),
    valid && (cslotDomain w == 0 || others.any fun o => (o.getD 0 0).getLsbD 31 && cslotDomain o == cslotDomain w) ].any id
/-- Write a cluster slot; the counts of its domain restart (R172, R301). -/
def writeClusterSlot (s : State) (cluster i : Nat) (w : List Word) : State :=
  let slots := (s.cluster cluster).slots
  let others := ((List.range 8).filter (· != i)).map fun k => slots.getD k []
  let cleared := s.modCluster cluster fun c => { c with slots := c.slots.modify i fun w => w.set 0 0 }
  if cslotBad others w || ((w.getD 0 0).getLsbD 31 && estateBad cleared (cluster / 16) (cslotDomain w)) then s
  else
    let doms := [cslotDomain w, cslotDomain (slots.getD i [])]
    let cut := fun (l : List (Nat × Nat)) => l.filter fun e => !doms.contains e.1
    s.modCluster cluster fun c => { c with slots := c.slots.set i w, hits := cut c.hits, misses := cut c.misses }
/-- CLUSTER_SLOT_WRITE (R172, R301). -/
def execClusterSlotWrite (x : ClusterSlotArg) (s : State) : Out :=
  if Config.clusters ≤ x.cluster || 8 ≤ x.slot then .fault .noSuchUnit else .next (writeClusterSlot s x.cluster x.slot x.words)

/-! ## The reverse ownership table -/

/-- Set an entry of the ROT; zero entries are not listed. -/
def setRot (s : State) (page : Nat) (e : BitVec 16) : State :=
  s.modMgmt fun m => { m with rot := if e = 0 then adel m.rot page else aput m.rot page e }
/-- Drop every copy of the lines of a page, dirty bytes included (R304). -/
def dropPage (s : State) (page : Nat) : State :=
  let out := fun (line : Nat) => line / 512 != page
  { s with cores := s.cores.map (fun c => { c with l1 := c.l1.filter fun l => out l.line }),
           clusters := s.clusters.map fun c => { c with banks := c.banks.map fun b => { b with seg := b.seg.filter fun l => out l.line } } }
/-- The monitors armed on lines of a page wake: its bytes are written (R187, R304). -/
def wakePage (s : State) (page : Nat) : State :=
  { s with teams := s.teams.map fun t => match t.sync.mon with
      | some m => if m.space == 0 && m.line / 512 == page && m.woke.isNone then { t with sync := { t.sync with mon := some { m with woke := some 0 } } } else t
      | none => t }
/-- Write a ROT entry (R303, R304): an owner change is refused when PIN is set; else the page is emptied and zeroed. -/
def writeRot (s : State) (page : Nat) (e : BitVec 16) : State :=
  let old := rotEntry s page
  let e := e &&& 0x803F
  if old.extractLsb' 0 6 == e.extractLsb' 0 6 then setRot s page e
  else if old.getLsbD 15 then s
  else
    let s := wakePage (dropPage s page) page
    setRot { s with mem := s.mem.zero (page * 65536) 65536 } page e
/-- ROT_OWNER_CHANGE (R303, R304). -/
def execRotOwnerChange (x : RotArg) (s : State) : Out := if 2 ^ 24 ≤ x.page then .fault .noSuchUnit else .next (writeRot s x.page x.entry)

/-! ## Gates, meters, droop -/

/-- GATE_BUDGET_EXPIRY (R309): the gate ends at the team's next instruction boundary. -/
def execGateBudgetExpiry (x : TeamArg) (s : State) : Out :=
  match s.team? x.tid with
  | none => .fault .noSuchUnit
  | some t => match t.gate with
    | some g => if g.deadline ≤ s.clock.ac && !abortStalls s t g then .next (abortGate s t.tid 6) else .next s
    | none => .next s
/-- METER_FOLD (R320): per-core counts are folded into ISSUE, with the energy that the firmware's table gives them. -/
def execMeterFold (x : CoreArg) (s : State) : Out :=
  let s := (s.core x.core).issue.foldl (fun s e => s.meter e.1 0 e.2) s
  .next ((s.modCore x.core fun c => { c with issue := [] }).modMgmt fun m => { m with foldNs := s.clock.ns })
/-- DROOP (R3, R367): the clock of a die is stretched and the event is counted. -/
def execDroop (x : DieArg) (s : State) : Out :=
  if Config.dies ≤ x.die then .fault .noSuchUnit
  else .next (s.modDie x.die fun d => if d.stretched then d else { d with stretched := true, droops := d.droops + 1 })
/-- DROOP_RECOVERY (R3). -/
def execDroopRecovery (x : DieArg) (s : State) : Out :=
  if Config.dies ≤ x.die then .fault .noSuchUnit else .next (s.modDie x.die fun d => { d with stretched := false })

/-! ## Estates and windows -/

/-- A list of dies begins an aligned block of four or of all eight whose other dies hold no value yet. -/
def blockBegun (s : State) (l : List Nat) : Bool :=
  ([4, 8] : List Nat).any fun n => let lo := l.headD 0
    lo % n == 0 && decide (l.length < n) && l == (List.range l.length).map (lo + ·)
      && ((List.range n).drop l.length).all fun k => (s.die (lo + k)).firewall == 0
/-- A firewall value whose dies form no aligned block (R364). DESIGN CHOICE, log 39: one register is written at a time, so a block of four or eight may be built from its lowest die upward; until it is whole each die is its own estate. -/
def firewallBad (s : State) (die : Nat) (v : Word) : Bool :=
  let s := s.modDie die fun d => { d with firewall := v }
  v != 0 && !alignedBlock (indexDies s die) && !blockBegun s (indexDies s die)
/-- A firewall value that leaves a domain's valid slots in more than one estate (R364). -/
def firewallSplits (s : State) (die : Nat) (v : Word) : Bool :=
  let s := s.modDie die fun d => { d with firewall := v }
  (List.range 64).any fun dom => let l := slotDies s dom
                                 !l.all (sameEstate s (l.headD 0))
/-- A team is placed: its plot has not been saved (R284). -/
def teamPlaced (s : State) (t : Team) : Bool := (s.plot? t.place.plot).all fun p => p.st != .saved
/-- Write a firewall register (R364): refused by LOCK, by a Zero bit, by the block rule, where a domain's slots would be split, and while a team is placed on the die. -/
def writeFirewall (s : State) (die : Nat) (v : Word) : State :=
  if (s.die die).firewall.getLsbD 31 || v &&& 0x7FF8FFF8 != 0 || firewallBad s die v || firewallSplits s die v
     || s.teams.any (fun t => dieOf t.place.core == die && teamPlaced s t) then s
  else s.modDie die fun d => { d with firewall := v }
/-- FIREWALL_WRITE (R364). -/
def execFirewallWrite (x : FirewallArg) (s : State) : Out := if Config.dies ≤ x.die then .fault .noSuchUnit else .next (writeFirewall s x.die x.value)
/-- Two windows share a physical page. -/
def windowsMeet (a b : List Word) : Bool :=
  decide (windowBase a < windowBase b + windowPages b * 65536) && decide (windowBase b < windowBase a + windowPages a * 65536)
/-- A write of an aperture window that breaks a rule of R361, given the domain's others and whether PHI is among the words written: PHI without bit 19 is refused. -/
def windowBad (others : List (List Word)) (phi : Bool) (w : List Word) : Bool :=
  [ w.length != 5, w.getD 0 0 &&& 0x0000FFFE != 0, w.getD 1 0 &&& 0xFFF00000 != 0, phi && !(w.getD 1 0).getLsbD 19, w.getD 2 0 &&& 0x0000FFFF != 0,
    w.getD 4 0 &&& 0xFFC00000 != 0, windowValid w && decide (2 ^ 52 < windowBase w + windowPages w * 65536),
    windowValid w && others.any fun o => windowValid o && windowsMeet w o ].any id
/-- Write an aperture window (R361), PHI with it or not. -/
def writeWindow (s : State) (dom i : Nat) (phi : Bool) (w : List Word) : State :=
  let d := s.domain dom
  if windowBad (((List.range 16).filter (· != i)).map fun k => d.windows.getD k []) phi w then s else s.putDomain { d with windows := d.windows.set i w }
/-- APERTURE_WINDOW_WRITE (R361). -/
def execApertureWindowWrite (x : WindowArg) (s : State) : Out :=
  if 64 ≤ x.domain || 16 ≤ x.window then .fault .noSuchUnit else .next (writeWindow s x.domain x.window true x.words)

end Sys2Proof.Machine
end

