-- ==== Sys2Proof/Machine/HostIf.lean ====
section
/-! DEFINITION. The host interface (R131, R195, R354-R369): the management map, mailbox commands, doorbells, inbound windows, links, reset and attestation. -/

namespace Sys2Proof.Machine

/-! ## Management registers -/

/-- Replace the low (0) or high (1) word of a 64-bit value. -/
def setHalf (x : DWord) (high : Bool) (v : Word) : DWord := if high then v ++ x.extractLsb' 0 32 else x.extractLsb' 32 32 ++ v
/-- A queue as configured first: unbound, empty (R277). -/
def Queue.reset (q : Nat) : Queue :=
  { id := q, owner := 0, kind := 0, esize := 16, gen := 0, privileged := false, base := 0, cap := 0, store := [], head := 0, tail := 0, hostTail := 0,
    hostHead := 0, fn := 0, qdb := 64, vector := none }
/-- Change a queue, which is listed once it is configured. -/
def modQueue (s : State) (q : Nat) (g : Queue → Queue) : State :=
  s.modGov fun v => { v with queues := if v.queues.any (fun x => x.id == q) then v.queues.map (fun x => if x.id == q then g x else x)
                                       else v.queues ++ [g (Queue.reset q)] }
/-- Word 0 of a queue's configuration: OWNER [5:0], TYPE [8], ESIZE code [11:10], privileged [12] (R277, R302); the other words: 1 GEN, 2 and 3 RING base, 4 capacity, 5 MSI-X vector [5:0] with VALID [31]. -/
def queueWord (w : Nat) (v : Word) (q : Queue) : Queue :=
  match w with
  | 0 =>
    let kind := if v.getLsbD 8 then 1 else 0
    { q with owner := (v.extractLsb' 0 6).toNat, kind := kind, esize := if kind = 0 then 128 else 16 * 2 ^ (v.extractLsb' 10 2).toNat,
             privileged := v.getLsbD 12 }
  | 1 => { q with gen := v.extractLsb' 0 27 }
  | 2 => { q with base := setHalf q.base false v }
  | 3 => { q with base := setHalf q.base true v }
  | 4 => { q with cap := v.toNat }
  | 5 => { q with vector := if v.getLsbD 31 then some (v.toNat % 64) else none }
  | _ => q
/-- A word of a queue's configuration as it reads. -/
def queueRead (w : Nat) (q : Queue) : Word :=
  match w with
  | 0 => BitVec.ofNat 32 (q.owner + (if q.kind = 1 then 256 else 0) + (if q.kind = 0 then 0 else q.esize.log2 - 4) * 1024 + if q.privileged then 4096 else 0)
  | 1 => q.gen.setWidth 32
  | 2 => q.base.extractLsb' 0 32
  | 3 => q.base.extractLsb' 32 32
  | 4 => BitVec.ofNat 32 q.cap
  | 5 => match q.vector with
    | some v => BitVec.ofNat 32 (2 ^ 31 + v)
    | none => 0
  | _ => 0
/-- Bind a launch queue of a domain to a QDB slot of its function, or unbind the slot: bit 31 VALID, [11:0] the queue (R356). -/
def bindQdb (s : State) (dom slot : Nat) (v : Word) : State :=
  let s := s.modGov fun g => { g with queues := g.queues.map fun q => if q.fn == dom && q.qdb == slot then { q with qdb := 64 } else q }
  if !v.getLsbD 31 then s
  else match s.queue? (v.toNat % 4096) with
    | none => s
    | some q => if q.owner != dom || q.kind != 0 then s else s.putQueue { q with fn := dom, qdb := slot, hostHead := 0, hostTail := 0 }
/-- The first slot of a table entry that lies in the future (R287). DESIGN CHOICE, log 122: slots that are past when the entry is written, or fall at that very time, neither fire nor count. -/
def nextSlotK (s : State) (w : List Word) : Nat :=
  let first := ((w.getD 3 0) ++ (w.getD 2 0)).toNat
  if s.clock.ns < first then 0 else (s.clock.ns - first) / max 1 (w.getD 4 0).toNat + 1
/-- Write a word of a table entry (R286): counts are read-only, Zero bits are dropped (R6), a PERIOD below 1,000 and a DOMAIN of 0 leave the entry off. -/
def writeTable (s : State) (n w : Nat) (v : Word) : State :=
  if 256 ≤ n || 6 ≤ w then s
  else
    let old := (s.gov.table.find? fun e => e.id == n).getD ⟨n, List.replicate 8 0, none, false, 0⟩
    let words := old.words.set w (if w = 5 then v &&& 0x33F else v)
    let on := (words.getD 5 0).getLsbD 8
    let words := if on && (decide ((words.getD 4 0).toNat < 1000) || (words.getD 5 0).toNat % 64 == 0) then words.set 5 (words.getD 5 0 &&& 0x23F) else words
    let e := { old with words := words, nextK := nextSlotK s words, held := old.held && (words.getD 5 0).getLsbD 8 }
    s.modGov fun g => { g with table := if g.table.any (fun x => x.id == n) then g.table.map (fun x => if x.id == n then e else x) else g.table ++ [e] }
/-- Write a word of a gate entry (R305). -/
def writeGate (s : State) (n w : Nat) (v : Word) : State :=
  if 256 ≤ n || 8 ≤ w then s else s.modMgmt fun m => { m with gates := aput m.gates n ((agetD m.gates n (List.replicate 8 0)).set w v) }
/-- The mailbox of a function. -/
def State.mailbox (s : State) (fn : Nat) : Mailbox :=
  (s.mgmt.mailboxes.find? fun m => m.fn == fn).getD ⟨fn, 0, 0, 0, 0, 0, 0, [], [], false, false⟩
/-- Put a mailbox back. -/
def State.putMailbox (s : State) (b : Mailbox) : State :=
  s.modMgmt fun m => { m with mailboxes := if m.mailboxes.any (fun x => x.fn == b.fn) then m.mailboxes.map (fun x => if x.fn == b.fn then b else x)
                                           else m.mailboxes ++ [b] }
/-- MBEN (R356). -/
def mbOn (b : Mailbox) : Bool := b.ctl.getLsbD 0
/-- Entries of the ring. -/
def mbSize (b : Mailbox) : Nat := 2 ^ ((b.ctl.extractLsb' 1 4).toNat + 4)
/-- Write a mailbox register (R356): the ring may change only while MBEN is clear. DESIGN CHOICE, log 83: the bits of MBRINGLO that must be zero are dropped. -/
def writeMailbox (s : State) (fn off : Nat) (v : Word) : State :=
  let b := s.mailbox fn
  s.putMailbox (match off with
    | 0 => if mbOn b then b else { b with ringLo := v &&& 0xFFFFF000 }
    | 4 => if mbOn b then b else { b with ringHi := v }
    | 8 => if mbOn b then { b with ctl := (b.ctl &&& 0x1E) ||| (v &&& 1) } else { b with ctl := v &&& 0x1F }
    | _ => b)
/-- Write a management register that has no event of its own (R6, R173, R277, R279, R286, R305, R356, R362). -/
def writeMgmt (s : State) (r : MgmtReg) (v : DWord) : State :=
  let w := v.extractLsb' 0 32
  match r with
  | .tableRoot d => if 64 ≤ d then s else s.putDomain { s.domain d with root := (v &&& 0x000FFFFFFFFF0000).toNat }
  | .ownerWeight d => if d = 0 || 64 ≤ d then s else s.modGov fun g => { g with weights := aput g.weights d (v.toNat % 256) }
  | .bar2Base d => if 64 ≤ d then s else s.putDomain { s.domain d with bar2Base := v.toNat }
  | .bar2Size d => if 64 ≤ d then s else s.putDomain { s.domain d with bar2Size := min v.toNat (2 ^ 30) }
  | .bar2Admit d =>
    if 64 ≤ d then s
    else let x := s.domain d
         let id := v.extractLsb' 0 16
         s.putDomain { x with bar2Admit := if v.getLsbD 31 then id :: x.bar2Admit.filter (· != id) else x.bar2Admit.filter (· != id) }
  | .bindQdb d q => if d = 0 || 64 ≤ d || 64 ≤ q then s else bindQdb s d q w
  | .queueConfig q k => if Config.queues ≤ q || 6 ≤ k then s else modQueue s q (queueWord k w)
  | .tableEntry n k => writeTable s n k w
  | .gateEntry n k => writeGate s n k w
  | .mailbox fn off => if 64 ≤ fn then s else writeMailbox s fn off w
  | .readOnly _ => s
/-- MGMT_REGISTER_WRITE (R6). -/
def execMgmtRegisterWrite (x : MgmtArg) (s : State) : Out := .next (writeMgmt s x.reg x.value)

/-- The management address map that the capability bodies name (log 36): region in [35:32], index and word below. -/
def mgmtRegion (a : Nat) : Nat × Nat := (a / 2 ^ 32, a % 2 ^ 32)
/-- Write 32 bits at a management address (R357, R365). -/
def mgmtStore (s : State) (a : Nat) (v : Word) : State :=
  let (r, o) := mgmtRegion a
  match r with
  | 1 => let core := o / 512
         let i := o / 64 % 8
         if Config.cores ≤ core then s else writeCoreSlot s core i ((slotOfCore s core i).set (o / 4 % 16) v)
  | 2 => if Config.clusters ≤ o / 256 then s else writeBankOwner s (o / 256) (o / 4 % 64) v
  | 3 => let cl := o / 4096
         let i := o / 512 % 8
         if Config.clusters ≤ cl || 68 ≤ o / 4 % 128 then s else writeClusterSlot s cl i (((s.cluster cl).slots.getD i []).set (o / 4 % 128) v)
  | 4 => if 2 ^ 24 ≤ o / 4 then s else writeRot s (o / 4) (v.extractLsb' 0 16)
  | 5 => writeGate s (o / 32) (o / 4 % 8) v
  | 6 => if Config.queues ≤ o / 64 then s else writeMgmt s (.queueConfig (o / 64) (o / 4 % 16)) (v.setWidth 64)
  | 7 => writeTable s (o / 32) (o / 4 % 8) v
  | 8 => if Config.dies ≤ o / 4 then s else writeFirewall s (o / 4) v
  | 9 => let d := o / 512
         let i := o / 32 % 16
         if 64 ≤ d || 5 ≤ o / 4 % 8 then s else writeWindow s d i (o / 4 % 8 == 1) (((s.domain d).windows.getD i []).set (o / 4 % 8) v)
  | 10 =>
    let d := o / 1024
    let x := s.domain d
    match o / 4 % 256 with
    | 0 => writeMgmt s (.tableRoot d) (setHalf (BitVec.ofNat 64 x.root) false v)
    | 1 => writeMgmt s (.tableRoot d) (setHalf (BitVec.ofNat 64 x.root) true v)
    | 2 => writeMgmt s (.ownerWeight d) (v.setWidth 64)
    | 3 => writeMgmt s (.bar2Base d) (setHalf (BitVec.ofNat 64 x.bar2Base) false v)
    | 4 => writeMgmt s (.bar2Base d) (setHalf (BitVec.ofNat 64 x.bar2Base) true v)
    | 5 => writeMgmt s (.bar2Size d) (v.setWidth 64)
    | 6 => writeMgmt s (.bar2Admit d) (v.setWidth 64)
    | k => if 64 ≤ k && k < 128 then writeMgmt s (.bindQdb d (k - 64)) (v.setWidth 64) else s
  | 12 => if 2 ≤ o / 4 then s else s.modMgmt fun m => { m with emerg := setHalf m.emerg (o / 4 == 1) v }
  | 13 => if 64 ≤ o / 4 then s else discardLaunches s (o / 4)
  | _ => s
/-- The slot binding of a domain as it reads. -/
def qdbRead (s : State) (dom slot : Nat) : Word := match s.gov.queues.find? fun q => q.fn == dom && q.qdb == slot with
  | some q => BitVec.ofNat 32 (2 ^ 31 + q.id)
  | none => 0
/-- A core slot as it reads: STATE is 1 while teams of its domain are placed on the core and all of them are halted (R299). DESIGN CHOICE, log 46: R299 names the value and not when it holds. -/
def slotRead (s : State) (core i : Nat) : List Word :=
  let w := slotOfCore s core i
  let l := domTeams s core (slotDomain w)
  if slotValid w && slotState w == 0 && !l.isEmpty && l.all teamHalted then w.set 10 1 else w
/-- Read 32 bits at a management address; one that names no register reads zero (R357). -/
def mgmtLoad (s : State) (a : Nat) : Word :=
  let (r, o) := mgmtRegion a
  match r with
  | 1 => (slotRead s (o / 512) (o / 64 % 8)).getD (o / 4 % 16) 0
  | 2 => let b := (s.cluster (o / 256)).banks.getD (o / 4 % 64) Bank.reset
         BitVec.ofNat 32 (b.owner + 256 * match b.mode with
           | .plot => 0
           | .cache => 1
           | .fifo => 2)
  | 3 => ((s.cluster (o / 4096)).slots.getD (o / 512 % 8) []).getD (o / 4 % 128) 0
  | 4 => (rotEntry s (o / 4)).setWidth 32
  | 5 => (agetD s.mgmt.gates (o / 32) []).getD (o / 4 % 8) 0
  | 6 => match s.queue? (o / 64) with
    | some q => queueRead (o / 4 % 16) q
    | none => 0
  | 7 => match s.gov.table.find? fun e => e.id == o / 32 with
    | some e => e.words.getD (o / 4 % 8) 0
    | none => 0
  | 8 => (s.die (o / 4)).firewall
  | 9 => ((s.domain (o / 512)).windows.getD (o / 32 % 16) []).getD (o / 4 % 8) 0
  | 10 =>
    let d := o / 1024
    let x := s.domain d
    match o / 4 % 256 with
    | 0 => BitVec.ofNat 32 x.root
    | 1 => BitVec.ofNat 32 (x.root / 2 ^ 32)
    | 2 => BitVec.ofNat 32 (ownerWeight s d)
    | 3 => BitVec.ofNat 32 x.bar2Base
    | 4 => BitVec.ofNat 32 (x.bar2Base / 2 ^ 32)
    | 5 => BitVec.ofNat 32 x.bar2Size
    | k => if 64 ≤ k && k < 128 then qdbRead s d (k - 64) else 0
  | 11 => BitVec.ofNat 32 (s.die (o / 4)).droops
  | 12 => if o / 4 = 0 then s.mgmt.emerg.extractLsb' 0 32 else if o / 4 = 1 then s.mgmt.emerg.extractLsb' 32 32 else 0
  | _ => 0

/-! ## What a read of BAR0 returns -/

/-- The device identity record (R365, R369). -/
def identityRecord (s : State) : List Byte :=
  natBytes 4 8512 ++ (List.range 20).map Config.identityByte ++ natBytes 4 s.mgmt.coldResets
/-- The energy table version (R321, R367). -/
def energyVersion : List Byte := (List.range 4).map fun i => Config.identityByte (64 + i)
/-- Management addresses of regions, 8 bytes each. -/
def regionBytes (l : List Nat) : List Byte := l.flatMap fun r => natBytes 8 (r * 2 ^ 32)
/-- The bodies of the capability list by ID (R365): identity, figures of R1, then the management addresses of the core slots, cluster slots and bank owners, of the ROT, gate table and emergency region, of the queues and the time-triggered table, of the firewall and the windows, and the energy table version with the address of the droop meters. -/
def capBodies (s : State) : List (Nat × List Byte) :=
  [ (1, identityRecord s), (2, [Config.dies, Config.cores, Config.swidth, Config.queues, 64].flatMap (natBytes 4)), (3, regionBytes [1, 3, 2]),
    (4, regionBytes [4, 5, 12]), (5, regionBytes [6, 7]), (6, regionBytes [8, 9]), (7, energyVersion ++ natBytes 4 0 ++ regionBytes [11]) ]
/-- The list from an offset on: each header with the offset of the next, 0 in the last, and the body filled to whole units of 16 bytes (R365). -/
def capChain : Nat → List (Nat × List Byte) → List Byte
  | _, [] => []
  | at_, (id, body) :: r =>
    let len := (body.length + 15) / 16
    let next := if r.isEmpty then 0 else at_ + 16 + 16 * len
    natBytes 2 id ++ natBytes 2 next ++ [1, BitVec.ofNat 8 len] ++ List.replicate 10 0 ++ body ++ List.replicate (16 * len - body.length) 0 ++ capChain next r
/-- The bytes of the capability list, valid once the device is ready (R365, R366). -/
def capList (s : State) : List Byte := if s.mgmt.ready then capChain 0 (capBodies s) else []
/-- The consumer index that QHDq shows: that of the launch queue bound to the slot, zero for an unbound slot (R356). -/
def qhdRead (s : State) (fn slot : Nat) : Word := match s.gov.queues.find? fun q => q.fn == fn && q.qdb == slot with
  | some q => BitVec.ofNat 32 q.hostHead
  | none => 0
/-- What a 32-bit read of a function's BAR0 returns (R5, R356, R365): the mailbox registers, zero for the write-only QDBq, QHDq, in the PF the capability list, zero everywhere else. -/
def bar0Read (s : State) (fn off : Nat) : Word :=
  let b := s.mailbox fn
  if off = 0x0 then b.ringLo else if off = 0x4 then b.ringHi else if off = 0x8 then b.ctl else if off = 0xC then b.prod
  else if off = 0x10 then b.cons else if off = 0x14 then b.err
  else if 0x1000 ≤ off && off < 0x1200 then (if off % 8 = 4 then qhdRead s fn ((off - 0x1000) / 8) else 0)
  else if fn = 0 && 0x8000 ≤ off && off < 0x10000 then BitVec.ofNat 32 (bytesNat (((capList s).drop (off - 0x8000)).take 4))
  else 0

/-! ## Mailbox commands -/

/-- A field of n bytes at an offset of a ring entry, least significant byte first (R4). -/
def entryField (bs : List Byte) (o n : Nat) : Nat := bytesNat ((bs.drop o).take n)
/-- The command of a ring entry (R357): OP, FLAGS, LEN, HADDR, DADDR and AUX at their places, and whether bytes 36 to 63 are zero. -/
def cmdOf (e : MbEntry) : HostCmd :=
  { op := BitVec.ofNat 16 (entryField e.bytes 0 2), flags := BitVec.ofNat 16 (entryField e.bytes 2 2), len := BitVec.ofNat 32 (entryField e.bytes 4 4),
    haddr := BitVec.ofNat 64 (entryField e.bytes 8 8), daddr := BitVec.ofNat 64 (entryField e.bytes 16 8), aux := BitVec.ofNat 64 (entryField e.bytes 24 8),
    zeroOk := ((e.bytes.drop 36).take 28).all (· == 0), hostBytes := e.hostBytes }
/-- MBPROD_WRITE (R356): the producer index, with the entries of 64 bytes that it publishes. -/
def execMbprodWrite (x : MbprodArg) (s : State) : Out :=
  if 64 ≤ x.fn then .fault .noSuchUnit
  else
    let b := s.mailbox x.fn
    let n := mbSize b
    let prod := x.value.toNat % n
    if !(Instr.mbprodWrite x).wf || x.entries.length != (prod + n - b.prod.toNat % n) % n then .next s
    else .next (s.putMailbox { b with prod := BitVec.ofNat 32 prod, pending := b.pending ++ x.entries.map cmdOf })
/-- Bytes written to the host go out in requests of at most 512 bytes, none across a multiple of 512 (R354, R355). -/
def hostWrite (s : State) (fn a : Nat) (bs : List Byte) : State :=
  (unitsOf 512 a bs.length).foldl (fun s u =>
    let lo := max a (512 * u)
    s.send ⟨fn, 1, lo, (bs.drop (lo - a)).take (min (a + bs.length) (512 * u + 512) - lo)⟩) s
/-- Bytes read from the host are asked for in requests of at most 4,096 bytes (R354, R355). -/
def hostAsk (s : State) (fn a n : Nat) : State :=
  (unitsOf 4096 a n).foldl (fun s u =>
    let lo := max a (4096 * u)
    s.send ⟨fn, 11, lo, natBytes 4 (min (a + n) (4096 * u + 4096) - lo)⟩) s
/-- Where the next entry of a function's command ring lies in the host (R356). -/
def ringEntryAt (b : Mailbox) : Nat := (b.ringHi ++ b.ringLo).toNat + 64 * b.cons.toNat
/-- A QDB register's write takes effect: the tail of the queue bound to the slot; an unbound slot ignores it (R356). -/
def ringDoor (s : State) (fn : Nat) (d : Nat × Nat × Nat) : State := match s.gov.queues.find? fun q => q.fn == fn && q.qdb == d.1 && decide (d.1 < 64) with
  | some q => s.putQueue { q with hostTail := d.2.1 % max 1 q.cap }
  | none => s
/-- The QDB writes of a function that wait for no more commands take effect, in order (R359). -/
def openDoors (s : State) (fn : Nat) : State :=
  let b := s.mailbox fn
  (b.doors.filter fun d => d.2.2 == 0).foldl (fun s d => ringDoor s fn d) (s.putMailbox { b with doors := b.doors.filter fun d => d.2.2 != 0 })
/-- The command completes (R358, R359): STATUS into the ring entry, the consumer index, the MSI-X message; then the QDB writes that waited for it. -/
def finishCmd (s : State) (fn : Nat) (c : HostCmd) (status : Nat) : State :=
  let b := s.mailbox fn
  let s := s.send ⟨fn, 1, ringEntryAt b + 32, natBytes 4 status⟩
  let s := s.putMailbox { b with cons := BitVec.ofNat 32 ((b.cons.toNat + 1) % mbSize b), err := if status = 0 then b.err else b.cons,
                                 pending := b.pending.drop 1, doors := b.doors.map fun d => (d.1, d.2.1, d.2.2 - 1) }
  openDoors (if c.flags.getLsbD 0 then s.send ⟨fn, 5, (c.flags.extractLsb' 8 8).toNat, []⟩ else s) fn
/-- Status of a failed access (R357). -/
def accessStatus (code : Nat) : Nat := if code = 0x08 then 2 else if code = 0x09 then 3 else 4
/-- The operations of a mailbox (R357). -/
def knownOps : List (BitVec 16) := [1, 2, 3, 4, 5, 6, 0x40, 0x41]
/-- A malformed command (R357): the byte count counts where it is used. -/
def cmdBad (c : HostCmd) : Bool :=
  let vec := (c.flags.extractLsb' 8 8).toNat
  let n := c.len.toNat
  [ !knownOps.contains c.op, c.flags.extractLsb' 1 7 != 0, decide (63 < vec), !c.flags.getLsbD 0 && vec != 0, !c.zeroOk, c.haddr.toNat % 4 != 0,
    c.daddr.toNat % 4 != 0, (c.op == 1 || c.op == 2 || c.op == 3) && (n == 0 || n % 4 != 0 || decide (2 ^ 24 < n)),
    c.op == 5 && (n != 1408 || c.aux.toNat % 4 != 0) ].any id
/-- Host bytes of a command, free values where fewer are given than it reads. -/
def hostBytesOf (s : State) (c : HostCmd) (n : Nat) : List Byte :=
  c.hostBytes.take n ++ (List.range (n - c.hostBytes.length)).map fun i => (s.draw i).extractLsb' 0 8
/-- Write device memory for a command (R357): the state and the status. -/
def cmdWrite (s : State) (fn : Nat) (a : DWord) (bs : List Byte) : State × Nat :=
  let r := devWrite s fn (domTranslate s fn true .write) a.toNat bs fun _ _ => false
  (r.1, match r.2 with
    | some e => accessStatus e.1
    | none => 0)
/-- A domain's meters as bytes (R320). -/
def meterBytes (s : State) (dom : Nat) : List Byte := (List.range 7).flatMap fun i => natBytes 8 ((s.domain dom).meters.getD i 0)
/-- The first 128 bytes of a report (R321). -/
def reportBody (s : State) (dom : Nat) (nonce : List Byte) : List Byte :=
  natBytes 4 1 ++ natBytes 4 dom ++ natBytes 8 s.mgmt.foldNs ++ nonce ++ meterBytes s dom ++ natBytes 4 s.mgmt.coldResets ++ energyVersion
    ++ List.replicate 16 0
/-- A signature over bytes, 1,280 bytes long (R321). -/
def signatureOf (bs : List Byte) : List Byte := (List.range 1280).map (Config.signByte bs)
/-- Teams of a domain halted by HALT, BKPT or its driver run again (R133); where their slot does not run they wait for it. -/
def resumeDebug (s : State) (dom : Nat) : State :=
  let back := fun (t : Team) => match s.plot? t.place.plot with
    | some p => if p.st == .saved || p.st == .saving then Status.haltSave else .haltSlice
    | none => .haltSlice
  let hit := s.teams.filter fun t => t.stamp.home == dom && t.sched.status == .haltDebug
  let s := hit.foldl (fun s t => s.putTeam { t with sched := { t.sched with status := back t } }) s
  ((hit.map fun t => t.place.core).eraseDups).foldl resumeCore s
/-- The effect of a well-formed command and its status (R357). -/
def cmdEffect (s : State) (fn : Nat) (c : HostCmd) : State × Nat :=
  let n := c.len.toNat
  match c.op.toNat with
  | 1 => cmdWrite (hostAsk s fn c.haddr.toNat n) fn c.daddr (hostBytesOf s c n)
  | 2 =>
    let tr := domTranslate s fn true .read
    let bad := firstFail tr c.daddr.toNat n
    let len := match bad with
      | some e => e.2
      | none => n
    let bs := match readVa s tr c.daddr.toNat len with
      | .ok b => b.1
      | .error _ => []
    (hostWrite (readsVa (devWalks s fn c.daddr.toNat n) fn tr c.daddr.toNat len) fn c.haddr.toNat bs, match bad with
      | some e => accessStatus e.1
      | none => 0)
  | 3 => cmdWrite s fn c.daddr ((List.range (n / 4)).flatMap fun _ => natBytes 4 (c.aux.toNat % 2 ^ 32))
  | 4 => (hostWrite s fn c.haddr.toNat (meterBytes s fn), 0)
  | 5 => let b := reportBody s fn (hostBytesOf s c 32)
         (hostWrite (hostAsk s fn c.haddr.toNat 32) fn c.aux.toNat (b ++ signatureOf b), 0)
  | 6 => (resumeDebug s fn, 0)
  | 0x40 => if fn = 0 then (mgmtStore s c.daddr.toNat (c.aux.extractLsb' 0 32), 0) else (s, 5)
  | _ => if fn = 0 then (hostWrite s fn c.haddr.toNat (natBytes 4 (mgmtLoad s c.daddr.toNat).toNat), 0) else (s, 5)
/-- Free values that a command may use. -/
def cmdDraws : Nat := 2 ^ 25
/-- Apply the command at the head of a function's ring (R356, R358): the engine reads the entry, then acts. -/
def applyCmd (s : State) (fn : Nat) (c : HostCmd) : State :=
  let s := hostAsk s fn (ringEntryAt (s.mailbox fn)) 64
  if cmdBad c then finishCmd s fn c 1
  else
    let r := cmdEffect s fn c
    (finishCmd r.1 fn c r.2).drawn cmdDraws
/-- The command that the engine takes next from a function's ring. -/
def headCmd (s : State) (fn : Nat) : Option HostCmd := if mbOn (s.mailbox fn) then (s.mailbox fn).pending.head? else none
/-- The function whose turn it is (R368): the PF, then the VFs in ascending order, one command of each in a round; the first with a command after the one served last. -/
def mailboxTurn (s : State) : Option Nat :=
  ((List.range 64).map fun k => (s.mgmt.mbTurn + 1 + k) % 64).find? fun fn => (headCmd s fn).isSome
/-- The command at the head of the ring of the function whose turn it is, is applied when its operation is the one given; an unknown operation counts as WRITE. -/
def runCmd (op : BitVec 16) (fn : Nat) (s : State) : Out :=
  match headCmd s fn with
  | none => .next s
  | some c =>
    if mailboxTurn s == some fn && (c.op == op || (op == 1 && !knownOps.contains c.op))
    then .next (applyCmd (s.modMgmt fun m => { m with mbTurn := fn }) fn c) else .next s
/-- WRITE (R357, R358). -/
def execWrite (x : FnArg) (s : State) : Out := runCmd 1 x.fn s
/-- READ (R357, R358). -/
def execRead (x : FnArg) (s : State) : Out := runCmd 2 x.fn s
/-- FILL (R357, R358). -/
def execFill (x : FnArg) (s : State) : Out := runCmd 3 x.fn s
/-- METERS (R320, R357). -/
def execMeters (x : FnArg) (s : State) : Out := runCmd 4 x.fn s
/-- REPORT (R321, R357). -/
def execReport (x : FnArg) (s : State) : Out := runCmd 5 x.fn s
/-- RESUME (R133, R357). -/
def execResume (x : FnArg) (s : State) : Out := runCmd 6 x.fn s
/-- MGMTWR (R357): the physical function only. -/
def execMgmtwr (x : FnArg) (s : State) : Out := runCmd 0x40 x.fn s
/-- MGMTRD (R357): the physical function only. -/
def execMgmtrd (x : FnArg) (s : State) : Out := runCmd 0x41 x.fn s
/-- QDB_WRITE (R356, R359): it takes effect after every command published before it has been applied. -/
def execQdbWrite (x : QdbArg) (s : State) : Out :=
  let b := s.mailbox x.fn
  .next (openDoors (s.putMailbox { b with doors := b.doors ++ [(x.q, x.value.toNat, b.pending.length)] }) x.fn)

/-! ## Peers and links -/

/-- A request of a peer or a drive that fails (R362). -/
def unsupported (s : State) (fn : Nat) (addr : Nat) : State := s.send ⟨fn, 7, addr, []⟩
/-- Bytes read for a peer go back in completions of at most 512 bytes, none across a multiple of 512 (R354). -/
def completions (s : State) (fn off a : Nat) (bs : List Byte) : State :=
  (unitsOf 512 a bs.length).foldl (fun s u =>
    let lo := max a (512 * u)
    s.send ⟨fn, 6, off + (lo - a), (bs.drop (lo - a)).take (min (a + bs.length) (512 * u + 512) - lo)⟩) s
/-- An inbound request passes the sizes that the link supports (R354). DESIGN CHOICE, log 100: one that does not is a failing request of R362. -/
def inboundTooLong (x : Bar2Arg) : Bool := if x.write then decide (512 < x.data.length) else decide (4096 < x.len)
/-- BAR2_INBOUND (R354, R362, R370). -/
def execBar2Inbound (x : Bar2Arg) (s : State) : Out :=
  let d := s.domain x.fn
  let n := if x.write then x.data.length else x.len
  let a := d.bar2Base + x.offset
  let tr := domTranslate s x.fn true (if x.write then .write else .read)
  if 64 ≤ x.fn then .fault .noSuchUnit
  else if inboundTooLong x || !d.bar2Admit.contains x.requester || decide (d.bar2Size < x.offset + n) || (firstFail tr a n).isSome then .next (unsupported s x.fn x.offset)
  else if x.write then .next (devWrite s x.fn tr a x.data fun _ _ => false).1
  else .next (match readVa s tr a n with
    | .ok b => (completions (devReads s x.fn tr a n) x.fn x.offset a b.1).drawn (2 ^ 16)
    | .error _ => unsupported s x.fn x.offset)
/-- The running copy at the head of a channel writes to a peer (R363). -/
def remoteCopy (s : State) (core ch : Nat) : Option (Copy × Nat) :=
  match headCopy s core ch with
  | some c =>
    if c.st == .running && c.toGlobal && decide (c.next < c.total) then match globalDest s core c c.next with
      | .got (some a) => match translate s (c.agent core) .write a 2 with
        | .ok (pa, _) => if toPeer s c.dom pa then some (c, a) else none
        | .error _ => none
      | _ => none
    else none
  | none => none
/-- Remote copies of a core that had writes in flight to a lost port freeze; which did is open (R363). -/
def freezeRemote (s : State) (core : Nat) : State :=
  (List.range 16).foldl (fun s ch => match remoteCopy s core ch with
    | some (c, a) => (if (s.draw 0).getLsbD 0 then freezeCopy s core ch c 4 a else s).drawn 1
    | none => s) s
/-- Puts of the teams of a die's estate that a lost port carried end with status 5; which did is open while another port is up (R292, R363, R364). -/
def failPuts (s : State) (die : Nat) : State :=
  let here := fun (o : QOp) => (s.team? o.tid).any fun t => sameEstate s die (dieOf t.place.core)
  (s.gov.sent.filter here).foldl (fun s o =>
    (if !linkUp s die || (s.draw 0).getLsbD 0 then qopDone (s.modGov fun g => { g with sent := g.sent.filter fun p => p.op != o.op }) o 5 else s).drawn 1) s
/-- LINK_FAILURE (R363): a port has not delivered for 1 ms; what was in flight to it is lost, when it carries traffic (R364). -/
def execLinkFailure (x : PortArg) (s : State) : Out :=
  if Config.dies ≤ x.die || 3 ≤ x.port then .fault .noSuchUnit
  else
    let s := s.modDie x.die fun d => { d with portUp := d.portUp.set x.port false }
    if !(s.die x.die).firewall.getLsbD x.port then .next s else
    .next (failPuts ((List.range Config.cores).foldl (fun s c => if sameEstate s x.die (dieOf c) then freezeRemote s c else s) s) x.die)
/-- LINK_RECOVERY (R363). -/
def execLinkRecovery (x : PortArg) (s : State) : Out :=
  if Config.dies ≤ x.die || 3 ≤ x.port then .fault .noSuchUnit else .next (s.modDie x.die fun d => { d with portUp := d.portUp.set x.port true })
/-- REMOTE_COPY_WRITE (R302, R363, R364): a peer's write arrives over an open port, with the bit of the team that issued the copy; one that fails a check, or comes in over a port of another estate than the domain's, changes nothing. -/
def execRemoteCopyWrite (x : RemoteArg) (s : State) : Out :=
  let tr := domTranslate s x.domain x.priv .write
  if Config.dies ≤ x.die || 3 ≤ x.port then .fault .noSuchUnit
  else if !portOpen s x.die x.port then .next s
  else if !sameEstate s x.die (domainDie s x.domain) || (firstFail tr x.va.toNat x.data.length).isSome then .next (unsupported s x.domain x.va.toNat)
  else .next (devWrite s x.domain tr x.va.toNat x.data fun _ _ => false).1
/-- PRECISION_TIME_MEASUREMENT (R131): the launch clock is slewed toward the host's time. -/
def execPrecisionTimeMeasurement (x : PtmArg) (s : State) : Out := .next { s with clock := { s.clock with slew := (x.hostNs : Int) - (s.clock.ns : Int) } }
/-- HALT_REQUEST (R195): a domain's driver halts its teams; handlers and gates go on to their end. -/
def execHaltRequest (x : DomainArg) (s : State) : Out :=
  .next ((s.teams.filter fun t => t.stamp.home == x.domain).foldl (fun s t => match s.team? t.tid with
    | some t => askHalt s t .haltDebug false
    | none => s) s)

/-! ## Reset -/

/-- COLD_RESET (R366): bring-up, or held at its first step when the firmware's signature fails. -/
def execColdReset (x : BootArg) (s : State) : Out :=
  let m := { Manage.reset with coldResets := s.mgmt.coldResets + 1, boot := if x.signatureOk then 5 else 1, ready := x.signatureOk }
  let s' := { State.reset with mgmt := m, agenda := s.agenda, free := s.free, uid := s.uid, log := s.log }
  .next (if x.signatureOk then s'.send ⟨0, 9, 0, []⟩ else s')
/-- The copies of a domain are cancelled in saved beds too (R366). -/
def cancelParked (s : State) (dom : Nat) : State :=
  let cut := fun (ch : Channel) => { ch with q := ch.q.map fun k => if k.dom == dom then cancelCopy 1 k else k }
  s.modGov fun g => { g with plots := g.plots.map fun p => { p with beds := p.beds.map fun b => { b with parked := b.parked.map fun k => (k.1, cut k.2) } } }
/-- QDB and QHD of a function are cleared (R366). -/
def clearDoors (s : State) (fn : Nat) : State :=
  s.modGov fun g => { g with queues := g.queues.map fun q => if q.fn == fn && q.qdb < 64 then { q with hostTail := 0, hostHead := 0 } else q }
/-- FUNCTION_LEVEL_RESET of VF n (R366): the domain's copies are cancelled, its teams stopped and evicted as by a recall, its mailbox registers cleared. -/
def execFunctionLevelReset (x : FnArg) (s : State) : Out :=
  if x.fn = 0 || 64 ≤ x.fn then .next s
  else
    let cores := ((s.teams.filter fun t => t.stamp.home == x.fn).map fun t => t.place.core).eraseDups
    let s := (List.range Config.cores).foldl (fun s c =>
      if (s.core c).chans.any (fun ch => ch.q.any fun k => k.dom == x.fn) then mapCopies s c fun k => if k.dom == x.fn then cancelCopy 1 k else k else s) (cancelParked s x.fn)
    let s := cores.foldl (fun s c =>
      let s := abortGates s c x.fn
      let ids := (domTeams s c x.fn).map (·.tid)
      evictTeams (haltTeams s ids) c ids) s
    let b := s.mailbox x.fn
    .next ((clearDoors s x.fn).putMailbox { b with ringLo := 0, ringHi := 0, ctl := 0, prod := 0, cons := 0, err := 0, pending := [], doors := [] })
/-- CONFIGURATION_REQUEST (R366): Request Retry Status until the device is ready, then an answer whose contents the spec leaves open. -/
def execConfigurationRequest (x : ConfigArg) (s : State) : Out :=
  if s.mgmt.ready then .next ((s.send ⟨x.fn, 6, x.offset, natBytes 4 (s.draw 0).toNat⟩).drawn 1) else .next (s.send ⟨x.fn, 8, x.offset, []⟩)

/-! ## Attestation -/

/-- The domain's core and cluster slots with their numbers, without the words that the device itself changes, aperture windows and BAR2 range (R369). -/
def domainSettings (s : State) (dom : Nat) : List Byte :=
  let d := s.domain dom
  let num := fun (unit slot : Nat) => natBytes 2 unit ++ natBytes 2 slot
  (s.cores.zipIdx.flatMap fun c => (c.1.slots.zipIdx.filter fun w => slotDomain w.1 == dom && slotValid w.1).flatMap fun w => num c.2 w.2 ++ wordsBytes ((w.1.set 9 0).set 10 0))
    ++ (s.clusters.zipIdx.flatMap fun c => (c.1.slots.zipIdx.filter fun w => cslotDomain w.1 == dom && (w.1.getD 0 0).getLsbD 31).flatMap fun w => num c.2 w.2 ++ wordsBytes w.1)
    ++ d.windows.flatMap wordsBytes ++ natBytes 8 d.bar2Base ++ natBytes 8 d.bar2Size
/-- A measurement of a function (R369), none for an index that it does not have. -/
def measurement (s : State) (fn i : Nat) : Option (List Byte) :=
  match i with
  | 1 => some ((List.range 64).map fun k => Config.identityByte (128 + k))
  | 2 => some (identityRecord s)
  | 3 => some ((s.dies.flatMap fun d => natBytes 4 d.firewall.toNat) ++ natBytes 4 ((s.die (domainDie s fn)).firewall.extractLsb' 16 3).toNat)
  | 4 => some (domainSettings s fn)
  | 5 => some energyVersion
  | _ => none
/-- GET_MEASUREMENTS (R369): the measurement as the settings stand now, signed. -/
def execGetMeasurements (x : MeasArg) (s : State) : Out :=
  match measurement s x.fn x.index with
  | some m => if (s.mailbox x.fn).negotiated then .next (s.send ⟨x.fn, 10, x.index, m ++ x.nonce ++ signatureOf (m ++ x.nonce)⟩) else .next (s.send ⟨x.fn, 10, 0, []⟩)
  | none => .next (s.send ⟨x.fn, 10, 0, []⟩)
/-- ALGORITHM_NEGOTIATION (R369): Falcon-1024 and SHAKE256. -/
def execAlgorithmNegotiation (x : AlgArg) (s : State) : Out :=
  let b := s.mailbox x.fn
  .next ((s.putMailbox { b with negotiated := x.falcon && x.shake }).send ⟨x.fn, 10, 0, [if x.falcon && x.shake then 1 else 0]⟩)
/-- KEY_EXCHANGE (R354, R369): sets up the function's selective IDE stream once the algorithms are agreed. DESIGN CHOICE, log 76: that of the PF sets up link IDE with it, which R354 lists and no rule says how to set up. -/
def execKeyExchange (x : FnArg) (s : State) : Out :=
  let b := s.mailbox x.fn
  if b.negotiated then .next (((s.putMailbox { b with ide := true }).modMgmt fun m => { m with linkIde := m.linkIde || x.fn == 0 }).send ⟨x.fn, 10, 0, [1]⟩) else .next (s.send ⟨x.fn, 10, 0, []⟩)

end Sys2Proof.Machine
end

