-- ==== Sys2Proof/Machine/Paired.lean ====
section
/-! DEFINITION. The paired word (R48-R51): two halves under one active mask, each with its own predicate; for each element both halves read before either writes. -/

namespace Sys2Proof.Machine

/-- What a half's SOP does (R49). A half of VMAD or FMA reads its third operand from D, which Half.form places in C. -/
def halfOp (sop : BitVec 6) (f : VForm) (t : Team) : VOp :=
  match sop.toNat with
  | 0x00 => opVadd f t
  | 0x01 => opVsub f t
  | 0x02 => opVmul f t
  | 0x03 => opVmulh f t
  | 0x04 => opVmad f t
  | 0x05 => opVmin f t
  | 0x06 => opVmax f t
  | 0x07 => opVand f t
  | 0x08 => opVor f t
  | 0x09 => opVxor f t
  | 0x0A => opVandn f t
  | 0x0B => opVshl f t
  | 0x0C => opVshr f t
  | 0x0D => opVsra f t
  | 0x0E => opVrot f t
  | 0x0F => opVclz f t
  | 0x10 => opVpop f t
  | 0x11 => opVbrev f t
  | 0x12 => opVbfx f t
  | 0x15 => opVmov f t
  | 0x20 => opFadd f t
  | 0x21 => opFsub f t
  | 0x22 => opFmul f t
  | 0x23 => opFma f t
  | 0x24 => opFmin f t
  | 0x25 => opFmax f t
  | 0x28 => opApprox .rcp f t
  | 0x29 => opApprox .rsq f t
  | 0x2C => opApprox .ex2 f t
  | 0x2D => opApprox .lg2 f t
  | 0x2E => opApprox .sin f t
  | 0x2F => opApprox .cos f t
  | 0x30 => opApprox .tnh f t
  | 0x31 => opFrnd f t
  | 0x32 => opCvt f t
  | _ => opFscl f t
/-- A CVT half needs FMT.result FP32 or INT32 (R49). -/
def halfCvtOk (h : Half) (t : Team) : Bool := h.sop != 0x32 || fmtR t == 0 || fmtR t == 9
/-- The operands of one half (R42, R50). -/
def halfOk (h : Half) (t : Team) : Bool := vOperandsOk (halfOp h.sop h.form t).uses false h.form t && halfCvtOk h t
/-- The operands of a paired word. -/
def pairOk (f : PairForm) (t : Team) : Bool := halfOk f.h0 t && halfOk f.h1 t
/-- The larger STL of the halves (R52). -/
def pairStl (f : PairForm) : BitVec 4 := if f.h0.stl.toNat < f.h1.stl.toNat then f.h1.stl else f.h0.stl
/-- A fault of a paired word, HALF set when only half 1 raised it (R190). -/
def raiseHalf (s : State) (t : Team) (code : Nat) (zero : Bool) : Out := raiseAt s t ⟨code, false, 0, t.flow.mask, none, !zero⟩

/-- One element of a half is written on the rows that its predicate lets take part. -/
def halfWrite (s : State) (p : VPlan) (t0 : Team) (h : Half) (fn : ElemFn) (src : ElemSrc) (e : Nat) (t : Team) : Team :=
  writeCol t ((fieldRegs h.form h.d).getD e 0) (t0.part h.form.prd) (elemResult s p h.form fn src e)
/-- Element after element, half 0 writes and then half 1; both have read before (R51). -/
def pairWrites (s : State) (p : VPlan) (t0 : Team) (f : PairForm) (g0 g1 : ElemFn) (srcs : List (ElemSrc × ElemSrc)) : Team :=
  srcs.zipIdx.foldl (fun t x => halfWrite (s.drawn (2 ^ 27)) p t0 f.h1 g1 x.1.2 x.2 (halfWrite s p t0 f.h0 g0 x.1.1 x.2 t)) p.team
/-- The body of a paired word (R51). -/
def pairBody (f : PairForm) (s : State) (t : Team) : Out :=
  let o0 := halfOp f.h0.sop f.h0.form t
  let o1 := halfOp f.h1.sop f.h1.form t
  let s0 := elemSrcs f.h0.form o0.uses false o0.readsD
  let s1 := elemSrcs f.h1.form o1.uses false o1.readsD
  let p := planOf t ((s0.zip s1).map fun x => x.1.regs ++ x.2.regs) false (narrows t o0.width || narrows t o1.width)
  let e0 := p.early (s0.map ElemSrc.regs)
  let e1 := p.early (s1.map ElemSrc.regs)
  if (e0 || e1) && t.schk.getLsbD 0 then raiseHalf s t 0x05 e0 else
  match o0.fn, o1.fn with
  | some g0, some g1 =>
    let t2 := landed (landed (pairWrites s p t f g0 g1 (s0.zip s1)) p (fieldRegs f.h0.form f.h0.d) o0.lat o0.fixed) p (fieldRegs f.h1.form f.h1.d) o1.lat o1.fixed
    vFinish s t2 (pairStl f) p
  | none, _ => raiseHalf s t 0x02 true
  | some _, none => raiseHalf s t 0x02 false
/-- A paired word (R48-R51): no predicate of its halves suppresses it, and none can be sealed (R48, R307). -/
def execPairedWord (f : PairForm) (s : State) : Out :=
  issueWith (.pairedWord f) s (pairStl f) (pairOk f) (fun _ => false) ((checkHalf f.h0).isNone && (checkHalf f.h1).isSome)
    (fun t => halfOk f.h0 t && !halfOk f.h1 t) (pairBody f)

end Sys2Proof.Machine
end

