-- ==== Sys2Proof/Machine/Sched.lean ====
section
/-! DEFINITION. Scheduling: readiness and the selection of a quadrant (R79-R82, R112), fetching a line (R35), the end of waits (R79, R118, R123, R178, R186, R187, R212), the retirement of operations (R20) and the delivery of asynchronous faults (R189, R190). -/

namespace Sys2Proof.Machine

/-! ## Waits -/

/-- The meaning of a team instruction, by which its team is tried before it is selected (R79); none for an event. -/
def teamMeaning (i : Instr) : Option (State → Out) :=
  match i with
  | .vadd f => some (execVadd f)
  | .vsub f => some (execVsub f)
  | .vmul f => some (execVmul f)
  | .vmulh f => some (execVmulh f)
  | .vmad f => some (execVmad f)
  | .vmin f => some (execVmin f)
  | .vmax f => some (execVmax f)
  | .vand f => some (execVand f)
  | .vor f => some (execVor f)
  | .vxor f => some (execVxor f)
  | .vandn f => some (execVandn f)
  | .vshl f => some (execVshl f)
  | .vshr f => some (execVshr f)
  | .vsra f => some (execVsra f)
  | .vrot f => some (execVrot f)
  | .vclz f => some (execVclz f)
  | .vpop f => some (execVpop f)
  | .vbrev f => some (execVbrev f)
  | .vbfx f => some (execVbfx f)
  | .vbfi f => some (execVbfi f)
  | .vsel f => some (execVsel f)
  | .vmov f => some (execVmov f)
  | .vcmp f => some (execVcmp f)
  | .vlop3 f => some (execVlop3 f)
  | .vidx f => some (execVidx f)
  | .vdot4 f => some (execVdot4 f)
  | .fadd f => some (execFadd f)
  | .fsub f => some (execFsub f)
  | .fmul f => some (execFmul f)
  | .fma f => some (execFma f)
  | .fmin f => some (execFmin f)
  | .fmax f => some (execFmax f)
  | .fcmp f => some (execFcmp f)
  | .fclass f => some (execFclass f)
  | .frcp f => some (execFrcp f)
  | .frsq f => some (execFrsq f)
  | .fsqrt f => some (execFsqrt f)
  | .fdiv f => some (execFdiv f)
  | .fex2 f => some (execFex2 f)
  | .flg2 f => some (execFlg2 f)
  | .fsin f => some (execFsin f)
  | .fcos f => some (execFcos f)
  | .ftnh f => some (execFtnh f)
  | .frnd f => some (execFrnd f)
  | .cvt f => some (execCvt f)
  | .fscl f => some (execFscl f)
  | .fdot2 f => some (execFdot2 f)
  | .qblk f => some (execQblk f)
  | .dqblk f => some (execDqblk f)
  | .shfl f => some (execShfl f)
  | .vstep f => some (execVstep f)
  | .ballot f => some (execBallot f)
  | .vote f => some (execVote f)
  | .matchRows f => some (execMatchRows f)
  | .pfx f => some (execPfx f)
  | .spack f => some (execSpack f)
  | .spexp f => some (execSpexp f)
  | .vsort f => some (execVsort f)
  | .bsrch f => some (execBsrch f)
  | .pairedWord f => some (execPairedWord f)
  | .sadd f => some (execSadd f)
  | .ssub f => some (execSsub f)
  | .smul f => some (execSmul f)
  | .smulh f => some (execSmulh f)
  | .smad f => some (execSmad f)
  | .sdiv f => some (execSdiv f)
  | .srem f => some (execSrem f)
  | .sand f => some (execSand f)
  | .sor f => some (execSor f)
  | .sxor f => some (execSxor f)
  | .sshl f => some (execSshl f)
  | .sshr f => some (execSshr f)
  | .ssra f => some (execSsra f)
  | .smin f => some (execSmin f)
  | .smax f => some (execSmax f)
  | .sclz f => some (execSclz f)
  | .spop f => some (execSpop f)
  | .sbfx f => some (execSbfx f)
  | .sbfi f => some (execSbfi f)
  | .ssel f => some (execSsel f)
  | .smov f => some (execSmov f)
  | .scmp f => some (execScmp f)
  | .saddx f => some (execSaddx f)
  | .smadx f => some (execSmadx f)
  | .srdv f => some (execSrdv f)
  | .swrv f => some (execSwrv f)
  | .sfadd f => some (execSfadd f)
  | .sfma f => some (execSfma f)
  | .sfcmp f => some (execSfcmp f)
  | .scvt f => some (execScvt f)
  | .ld f => some (execLd f)
  | .st f => some (execSt f)
  | .lds f => some (execLds f)
  | .sts f => some (execSts f)
  | .ldp f => some (execLdp f)
  | .stp f => some (execStp f)
  | .ldc f => some (execLdc f)
  | .atom f => some (execAtom f)
  | .cas f => some (execCas f)
  | .atomagg f => some (execAtomagg f)
  | .ldf f => some (execLdf f)
  | .stf f => some (execStf f)
  | .pref f => some (execPref f)
  | .marm f => some (execMarm f)
  | .mwait f => some (execMwait f)
  | .cline f => some (execCline f)
  | .bra f => some (execBra f)
  | .brc f => some (execBrc f)
  | .brd f => some (execBrd f)
  | .rcv f => some (execRcv f)
  | .loop f => some (execLoop f)
  | .call f => some (execCall f)
  | .ret f => some (execRet f)
  | .calli f => some (execCalli f)
  | .exit f => some (execExit f)
  | .trap f => some (execTrap f)
  | .hret f => some (execHret f)
  | .yield f => some (execYield f)
  | .nop f => some (execNop f)
  | .cgate f => some (execCgate f)
  | .cgret f => some (execCgret f)
  | .cpy f => some (execCpy f)
  | .cpyg f => some (execCpyg f)
  | .cpys f => some (execCpys f)
  | .cpyf f => some (execCpyf f)
  | .wmrd f => some (execWmrd f)
  | .cpyc f => some (execCpyc f)
  | .cpym f => some (execCpym f)
  | .chst f => some (execChst f)
  | .mloop f => some (execMloop f)
  | .mzero f => some (execMzero f)
  | .mst f => some (execMst f)
  | .mlda f => some (execMlda f)
  | .mstat f => some (execMstat f)
  | .mqset f => some (execMqset f)
  | .mrel f => some (execMrel f)
  | .macq f => some (execMacq f)
  | .group f => some (execGroup f)
  | .join f => some (execJoin f)
  | .route f => some (execRoute f)
  | .combn f => some (execCombn f)
  | .gstat f => some (execGstat f)
  | .spawn f => some (execSpawn f)
  | .qenq f => some (execQenq f)
  | .qdeq f => some (execQdeq f)
  | .qstl f => some (execQstl f)
  | .qput f => some (execQput f)
  | .dcnt f => some (execDcnt f)
  | .govst f => some (execGovst f)
  | .fence f => some (execFence f)
  | .waitc f => some (execWaitc f)
  | .tryw f => some (execTryw f)
  | .rvinit f => some (execRvinit f)
  | .rvarr f => some (execRvarr f)
  | .rvwait f => some (execRvwait f)
  | .setfmt f => some (execSetfmt f)
  | .rdsr f => some (execRdsr f)
  | .wrsr f => some (execWrsr f)
  | .carve f => some (execCarve f)
  | .tlbi f => some (execTlbi f)
  | .cctl f => some (execCctl f)
  | .clk f => some (execClk f)
  | .rng f => some (execRng f)
  | .halt f => some (execHalt f)
  | .bkpt f => some (execBkpt f)
  | _ => none
/-- Execute the instruction at which a team stands, now; none when fetching or decoding it gives a fault. -/
def retry (s : State) (t : Team) : Option Out :=
  match fetchInstr s t with
  | .bad _ _ _ => none
  | .instr i b => (teamMeaning i).map fun m => m { atInstr s t b with focus := some t.tid }
/-- After an outcome the team is held: the hold. -/
def holdAfter (o : Out) (tid : Nat) : Option Hold := match o with
  | .next s => (s.team? tid).bind fun t => t.sched.hold
  | _ => none
/-- The ac that an instruction, tried now, would first wait for results it reads (R54): what its team's time gains beyond the ac of its issue and its distance. -/
def waitAfter (s : State) (t : Team) (o : Out) : Nat := match o with
  | .next s' => match s'.team? t.tid with
    | some u => (u.sched.now - (t.unhold s.clock.ac).sched.now) - (u.sched.readyAt - s.clock.ac)
    | none => 0
  | _ => 0
/-- After an outcome the team is held for the same reason. -/
def stillHeld (o : Out) (tid : Nat) (h : Hold) : Bool := holdAfter o tid == some h
/-- Whether what a team waits for has come (R79): the instruction would not be held again for the same reason. -/
def holdOver (s : State) (t : Team) (h : Hold) : Bool := h == .released || match retry s t with
  | none => true
  | some o => !stillHeld o t.tid h
/-- A running team whose hold is of the given kind and whose condition is met is released: it is ready, and its instruction keeps its issue point. -/
def release (s : State) (tid : Nat) (h : Hold) : Out :=
  match s.team? tid with
  | none => .fault .noSuchUnit
  | some t =>
    if t.sched.status == .running && t.sched.hold == some h && holdOver s t h
    then .next (s.putTeam { t with sched := { t.sched with hold := some .released } }) else .next s
/-- A wait of a running team ends by its timeout: the waiting instruction completes with the outcome that says so. -/
def timeOut (s : State) (tid : Nat) (h : Hold) (due : Team → Bool) : Out :=
  match s.team? tid with
  | none => .fault .noSuchUnit
  | some t =>
    if t.sched.status == .running && t.sched.hold == some h && due t && holdOver s t h then match retry s t with
      | some o => unselect o
      | none => .next s
    else .next s
/-- WATERMARK_RELEASE: the bytes that an access waits for are passed (R212). -/
def execWatermarkRelease (x : TeamArg) (s : State) : Out := release s x.tid .watermark
/-- FULL_EMPTY_RELEASE: every granule of an LDS that waits is full (R178). -/
def execFullEmptyRelease (x : TeamArg) (s : State) : Out := release s x.tid .fullEmpty
/-- SCOREBOARD_RELEASE: the entries that a command or an access waits for are free (R25, R26). -/
def execScoreboardRelease (x : TeamArg) (s : State) : Out := release s x.tid .scoreboard
/-- RVWAIT_RELEASE: the phase that a team waits for is complete (R123). -/
def execRvwaitRelease (x : TeamArg) (s : State) : Out := release s x.tid .rvwait
/-- TRYW_TIMEOUT: 2,048 ac have passed (R118). -/
def execTrywTimeout (x : TeamArg) (s : State) : Out := timeOut s x.tid .tryw fun t => decide (2048 ≤ trywWaited s t)
/-- MWAIT_TIMEOUT: the time of the MWAIT has passed and no wake is held (R186). -/
def execMwaitTimeout (x : TeamArg) (s : State) : Out := timeOut s x.tid .mwait fun t => t.sync.mon.any fun m => m.woke.isNone
/-- Wake the monitor of a team with a cause, unless a wake is already held (R187). -/
def wakeTeam (t : Team) (cause : Nat) : Team :=
  { t with sync := { t.sync with mon := t.sync.mon.map fun m => if m.woke.isSome then m else { m with woke := some cause } } }
/-- MONITOR_WAKE: the watch entry is lost (cause 1), and an MWAIT for which a wake is held goes on (R187); the writes themselves wake monitors as they are performed. -/
def execMonitorWake (x : WakeArg) (s : State) : Out :=
  match s.team? x.tid with
  | none => .fault .noSuchUnit
  | some t =>
    let t := if x.evict then wakeTeam t 1 else t
    if t.sync.mon.any (fun m => m.woke.isSome) && t.sched.hold == some .mwait
    then .next (s.putTeam { t with sched := { t.sched with hold := some .released } }) else .next (s.putTeam t)
/-- SPURIOUS_WAKE: cause 4, at most once in 1,024 ac of a team (R187). -/
def execSpuriousWake (x : TeamArg) (s : State) : Out :=
  match s.team? x.tid with
  | none => .fault .noSuchUnit
  | some t =>
    if t.sync.mon.any (fun m => m.woke.isNone) && t.sync.lastSpurious.all (fun a => decide (a + 1024 ≤ s.clock.ac))
    then .next (s.putTeam { wakeTeam t 4 with sync := { (wakeTeam t 4).sync with lastSpurious := some s.clock.ac } }) else .next s

/-! ## Operations and asynchronous faults -/

/-- OPERATION_RETIRE: the oldest operation of a class has completed (R20). -/
def execOperationRetire (x : OpArg) (s : State) : Out :=
  match s.team? x.tid with
  | none => .fault .noSuchUnit
  | some t => match t.ops.find? fun o => o.cls == x.cls with
    | some o => if o.done then .next (s.putTeam { t with ops := t.ops.filter fun p => p.uid != o.uid }) else .next s
    | none => .next s
/-- The pending list with one more fault; the seventeenth is lost and counted (R189). -/
def addPend (r : Region) (p : Pend) : Region :=
  if r.pend.length < 16 then { r with pend := r.pend ++ [p] } else { r with lost := true, lostCount := min 0xFFFFFFFF (r.lostCount + 1) }
/-- ASYNC_FAULT_REPORT: the next fault that an engine reports reaches its team's pending list (R189). -/
def execAsyncFaultReport (_x : NoArg) (s : State) : Out :=
  match s.reports with
  | [] => .next s
  | r :: rest =>
    let s := { s with reports := rest }
    .next (match s.team? r.tid with
      | some t => s.putTeam { t with region := addPend t.region r.pend }
      | none => s)
/-- The pending fault that a team takes at its instruction boundary: the oldest, unless it is in its handler or in a gate, halted or ended, or has passes still to issue (R189, R195, R310). -/
def dueTrap (t : Team) : Option Pend :=
  if t.sched.status == .running && t.sched.burst.isEmpty && !t.trap.inHandler && t.gate.isNone then t.region.pend.head? else none
/-- TRAP_ENTRY: the oldest pending fault is taken at the team's boundary (R189, R190); DCAUSE names the cause of a domain fault (R297); of the asynchronous faults only a frozen copy's names an address, so another leaves FADDR (R172, R190, R224). -/
def execTrapEntry (x : TeamArg) (s : State) : Out :=
  match s.team? x.tid with
  | none => .fault .noSuchUnit
  | some t => match dueTrap t with
    | none => .next s
    | some p => if trapStalls s t then .next s else
      let t := { t.unhold s.clock.ac with region := { t.region with pend := t.region.pend.drop 1 } }
      let t := if p.code = 0x31 then { t with trap := { t.trap with dcause := p.dcause } } else t
      .next (enterTrap s t ⟨p.code, true, p.src, 0, if p.code = 0x12 then some p.addr else none, false⟩)

/-! ## Fetching and issue -/

/-- A copy of a line of memory that another running team still holds: bytes from before a write to it, if there was one (R36). -/
def otherCopy (s : State) (t : Team) (pa : Nat) : Option (BitVec 512) :=
  (s.teams.find? fun u => u.tid != t.tid && u.sched.status == .running
    && u.line.any fun l => l.addr == t.flow.pc.line && l.did == t.flow.did && l.pa == some pa).bind fun u => u.line.map (·.bits)
/-- A line whose bytes are old or new, byte by byte, as the bits of a word choose (R36). -/
def mixLine (old new : BitVec 512) (w : DWord) : BitVec 512 :=
  let m := (List.range 64).foldl (fun m i => if w.getLsbD i then m ||| ((0xFF#512) <<< (8 * i)) else m) (0#512)
  (old &&& m) ||| (new &&& ~~~m)
/-- What the first fetch of a line returns where memory holds b: a mixture with an earlier copy when there is one (R36). -/
def firstFetch (s : State) (t : Team) (pa : Nat) (b : BitVec 512) : BitVec 512 := match otherCopy s t pa with
  | none => b
  | some old => mixLine old b (s.draw 0)
/-- FETCH_LINE: the line of a team's pc is fetched, translated and checked (R35, R36). A line that fails its parity check, by a transient error, as a mixture, or as memory holds it, is fetched once more from memory and the cached copies go; the bytes of memory are then kept, and when they fail as well the fault waits for the slot. A segment that is quiesced stalls the fetch (R130). -/
def execFetchLine (x : FetchArg) (s : State) : Out :=
  match s.team? x.tid with
  | none => .fault .noSuchUnit
  | some t =>
    if t.sched.status != .running || lineHeld t then .next s
    else match translate s t.agent .fetch t.flow.pc.line.toNat 3 with
      | .error _ => .next s
      | .ok (pa, pol) =>
        if fetchStalls s t.place.core t.flow.did pol pa then .next s
        else
          let b := memLine s pa
          let a := firstFetch s t pa b
          let again := x.softError || !parityOk a
          let c := if again then b else a
          let s := (tlbFill s t.agent t.flow.pc.line.toNat).putTeam (keepLine t c (some pa) (!parityOk c))
          let s := fetchTraffic s t.place.core t.flow.did pol pa
          .next ((if again then refetch s t.place.core t.flow.did pa else s).drawn 64)
/-- The next line of a team has been fetched and checked, or no fetch of it is allowed and the slot's fault is due (R79). -/
def lineReady (s : State) (t : Team) : Bool := lineHeld t || match translate s t.agent .fetch t.flow.pc.line.toNat 3 with
  | .error _ => true
  | .ok _ => false
/-- Holds that only an event of their own ends. -/
def ownRelease (h : Hold) : Bool := h == .watermark || h == .fullEmpty || h == .scoreboard || h == .rvwait
/-- What a team's instruction does not decide of its being ready (R52, R79, R332): it runs, its distance has run out, no trap and no graft result is due before it, its line is there, and no event of its own has still to end its hold. -/
def mayIssue (s : State) (t : Team) : Bool :=
  t.sched.status == .running && decide (t.sched.readyAt ≤ s.clock.ac) && (dueTrap t).isNone && !graftReady s t && (lineReady s t || !t.sched.burst.isEmpty)
    && match t.sched.hold with
      | none => true
      | some h => !ownRelease h
/-- The hold in which the instruction at which a team stands would put it now, none when it may issue (R79). -/
def wouldHold (s : State) (t : Team) : Option Hold := if !t.sched.burst.isEmpty then none else (retry s t).bind fun o => holdAfter o t.tid
/-- The results that a team's instruction reads are there (R54, R79). -/
def resultsThere (s : State) (t : Team) : Bool := !t.sched.burst.isEmpty || (match retry s t with
  | none => true
  | some o => waitAfter s t o == 0)
/-- A team is ready (R79). -/
def teamReady (s : State) (t : Team) : Bool := mayIssue s t && (wouldHold s t).isNone && resultsThere s t
/-- A team that waits in MACQ has no request standing: its plot was saved meanwhile, and it asks again (R119, R237). -/
def asksAgain (s : State) (t : Team) : Bool := t.sched.hold == some .macq && !(s.mx t.place.core).reqs.any fun r => r.tid == t.tid
/-- A team of a quadrant comes into the hold that its instruction meets once the results that it reads are there: it has issued then, takes no issue slot and is not charged (R17, R26, R54, R79). -/
def intoHold (s : State) (tid : Nat) : State := match s.team? tid with
  | none => s
  | some t => if !mayIssue s t || (wouldHold s t).isNone || (wouldHold s t == t.sched.hold && !asksAgain s t) || !resultsThere s t then s else match retry s t with
    | some (.next s') => { s' with focus := s.focus }
    | _ => s
/-- The teams of a quadrant. -/
def quadMembers (s : State) (core quad : Nat) : List Team := s.teams.filter fun t => t.place.core == core && t.place.quad == quad
/-- Every team of a quadrant whose instruction would be held is held (R79). -/
def quadHolds (s : State) (core quad : Nat) : State := (quadMembers s core quad).foldl (fun s t => intoHold s t.tid) s
/-- The ready teams of a quadrant; one that yielded counts only when no other is ready (R112). -/
def quadReady (s : State) (core quad : Nat) : List Team :=
  let l := (quadMembers s core quad).filter (teamReady s)
  let others := l.filter fun t => !t.sched.yielded
  if others.isEmpty then l else others
/-- W_d of a domain on a core (R81, R299). -/
def issueWeight (s : State) (core dom : Nat) : Nat := match coreSlot s core dom with
  | some w => slotWeight w
  | none => 0
/-- The team whose last issue is oldest, then the lower TEAMIX (R81). DESIGN CHOICE, log 64: of teams of several plots of one domain that are equal in both, the first in the list of teams. -/
def oldestTeam (l : List Team) : Option Team :=
  l.foldl (fun b t => match b with
    | none => some t
    | some u => if t.sched.lastIssue < u.sched.lastIssue || (t.sched.lastIssue == u.sched.lastIssue && decide (t.place.teamix < u.place.teamix)) then some t
                else some u) none
/-- The domain with the largest counter, then the lower identifier (R81). -/
def largestCredit (c : List (Nat × Int)) (doms : List Nat) : Option Nat :=
  doms.foldl (fun b d => match b with
    | none => some d
    | some e => if agetD c e 0 < agetD c d 0 || (agetD c e 0 == agetD c d 0 && decide (d < e)) then some d else some e) none
/-- The selection among ready teams with the counters C_d as they stand: the team and the counters after it (R81, R82). -/
def selectTeam (c : List (Nat × Int)) (w : Nat → Nat) (ready : List Team) : Option (Team × List (Nat × Int)) :=
  let doms := (ready.map fun t => t.stamp.home).eraseDups
  let sum := (doms.map w).sum
  let added := doms.foldl (fun (c : List (Nat × Int)) d => aput c d (agetD c d 0 + (w d : Int))) c
  let first := ready.filter fun t => t.trap.inHandler && decide (-(sum : Int) ≤ agetD c t.stamp.home 0)
  let pool := if first.isEmpty then ready else first
  match largestCredit added ((pool.map fun t => t.stamp.home).eraseDups) with
  | none => none
  | some d =>
    let own := pool.filter fun t => t.stamp.home == d
    let hs := own.filter fun t => t.trap.inHandler
    (oldestTeam (if hs.isEmpty then own else hs)).map fun t => (t, aput added d (agetD added d 0 - sum))
/-- The marks of YIELD on a quadrant are spent by its selection (R112). -/
def spendYields (s : State) (core quad : Nat) : State :=
  { s with teams := s.teams.map fun t => if t.place.core == core && t.place.quad == quad then { t with sched := { t.sched with yielded := false } } else t }
/-- A selected team issues its next burst of passes (R80); after the last one its distance counts and halts that wait for the boundary are granted (R52, R195, R313). -/
def issueBurst (s : State) (t : Team) : State := match t.sched.burst with
  | [] => s
  | b :: r => let u := t.unhold s.clock.ac
              grantWish (burstTime s { u with sched := { u.sched with burst := r, yielded := false } } b (if r.isEmpty then t.sched.gap else 0)) t.tid
/-- ISSUE_SELECTION: a quadrant selects a ready team (R79, R81); a team with bursts left issues one of them (R80), another is to execute its next instruction. -/
def execIssueSelection (x : QuadArg) (s : State) : Out :=
  if (s.focus.bind s.team?).isSome then .next s
  else
    let s := quadHolds s x.core x.quad
    match selectTeam ((s.core x.core).credit.getD x.quad []) (issueWeight s x.core) (quadReady s x.core x.quad) with
    | none => .next s
    | some (t, c) =>
      let s := (spendYields s x.core x.quad).modCore x.core fun k => { k with credit := k.credit.set x.quad c }
      let s := { s with nextQuad := (4 * x.core + x.quad + 1) % 2048 }
      if t.sched.burst.isEmpty then .next { s with focus := some t.tid } else .next (issueBurst s t)

end Sys2Proof.Machine
end

