-- ==== Sys2Proof/Machine/Dispatch.lean ====
section
/-! DEFINITION. One arm for each constructor of Instr: the meaning of each row of spec/opcode_table.json. -/

namespace Sys2Proof.Machine

/-- What an instruction or a device event does. -/
def exec (i : Instr) (s : State) : Host.Outcome State Fault Refusal :=
  match i with
  | .vadd f => Sys2Proof.Machine.execVadd f s
  | .vsub f => Sys2Proof.Machine.execVsub f s
  | .vmul f => Sys2Proof.Machine.execVmul f s
  | .vmulh f => Sys2Proof.Machine.execVmulh f s
  | .vmad f => Sys2Proof.Machine.execVmad f s
  | .vmin f => Sys2Proof.Machine.execVmin f s
  | .vmax f => Sys2Proof.Machine.execVmax f s
  | .vand f => Sys2Proof.Machine.execVand f s
  | .vor f => Sys2Proof.Machine.execVor f s
  | .vxor f => Sys2Proof.Machine.execVxor f s
  | .vandn f => Sys2Proof.Machine.execVandn f s
  | .vshl f => Sys2Proof.Machine.execVshl f s
  | .vshr f => Sys2Proof.Machine.execVshr f s
  | .vsra f => Sys2Proof.Machine.execVsra f s
  | .vrot f => Sys2Proof.Machine.execVrot f s
  | .vclz f => Sys2Proof.Machine.execVclz f s
  | .vpop f => Sys2Proof.Machine.execVpop f s
  | .vbrev f => Sys2Proof.Machine.execVbrev f s
  | .vbfx f => Sys2Proof.Machine.execVbfx f s
  | .vbfi f => Sys2Proof.Machine.execVbfi f s
  | .vsel f => Sys2Proof.Machine.execVsel f s
  | .vmov f => Sys2Proof.Machine.execVmov f s
  | .vcmp f => Sys2Proof.Machine.execVcmp f s
  | .vlop3 f => Sys2Proof.Machine.execVlop3 f s
  | .vidx f => Sys2Proof.Machine.execVidx f s
  | .vdot4 f => Sys2Proof.Machine.execVdot4 f s
  | .fadd f => Sys2Proof.Machine.execFadd f s
  | .fsub f => Sys2Proof.Machine.execFsub f s
  | .fmul f => Sys2Proof.Machine.execFmul f s
  | .fma f => Sys2Proof.Machine.execFma f s
  | .fmin f => Sys2Proof.Machine.execFmin f s
  | .fmax f => Sys2Proof.Machine.execFmax f s
  | .fcmp f => Sys2Proof.Machine.execFcmp f s
  | .fclass f => Sys2Proof.Machine.execFclass f s
  | .frcp f => Sys2Proof.Machine.execFrcp f s
  | .frsq f => Sys2Proof.Machine.execFrsq f s
  | .fsqrt f => Sys2Proof.Machine.execFsqrt f s
  | .fdiv f => Sys2Proof.Machine.execFdiv f s
  | .fex2 f => Sys2Proof.Machine.execFex2 f s
  | .flg2 f => Sys2Proof.Machine.execFlg2 f s
  | .fsin f => Sys2Proof.Machine.execFsin f s
  | .fcos f => Sys2Proof.Machine.execFcos f s
  | .ftnh f => Sys2Proof.Machine.execFtnh f s
  | .frnd f => Sys2Proof.Machine.execFrnd f s
  | .cvt f => Sys2Proof.Machine.execCvt f s
  | .fscl f => Sys2Proof.Machine.execFscl f s
  | .fdot2 f => Sys2Proof.Machine.execFdot2 f s
  | .qblk f => Sys2Proof.Machine.execQblk f s
  | .dqblk f => Sys2Proof.Machine.execDqblk f s
  | .shfl f => Sys2Proof.Machine.execShfl f s
  | .vstep f => Sys2Proof.Machine.execVstep f s
  | .ballot f => Sys2Proof.Machine.execBallot f s
  | .vote f => Sys2Proof.Machine.execVote f s
  | .matchRows f => Sys2Proof.Machine.execMatchRows f s
  | .pfx f => Sys2Proof.Machine.execPfx f s
  | .spack f => Sys2Proof.Machine.execSpack f s
  | .spexp f => Sys2Proof.Machine.execSpexp f s
  | .vsort f => Sys2Proof.Machine.execVsort f s
  | .bsrch f => Sys2Proof.Machine.execBsrch f s
  | .pairedWord f => Sys2Proof.Machine.execPairedWord f s
  | .sadd f => Sys2Proof.Machine.execSadd f s
  | .ssub f => Sys2Proof.Machine.execSsub f s
  | .smul f => Sys2Proof.Machine.execSmul f s
  | .smulh f => Sys2Proof.Machine.execSmulh f s
  | .smad f => Sys2Proof.Machine.execSmad f s
  | .sdiv f => Sys2Proof.Machine.execSdiv f s
  | .srem f => Sys2Proof.Machine.execSrem f s
  | .sand f => Sys2Proof.Machine.execSand f s
  | .sor f => Sys2Proof.Machine.execSor f s
  | .sxor f => Sys2Proof.Machine.execSxor f s
  | .sshl f => Sys2Proof.Machine.execSshl f s
  | .sshr f => Sys2Proof.Machine.execSshr f s
  | .ssra f => Sys2Proof.Machine.execSsra f s
  | .smin f => Sys2Proof.Machine.execSmin f s
  | .smax f => Sys2Proof.Machine.execSmax f s
  | .sclz f => Sys2Proof.Machine.execSclz f s
  | .spop f => Sys2Proof.Machine.execSpop f s
  | .sbfx f => Sys2Proof.Machine.execSbfx f s
  | .sbfi f => Sys2Proof.Machine.execSbfi f s
  | .ssel f => Sys2Proof.Machine.execSsel f s
  | .smov f => Sys2Proof.Machine.execSmov f s
  | .scmp f => Sys2Proof.Machine.execScmp f s
  | .saddx f => Sys2Proof.Machine.execSaddx f s
  | .smadx f => Sys2Proof.Machine.execSmadx f s
  | .srdv f => Sys2Proof.Machine.execSrdv f s
  | .swrv f => Sys2Proof.Machine.execSwrv f s
  | .sfadd f => Sys2Proof.Machine.execSfadd f s
  | .sfma f => Sys2Proof.Machine.execSfma f s
  | .sfcmp f => Sys2Proof.Machine.execSfcmp f s
  | .scvt f => Sys2Proof.Machine.execScvt f s
  | .ld f => Sys2Proof.Machine.execLd f s
  | .st f => Sys2Proof.Machine.execSt f s
  | .lds f => Sys2Proof.Machine.execLds f s
  | .sts f => Sys2Proof.Machine.execSts f s
  | .ldp f => Sys2Proof.Machine.execLdp f s
  | .stp f => Sys2Proof.Machine.execStp f s
  | .ldc f => Sys2Proof.Machine.execLdc f s
  | .atom f => Sys2Proof.Machine.execAtom f s
  | .cas f => Sys2Proof.Machine.execCas f s
  | .atomagg f => Sys2Proof.Machine.execAtomagg f s
  | .ldf f => Sys2Proof.Machine.execLdf f s
  | .stf f => Sys2Proof.Machine.execStf f s
  | .pref f => Sys2Proof.Machine.execPref f s
  | .marm f => Sys2Proof.Machine.execMarm f s
  | .mwait f => Sys2Proof.Machine.execMwait f s
  | .cline f => Sys2Proof.Machine.execCline f s
  | .bra f => Sys2Proof.Machine.execBra f s
  | .brc f => Sys2Proof.Machine.execBrc f s
  | .brd f => Sys2Proof.Machine.execBrd f s
  | .rcv f => Sys2Proof.Machine.execRcv f s
  | .loop f => Sys2Proof.Machine.execLoop f s
  | .call f => Sys2Proof.Machine.execCall f s
  | .ret f => Sys2Proof.Machine.execRet f s
  | .calli f => Sys2Proof.Machine.execCalli f s
  | .exit f => Sys2Proof.Machine.execExit f s
  | .trap f => Sys2Proof.Machine.execTrap f s
  | .hret f => Sys2Proof.Machine.execHret f s
  | .yield f => Sys2Proof.Machine.execYield f s
  | .nop f => Sys2Proof.Machine.execNop f s
  | .cgate f => Sys2Proof.Machine.execCgate f s
  | .cgret f => Sys2Proof.Machine.execCgret f s
  | .cpy f => Sys2Proof.Machine.execCpy f s
  | .cpyg f => Sys2Proof.Machine.execCpyg f s
  | .cpys f => Sys2Proof.Machine.execCpys f s
  | .cpyf f => Sys2Proof.Machine.execCpyf f s
  | .wmrd f => Sys2Proof.Machine.execWmrd f s
  | .cpyc f => Sys2Proof.Machine.execCpyc f s
  | .cpym f => Sys2Proof.Machine.execCpym f s
  | .chst f => Sys2Proof.Machine.execChst f s
  | .mloop f => Sys2Proof.Machine.execMloop f s
  | .mzero f => Sys2Proof.Machine.execMzero f s
  | .mst f => Sys2Proof.Machine.execMst f s
  | .mlda f => Sys2Proof.Machine.execMlda f s
  | .mstat f => Sys2Proof.Machine.execMstat f s
  | .mqset f => Sys2Proof.Machine.execMqset f s
  | .mrel f => Sys2Proof.Machine.execMrel f s
  | .macq f => Sys2Proof.Machine.execMacq f s
  | .group f => Sys2Proof.Machine.execGroup f s
  | .join f => Sys2Proof.Machine.execJoin f s
  | .route f => Sys2Proof.Machine.execRoute f s
  | .combn f => Sys2Proof.Machine.execCombn f s
  | .gstat f => Sys2Proof.Machine.execGstat f s
  | .spawn f => Sys2Proof.Machine.execSpawn f s
  | .qenq f => Sys2Proof.Machine.execQenq f s
  | .qdeq f => Sys2Proof.Machine.execQdeq f s
  | .qstl f => Sys2Proof.Machine.execQstl f s
  | .qput f => Sys2Proof.Machine.execQput f s
  | .dcnt f => Sys2Proof.Machine.execDcnt f s
  | .govst f => Sys2Proof.Machine.execGovst f s
  | .fence f => Sys2Proof.Machine.execFence f s
  | .waitc f => Sys2Proof.Machine.execWaitc f s
  | .tryw f => Sys2Proof.Machine.execTryw f s
  | .rvinit f => Sys2Proof.Machine.execRvinit f s
  | .rvarr f => Sys2Proof.Machine.execRvarr f s
  | .rvwait f => Sys2Proof.Machine.execRvwait f s
  | .setfmt f => Sys2Proof.Machine.execSetfmt f s
  | .rdsr f => Sys2Proof.Machine.execRdsr f s
  | .wrsr f => Sys2Proof.Machine.execWrsr f s
  | .carve f => Sys2Proof.Machine.execCarve f s
  | .tlbi f => Sys2Proof.Machine.execTlbi f s
  | .cctl f => Sys2Proof.Machine.execCctl f s
  | .clk f => Sys2Proof.Machine.execClk f s
  | .rng f => Sys2Proof.Machine.execRng f s
  | .halt f => Sys2Proof.Machine.execHalt f s
  | .bkpt f => Sys2Proof.Machine.execBkpt f s
  | .issueSelection x => Sys2Proof.Machine.execIssueSelection x s
  | .fetchLine x => Sys2Proof.Machine.execFetchLine x s
  | .plotPlacement x => Sys2Proof.Machine.execPlotPlacement x s
  | .launchDraw x => Sys2Proof.Machine.execLaunchDraw x s
  | .teamFree x => Sys2Proof.Machine.execTeamFree x s
  | .completionRecord x => Sys2Proof.Machine.execCompletionRecord x s
  | .depWaitRelease x => Sys2Proof.Machine.execDepWaitRelease x s
  | .operationRetire x => Sys2Proof.Machine.execOperationRetire x s
  | .asyncFaultReport x => Sys2Proof.Machine.execAsyncFaultReport x s
  | .trapEntry x => Sys2Proof.Machine.execTrapEntry x s
  | .watermarkRelease x => Sys2Proof.Machine.execWatermarkRelease x s
  | .fullEmptyRelease x => Sys2Proof.Machine.execFullEmptyRelease x s
  | .scoreboardRelease x => Sys2Proof.Machine.execScoreboardRelease x s
  | .copyStart x => Sys2Proof.Machine.execCopyStart x s
  | .copyElementLand x => Sys2Proof.Machine.execCopyElementLand x s
  | .copyComplete x => Sys2Proof.Machine.execCopyComplete x s
  | .poisonMarks x => Sys2Proof.Machine.execPoisonMarks x s
  | .channelQuiesce x => Sys2Proof.Machine.execChannelQuiesce x s
  | .rvwaitRelease x => Sys2Proof.Machine.execRvwaitRelease x s
  | .trywTimeout x => Sys2Proof.Machine.execTrywTimeout x s
  | .monitorWake x => Sys2Proof.Machine.execMonitorWake x s
  | .mwaitTimeout x => Sys2Proof.Machine.execMwaitTimeout x s
  | .spuriousWake x => Sys2Proof.Machine.execSpuriousWake x s
  | .matrixGrant x => Sys2Proof.Machine.execMatrixGrant x s
  | .matrixLeaseExpiry x => Sys2Proof.Machine.execMatrixLeaseExpiry x s
  | .matrixCommandStart x => Sys2Proof.Machine.execMatrixCommandStart x s
  | .matrixKStep x => Sys2Proof.Machine.execMatrixKStep x s
  | .matrixCommandComplete x => Sys2Proof.Machine.execMatrixCommandComplete x s
  | .matrixFreeze x => Sys2Proof.Machine.execMatrixFreeze x s
  | .matrixScanOut x => Sys2Proof.Machine.execMatrixScanOut x s
  | .matrixScanIn x => Sys2Proof.Machine.execMatrixScanIn x s
  | .instanceComplete x => Sys2Proof.Machine.execInstanceComplete x s
  | .graftApplication x => Sys2Proof.Machine.execGraftApplication x s
  | .spillRingWrite x => Sys2Proof.Machine.execSpillRingWrite x s
  | .ingressSelect x => Sys2Proof.Machine.execIngressSelect x s
  | .tileClose x => Sys2Proof.Machine.execTileClose x s
  | .tileStatusWrite x => Sys2Proof.Machine.execTileStatusWrite x s
  | .spawnIntake x => Sys2Proof.Machine.execSpawnIntake x s
  | .queueOperation x => Sys2Proof.Machine.execQueueOperation x s
  | .storeRefill x => Sys2Proof.Machine.execStoreRefill x s
  | .qputTarget x => Sys2Proof.Machine.execQputTarget x s
  | .stageEvaluation x => Sys2Proof.Machine.execStageEvaluation x s
  | .tableFiring x => Sys2Proof.Machine.execTableFiring x s
  | .preemptDecision x => Sys2Proof.Machine.execPreemptDecision x s
  | .drainTimeout x => Sys2Proof.Machine.execDrainTimeout x s
  | .plotSave x => Sys2Proof.Machine.execPlotSave x s
  | .plotRestore x => Sys2Proof.Machine.execPlotRestore x s
  | .sliceEnd x => Sys2Proof.Machine.execSliceEnd x s
  | .sliceStart x => Sys2Proof.Machine.execSliceStart x s
  | .recall x => Sys2Proof.Machine.execRecall x s
  | .recallEnd x => Sys2Proof.Machine.execRecallEnd x s
  | .gateBudgetExpiry x => Sys2Proof.Machine.execGateBudgetExpiry x s
  | .meterFold x => Sys2Proof.Machine.execMeterFold x s
  | .droop x => Sys2Proof.Machine.execDroop x s
  | .droopRecovery x => Sys2Proof.Machine.execDroopRecovery x s
  | .coreSlotWrite x => Sys2Proof.Machine.execCoreSlotWrite x s
  | .bankOwnerWrite x => Sys2Proof.Machine.execBankOwnerWrite x s
  | .clusterSlotWrite x => Sys2Proof.Machine.execClusterSlotWrite x s
  | .rotOwnerChange x => Sys2Proof.Machine.execRotOwnerChange x s
  | .firewallWrite x => Sys2Proof.Machine.execFirewallWrite x s
  | .apertureWindowWrite x => Sys2Proof.Machine.execApertureWindowWrite x s
  | .mgmtRegisterWrite x => Sys2Proof.Machine.execMgmtRegisterWrite x s
  | .mbprodWrite x => Sys2Proof.Machine.execMbprodWrite x s
  | .qdbWrite x => Sys2Proof.Machine.execQdbWrite x s
  | .write x => Sys2Proof.Machine.execWrite x s
  | .read x => Sys2Proof.Machine.execRead x s
  | .fill x => Sys2Proof.Machine.execFill x s
  | .meters x => Sys2Proof.Machine.execMeters x s
  | .report x => Sys2Proof.Machine.execReport x s
  | .resume x => Sys2Proof.Machine.execResume x s
  | .mgmtwr x => Sys2Proof.Machine.execMgmtwr x s
  | .mgmtrd x => Sys2Proof.Machine.execMgmtrd x s
  | .bar2Inbound x => Sys2Proof.Machine.execBar2Inbound x s
  | .linkFailure x => Sys2Proof.Machine.execLinkFailure x s
  | .coldReset x => Sys2Proof.Machine.execColdReset x s
  | .functionLevelReset x => Sys2Proof.Machine.execFunctionLevelReset x s
  | .getMeasurements x => Sys2Proof.Machine.execGetMeasurements x s
  | .keyExchange x => Sys2Proof.Machine.execKeyExchange x s
  | .linkRecovery x => Sys2Proof.Machine.execLinkRecovery x s
  | .remoteCopyWrite x => Sys2Proof.Machine.execRemoteCopyWrite x s
  | .precisionTimeMeasurement x => Sys2Proof.Machine.execPrecisionTimeMeasurement x s
  | .configurationRequest x => Sys2Proof.Machine.execConfigurationRequest x s
  | .haltRequest x => Sys2Proof.Machine.execHaltRequest x s
  | .algorithmNegotiation x => Sys2Proof.Machine.execAlgorithmNegotiation x s

end Sys2Proof.Machine
end

