-- ==== Sys2Proof/Machine/Agents.lean ====
section
/-! DEFINITION. What the device does next when no input is due and no team is selected: the first of its own events, in a fixed order, whose condition holds. The order is one that the spec allows; the agenda gives any other. -/

namespace Sys2Proof.Machine

/-- An event's condition holds: its meaning changes something. -/
def acts (s : State) (i : Instr) : Bool := match exec i s with
  | .next s' => decide (s' ≠ s)
  | _ => false

/-- Quadrants that a core gives so many teams of a packet, filled from the first. -/
def fillQuads (s : State) (core dom : Nat) (p : Packet) (more teams : Nat) : List Nat :=
  match coreSlot s core dom with
  | none => []
  | some w => ((List.range 4).flatMap fun q => List.replicate (min 16 (quadCap (claimView s core dom) core q w p more)) q).take teams
/-- A placement of the next plot of a launch: the first cores on which its beds fit (R273). -/
def placement (s : State) (l : Launch) : Option PlaceArg :=
  match nextIndex s l with
  | none => none
  | some k =>
    let teams := plotTeams l k
    (chooseCluster s l teams).map fun c =>
      let cores := ((coresOf c).filter fun x => bedFits (claimView s x l.dom) x l.dom l.pkt (teams.foldl max 0)).take teams.length
      ⟨l.uid, c, cores, (cores.zip teams).flatMap fun x => fillQuads s x.1 l.dom l.pkt (bedBankCount l.pkt x.2) x.2⟩
/-- The event that places the next plot of a launch. A launch whose stage table is bad is ended by it wherever it would go (R281). -/
def placeEvent (s : State) (l : Launch) : Instr :=
  let x := (placement s l).getD ⟨l.uid, 0, [], []⟩
  if drawnOrigin l then .plotPlacement x else .spawnIntake x
/-- Distinct cores for the beds of a saved plot. -/
def pickBeds (fits : Nat → Nat → Bool) : List Nat → List Nat → Option (List Nat)
  | [], _ => some []
  | b :: bs, cores => cores.findSome? fun c => if fits b c then (pickBeds fits bs (cores.filter (· != c))).map (c :: ·) else none
/-- A placement that brings a saved plot back into its cluster (R11, R284). -/
def comeback (s : State) (p : Plot) (l : Launch) : Option PlaceArg :=
  if !savedFits s p l then none
  else
    let fits := fun i core =>
      let v := claimView s core l.dom
      savedBedFits v p l core i fun w n => decide ((bedMembers s p.uid i).length ≤ ((List.range 4).map fun q => quadCap v core q w l.pkt n).sum)
    (pickBeds fits (List.range p.beds.length) (coresOf p.cluster)).map fun cores =>
      ⟨p.uid, p.cluster, cores, cores.zipIdx.flatMap fun x => fillQuads s x.1 l.dom l.pkt (savedBanks s p.uid x.2) (bedMembers s p.uid x.2).length⟩
/-- The event that brings a saved plot back. -/
def restoreEvents (s : State) (p : Plot) : List Instr := match s.launch? p.launch with
  | none => []
  | some l => match comeback s p l with
    | some x => [.plotRestore x]
    | none => []
/-- A time-triggered launch that finds no room pre-empts a plot of its domain's newest other launch, one at a time (R283). -/
def tableVictim (s : State) (l : Launch) : Option Plot :=
  match nextIndex s l with
  | none => none
  | some _ =>
    if !tableLaunch l || (placement s l).isSome || s.gov.plots.any (fun p => plotDom s p == l.dom && (p.st != .resident && p.st != .saved && p.st != .done)) then none
    else (s.gov.plots.filter fun p => p.st == .resident && plotDom s p == l.dom && p.launch != l.uid).foldl (fun b p => match b with
      | none => some p
      | some q => if q.launch < p.launch then some p else some q) none
/-- The events of launches and plots that the governor brings about itself; a time-triggered launch is placed before saved plots come back (R287). -/
def governorEvents (s : State) : List Instr :=
  (if s.gov.waiting.isEmpty then [] else [.queueOperation ⟨⟩])
    ++ (s.gov.plots.filter fun p => p.st == .saving).flatMap (fun p => [.channelQuiesce ⟨p.uid⟩, .plotSave ⟨p.uid⟩])
    ++ (s.gov.plots.filter fun p => p.st != .done).flatMap (fun p => [.drainTimeout ⟨p.uid⟩, .stageEvaluation ⟨p.uid⟩])
    ++ (s.gov.launches.filter tableLaunch).map (placeEvent s)
    ++ (s.gov.plots.filter fun p => p.st == .saved).flatMap (restoreEvents s)
    ++ s.gov.launches.flatMap (fun l => [.completionRecord ⟨l.uid⟩, .tileStatusWrite ⟨l.uid⟩, .depWaitRelease ⟨l.uid⟩, placeEvent s l])
    ++ s.gov.launches.flatMap (fun l => match tableVictim s l with
        | some p => [.preemptDecision ⟨p.uid⟩]
        | none => [])
    ++ s.gov.queues.flatMap (fun q => [.launchDraw ⟨q.id⟩, .storeRefill ⟨q.id⟩])
    ++ s.gov.table.map fun e => .tableFiring ⟨e.id⟩
/-- The events of a team between its instructions. -/
def teamEvents (t : Team) : List Instr :=
  (List.range 4).map (fun c => .operationRetire ⟨t.tid, c⟩)
    ++ [.gateBudgetExpiry ⟨t.tid⟩, .graftApplication ⟨t.tid⟩, .trapEntry ⟨t.tid⟩, .teamFree ⟨t.tid⟩, .watermarkRelease ⟨t.tid⟩,
        .fullEmptyRelease ⟨t.tid⟩, .scoreboardRelease ⟨t.tid⟩, .rvwaitRelease ⟨t.tid⟩, .monitorWake ⟨t.tid, false⟩, .trywTimeout ⟨t.tid⟩,
        .mwaitTimeout ⟨t.tid⟩, .fetchLine ⟨t.tid, false⟩]
/-- The events of a core's streamer, matrix unit, slices and counts. -/
def coreEvents (s : State) (core : Nat) : List Instr :=
  let c := s.core core
  ((List.range 16).filter fun k => !(c.chans.getD k Channel.reset).q.isEmpty).flatMap (fun k =>
      [.copyStart ⟨core, k⟩, .copyElementLand ⟨core, k⟩, .poisonMarks ⟨core, k⟩, .copyComplete ⟨core, k⟩])
    ++ (if c.mx.holder.isNone && c.mx.reqs.isEmpty && c.mx.images.isEmpty then [] else
          [.matrixLeaseExpiry ⟨core⟩, .matrixFreeze ⟨core⟩, .matrixScanOut ⟨core⟩, .matrixGrant ⟨core⟩, .matrixScanIn ⟨core⟩, .matrixCommandStart ⟨core⟩,
           .matrixKStep ⟨core⟩, .matrixCommandComplete ⟨core⟩])
    ++ c.slice.recalling.map (fun r => .recallEnd ⟨core, r.1, r.2⟩)
    ++ (if c.slots.any slotSliced then [.sliceEnd ⟨core⟩, .sliceStart ⟨core⟩] else [])
    ++ if c.issue.isEmpty then [] else [.meterFold ⟨core⟩]
/-- The events of a cluster's graft unit. -/
def clusterEvents (s : State) (cl : Nat) : List Instr :=
  let c := s.cluster cl
  if c.insts.isEmpty && c.spills.isEmpty then [] else [.instanceComplete ⟨cl⟩, .spillRingWrite ⟨cl⟩] ++ match waitingChild s cl with
    | some l => [.spawnIntake ⟨l.uid, 0, [], []⟩]
    | none => []
/-- The events of a die's ingress selector and tiles. -/
def dieEvents (s : State) (d : Nat) : List Instr :=
  .ingressSelect ⟨d⟩ :: (s.die d).tiles.map fun t => .tileClose ⟨d, t.key⟩
/-- The event that applies the command whose turn it is (R358, R368). -/
def mailboxEvent (s : State) : List Instr := match mailboxTurn s with
  | none => []
  | some fn => match headCmd s fn with
  | none => []
  | some c => [match c.op.toNat with
    | 2 => .read ⟨fn⟩
    | 3 => .fill ⟨fn⟩
    | 4 => .meters ⟨fn⟩
    | 5 => .report ⟨fn⟩
    | 6 => .resume ⟨fn⟩
    | 0x40 => .mgmtwr ⟨fn⟩
    | 0x41 => .mgmtrd ⟨fn⟩
    | _ => .write ⟨fn⟩]
/-- Quadrants in fair rotation, those that hold a team. -/
def quadEvents (s : State) : List Instr :=
  (((List.range 2048).map fun i => (s.nextQuad + i) % 2048).filter fun k => s.teams.any fun t => 4 * t.place.core + t.place.quad == k).map
    fun k => .issueSelection ⟨k / 4, k % 4⟩
/-- Everything the device may do by itself, in the order in which the model lets it happen. -/
def candidates (s : State) : List Instr :=
  .asyncFaultReport ⟨⟩ :: s.teams.flatMap teamEvents ++ (List.range Config.cores).flatMap (coreEvents s)
    ++ (List.range Config.clusters).flatMap (clusterEvents s) ++ (List.range Config.dies).flatMap (dieEvents s)
    ++ mailboxEvent s ++ governorEvents s ++ quadEvents s
/-- The next event that the device brings about by itself. -/
def nextInternal (s : State) : Option Instr := (candidates s).find? (acts s)

end Sys2Proof.Machine
end

