-- ==== Sys2Proof/Machine/Soft.lean ====
section
/-! DEFINITION. Uncorrectable soft errors of the arrays and of memory (R176, R201, R318), which come from outside the machine: the poison that each leaves. -/

namespace Sys2Proof.Machine

/-- A granule of a scratchpad is poisoned. -/
def spoilGranule (m : Scratch) (g : Nat) : Scratch := { m with pois := setIns m.pois g }
/-- A sector of an L1 line is poisoned. -/
def spoilSector (dom line sector : Nat) (c : Core) : Core :=
  { c with l1 := c.l1.map fun l => if l.dom == dom && l.line == line then { l with pois := l.pois ||| ((1#4) <<< sector), hurt := l.hurt ||| ((1#4) <<< sector) } else l }
/-- A vector element of a team with its poison bit set; a place that does not exist holds nothing to spoil. -/
def spoilElem (t : Team) (reg row : Nat) : Team :=
  if decide (reg < t.foot.vregs) && decide (row < t.foot.rows) then t.vset reg row { t.vget reg row with poison := true } else t
/-- A scalar of a team with its poison bit set. -/
def spoilScalar (t : Team) (reg : Nat) : Team := if reg < t.foot.sregs then t.sset reg { t.sget reg with poison := true } else t
/-- Change a team, if there is one of that identity. -/
def modTeam (s : State) (tid : Nat) (f : Team → Team) : State := match s.team? tid with
  | some t => s.putTeam (f t)
  | none => s
/-- An uncorrectable error: the bits stay, and what a read of them finds is poisoned (R176, R201); a page that takes no more writes makes the save writes to it fault (R318). DESIGN CHOICE, log 72: the poison is there from the error on, not from the read that finds it. -/
def applySoft (s : State) (e : SoftError) : State := match e with
  | .sector n => { s with mem := s.mem.mark n true }
  | .bed p b g => s.modBed p b fun x => { x with mem := spoilGranule x.mem g }
  | .bank cl b g => s.modCluster cl fun c => { c with banks := c.banks.modify b fun k => { k with mem := spoilGranule k.mem g } }
  | .l1 core dom line sector => s.modCore core (spoilSector dom line sector)
  | .vector tid reg row => modTeam s tid fun t => spoilElem t reg row
  | .scalar tid reg => modTeam s tid fun t => spoilScalar t reg
  | .acc core which word => modAcc s core which fun l => accPut l (word / 256) (word % 256) { accGet l (word / 256) (word % 256) with poison := true }
  | .page n => { s with badPages := setIns s.badPages n }

end Sys2Proof.Machine
end

