-- ==== Sys2Proof/Machine/Step.lean ====
section
/-! DEFINITION. One step of the machine: the soft error that strikes, else the event due, else the selected team's next instruction, else the device's own next event, else one ac passes. -/

namespace Sys2Proof.Machine

/-- The selected team executes the instruction at its pc (R33, R40). DESIGN CHOICE, log 93: a fault of its fetch names every row of the mask. -/
def stepTeam (s : State) (t : Team) : Out :=
  match fetchInstr s t with
  | .bad c a half => unselect (raiseAt (fetchWalk s t a) t ⟨c, false, 0, t.flow.mask, a, half⟩)
  | .instr i b => unselect (exec i (atInstr s t b))

/-- Inputs that act while the device is held at boot (R366). -/
def actsAtBoot (i : Instr) : Bool := match i with
  | .coldReset _ => true
  | .configurationRequest _ => true
  | _ => false
/-- What a step does when no soft error strikes. Until bring-up has made the device ready only a cold reset and configuration requests act (R366). -/
def act (s : State) : Out :=
  match s.agenda with
  | i :: rest => if i.isEvent && (s.mgmt.ready || actsAtBoot i) then exec i { s with agenda := rest } else .next { s with agenda := rest }
  | [] => match s.focus.bind s.team? with
    | some t => stepTeam s t
    | none => match nextInternal { s with focus := none } with
      | some i => exec i { s with focus := none }
      | none => .next ({ s with focus := none }.tick 1)

/-- One step (R176, R201). -/
def step (s : State) : Host.Outcome State Fault Refusal :=
  match s.soft with
  | e :: rest => .next (applySoft { s with soft := rest } e)
  | [] => act s

/-- The state in which the selected team (or a team as placement gives it) stands at an instruction with the given bits, its line fetched. -/
def State.withFetchWord (s : State) (_nbits w : Nat) : State :=
  let (s, t) := withSelected s
  ({ s with agenda := [], soft := [] } : State).putTeam
    { t with line := some ⟨t.flow.pc.line, t.flow.did, lineHolding t.flow.pc.slot (BitVec.ofNat 96 w), none, false⟩ }

end Sys2Proof.Machine
end

