-- ==== Sys2Proof/Safety.lean ====
section
/-! DEFINITION. What counts as a safe run, and the words in which the statements speak: a team that may run its next instruction, what an instruction leaves alone, and the form that every memory keeps. -/

namespace Sys2Proof.Machine

/-- The invariant of the machine: the memory of the stacks keeps its one canonical form. -/
def State.Inv (s : State) : Prop := s.mem.wf = true

/-- A step that neither faults nor refuses. -/
def goesOn (s : State) : Prop := ∃ s', step s = .next s'

/-- The team as the body of its instruction sees it: woken from a hold; every instruction but CARVE clears the mark of RVWAIT (R128). -/
def Team.issued (t : Team) (i : Instr) (s : State) : Team :=
  { t.unhold s.clock.ac with sync := { t.sync with rvLive := keepsRvMark i && t.sync.rvLive } }

/-- Team t is selected and may issue the legal instruction i: a gate and an unfinished graft operation allow it (R307, R332), and no register it names is still to be written by an engine operation (R54). -/
structure Runs (i : Instr) (s : State) (t : Team) : Prop where
  focus : s.focus = some t.tid
  here : s.team? t.tid = some t
  legal : i.wf = true
  inGate : t.gate.isSome = true → gateAllows i = true
  graft : t.gate = none → t.graft.pending.isSome = true → graftAllows i = true
  free : interlocked s (t.unhold s.clock.ac) i = false

/-- What an instruction leaves of its team whatever registers, pc and mask it writes: where and as what the team was placed, and its other state but for its time and RVWAIT's mark. -/
structure TeamKeeps (t t' : Team) : Prop where
  tid : t'.tid = t.tid
  place : t'.place = t.place
  foot : t'.foot = t.foot
  grans : t'.grans = t.grans
  stamp : t'.stamp = t.stamp
  schk : t'.schk = t.schk
  trap : t'.trap = t.trap
  region : t'.region = t.region
  gate : t'.gate = t.gate
  gcause : t'.gcause = t.gcause
  ops : t'.ops = t.ops
  sync : { t'.sync with rvLive := false } = { t.sync with rvLive := false }
  graft : t'.graft = t.graft
  mat : t'.mat = t.mat
  line : t'.line = t.line
  status : t'.sched.status = t.sched.status
  wish : t'.sched.wish = t.sched.wish
/-- The control state but the pc is as it was. -/
def FlowKeeps (t t' : Team) : Prop := { t'.flow with pc := t.flow.pc, entered := t.flow.entered } = t.flow
/-- The team goes on at the next slot with its control state as it was, awake. -/
def FallsThrough (t t' : Team) : Prop := FlowKeeps t t' ∧ t'.flow.pc = t.flow.pc.next ∧ t'.sched.hold = none

/-- Every team but one is as it was. -/
def OtherTeams (tid : Nat) (s s' : State) : Prop := ∀ k, k ≠ tid → s'.team? k = s.team? k
/-- Every core is as it was but for the issue time it counts (R320). -/
def CoresKeep (s s' : State) : Prop := ∀ c, { s'.core c with issue := [] } = { s.core c with issue := [] }
/-- What an instruction that acts on its own team alone leaves of the device: all memory, all other teams, all units; time passes. -/
structure DeviceKeeps (tid : Nat) (s s' : State) : Prop where
  agenda : s'.agenda = s.agenda
  soft : s'.soft = s.soft
  focus : s'.focus = s.focus
  uid : s'.uid = s.uid
  nextQuad : s'.nextQuad = s.nextQuad
  log : s'.log = s.log
  mem : s'.mem = s.mem
  badPages : s'.badPages = s.badPages
  teams : OtherTeams tid s s'
  cores : CoresKeep s s'
  clusters : s'.clusters = s.clusters
  dies : s'.dies = s.dies
  gov : s'.gov = s.gov
  mgmt : s'.mgmt = s.mgmt
  reports : s'.reports = s.reports

/-- Instruction i of team t executes to a next state in which the team is t'; nothing changes but that team's registers, control state and time. -/
def RunsTo (i : Instr) (s : State) (t : Team) (P : Team → Prop) : Prop :=
  ∃ s' t', exec i s = .next s' ∧ s'.team? t.tid = some t' ∧ TeamKeeps t t' ∧ DeviceKeeps t.tid s s' ∧ P t'

end Sys2Proof.Machine
end

