-- ==== Sys2Proof/Certificates/Slice0/Obligations.lean ====
section
/-! DEFINITION. The statements for the provers, with the words they share. -/

open Sys2Proof Sys2Proof.Machine

/-! ## Vector instructions -/

namespace Sys2Proof.Claims

/-- The elementwise V instructions of R136 with their form, operand uses, whether B stays a register under IB, and operation under a team's FMT. -/
def elementwise (i : Instr) : Option (VForm × Uses × Bool × (Team → VOp)) :=
  match i with
  | .vadd f => some (f, usesDAB, false, opVadd f)
  | .vsub f => some (f, usesDAB, false, opVsub f)
  | .vmul f => some (f, usesDAB, false, opVmul f)
  | .vmulh f => some (f, usesDAB, false, opVmulh f)
  | .vmad f => some (f, usesDABC, false, opVmad f)
  | .vmin f => some (f, usesDAB, false, opVmin f)
  | .vmax f => some (f, usesDAB, false, opVmax f)
  | .vand f => some (f, usesDAB, false, opVand f)
  | .vor f => some (f, usesDAB, false, opVor f)
  | .vxor f => some (f, usesDAB, false, opVxor f)
  | .vandn f => some (f, usesDAB, false, opVandn f)
  | .vshl f => some (f, usesDAB, false, opVshl f)
  | .vshr f => some (f, usesDAB, false, opVshr f)
  | .vsra f => some (f, usesDAB, false, opVsra f)
  | .vrot f => some (f, usesDAB, false, opVrot f)
  | .vclz f => some (f, usesDA, false, opVclz f)
  | .vpop f => some (f, usesDA, false, opVpop f)
  | .vbrev f => some (f, usesDA, false, opVbrev f)
  | .vbfx f => some (f, usesDAB, false, opVbfx f)
  | .vbfi f => some (f, usesDABC, false, opVbfi f)
  | .vsel f => some (f, ⟨.block, .block, .block, .anyPred⟩, false, opVsel f)
  | .vmov f => some (f, usesDA, false, opVmov f)
  | .vlop3 f => some (f, usesDABC, true, opVlop3 f)
  | .vidx f => some (f, ⟨.block, .unused, .unused, .unused⟩, false, opVidx f)
  | .vdot4 f => some (f, usesDABC, false, opVdot4 f)
  | .fadd f => some (f, usesDAB, false, opFadd f)
  | .fsub f => some (f, usesDAB, false, opFsub f)
  | .fmul f => some (f, usesDAB, false, opFmul f)
  | .fma f => some (f, usesDABC, false, opFma f)
  | .fmin f => some (f, usesDAB, false, opFmin f)
  | .fmax f => some (f, usesDAB, false, opFmax f)
  | .fclass f => some (f, usesDA, false, opFclass f)
  | .frcp f => some (f, usesDA, false, opApprox .rcp f)
  | .frsq f => some (f, usesDA, false, opApprox .rsq f)
  | .fsqrt f => some (f, usesDA, false, opFsqrt f)
  | .fdiv f => some (f, usesDAB, false, opFdiv f)
  | .fex2 f => some (f, usesDA, false, opApprox .ex2 f)
  | .flg2 f => some (f, usesDA, false, opApprox .lg2 f)
  | .fsin f => some (f, usesDA, false, opApprox .sin f)
  | .fcos f => some (f, usesDA, false, opApprox .cos f)
  | .ftnh f => some (f, usesDA, false, opApprox .tnh f)
  | .frnd f => some (f, usesDA, false, opFrnd f)
  | .cvt f => some (f, usesDA, false, opCvt f)
  | .fscl f => some (f, usesDAB, false, opFscl f)
  | .fdot2 f => some (f, usesDABC, false, opFdot2 f)
  | _ => none

/-- The register files after a V instruction has written some vector registers: value gives, for a register and a row, the element written there. -/
def VectorWritten (t t' : Team) (value : Nat → Nat → Option Elem) : Prop :=
  t'.regs.s = t.regs.s ∧ t'.regs.p = t.regs.p ∧ t'.regs.q = t.regs.q
    ∧ ∀ r, t'.regs.v[r]? = (t.regs.v[r]?).map fun (col : List Elem) => col.mapIdx fun row old => (value r row).getD old
/-- The scalar registers after an S instruction has written some: value gives the element written to a register. -/
def ScalarWritten (t t' : Team) (value : Nat → Option Elem) : Prop :=
  t'.regs.v = t.regs.v ∧ t'.regs.p = t.regs.p ∧ t'.regs.q = t.regs.q
    ∧ ∀ r, t'.regs.s[r]? = (t.regs.s[r]?).map fun old => (value r).getD old

/-- The sources of each element of an elementwise instruction. -/
def srcsOf (f : VForm) (o : VOp) : List ElemSrc := elemSrcs f o.uses o.keepB o.readsD
/-- Its passes. -/
def passesOf (f : VForm) (o : VOp) (t : Team) : VPlan := planOf t ((srcsOf f o).map ElemSrc.regs) true (narrows t o.width)
/-- A pass would read a register whose fixed-latency result is not readable, and SCHK.CHECK traps that (R55). -/
def trapsEarly (t : Team) (p : VPlan) (srcs : List (List Nat)) : Bool := p.early srcs && t.schk.getLsbD 0

/-- Lane k of a word, w bits wide. -/
def lane (w k : Nat) (x : Word) : BitVec w := x.extractLsb' (w * k) w
/-- What R140 gives for each lane of w bits, signed or not, for the integer instructions with an effect lane by lane. -/
def laneOp (i : Instr) (w : Nat) (sg : Bool) (a b c : BitVec w) : Option (BitVec w) :=
  match i with
  | .vadd _ => some (a + b)
  | .vsub _ => some (a - b)
  | .vmul _ => some (a * b)
  | .vmulh _ => some (if sg then (a.signExtend (2 * w) * b.signExtend (2 * w)).extractLsb' w w
                      else (a.setWidth (2 * w) * b.setWidth (2 * w)).extractLsb' w w)
  | .vmad _ => some (a * b + c)
  | .vmin _ => some (if (if sg then b.slt a else b.ult a) then b else a)
  | .vmax _ => some (if (if sg then a.slt b else a.ult b) then b else a)
  | .vand _ => some (a &&& b)
  | .vor _ => some (a ||| b)
  | .vxor _ => some (a ^^^ b)
  | .vandn _ => some (a &&& ~~~b)
  | .vshl _ => some (a <<< (b.toNat % w))
  | .vshr _ => some (a >>> (b.toNat % w))
  | .vsra _ => some (a.sshiftRight (b.toNat % w))
  | .vrot _ => some (a.rotateLeft (b.toNat % w))
  | .vclz _ => some (BitVec.ofNat w ((List.range w).findIdx fun k => a.getMsbD k))
  | .vpop _ => some (BitVec.ofNat w ((List.range w).countP fun k => a.getLsbD k))
  | .vbrev _ => some a.reverse
  | _ => none

end Sys2Proof.Claims

/-- R134, R42, R69, R137: an elementwise V instruction whose FMT suits it completes: it goes on at the next slot, and of the vector registers it writes exactly its D block on the participating rows, each element from that row's own sources as they stood before; nothing else of the team or the device changes. -/
def Obligations.VectorElementwiseCompletes : Prop :=
  ∀ (i : Instr) (f : VForm) (u : Uses) (k : Bool) (o : Team → VOp) (fn : ElemFn) (s : State) (t : Team),
    Claims.elementwise i = some (f, u, k, o) → Runs i s t → vOperandsOk u k f t = true → vSuppressed f t = false →
    (o (t.issued i s)).fn = some fn →
    Claims.trapsEarly (t.issued i s) (Claims.passesOf f (o (t.issued i s)) (t.issued i s)) ((Claims.srcsOf f (o (t.issued i s))).map ElemSrc.regs) = false →
    RunsTo i s t fun t' => FallsThrough t t' ∧ Claims.VectorWritten t t' fun r row =>
      if (t.part f.prd).getLsbD row then
        ((fieldRegs f f.d).idxOf? r).bind fun e => ((Claims.srcsOf f (o (t.issued i s)))[e]?).map fun src =>
          elemResult s (Claims.passesOf f (o (t.issued i s)) (t.issued i s)) f fn src e row
      else none

namespace Sys2Proof.Claims

/-- Width and signedness of the integer lanes of a code that FMT may name for a V instruction: INT8, N8, INT32 (R87, R135). -/
def fmtLane (n : Nat) : Option (Nat × Bool) := match n with
  | 6 => some (8, true)
  | 7 => some (8, false)
  | 9 => some (32, true)
  | _ => none
/-- R140, R135: the exact lane value of an integer instruction under TY 7, and whether FMT.saturate clamps it. -/
def fmtLaneOp (i : Instr) (w : Nat) (a b c : Int) : Option (Int × Bool) := match i with
  | .vadd _ => some (a + b, true)
  | .vsub _ => some (a - b, true)
  | .vmul _ => some (a * b, true)
  | .vmad _ => some (a * b + c, true)
  | .vmulh _ => some (a * b / 2 ^ w, false)
  | .vmin _ => some (if b < a then b else a, true)
  | .vmax _ => some (if a < b then b else a, true)
  | _ => none

end Sys2Proof.Claims

/-- R140, R135, R87, R93, R141: under an integer lane type each lane of a result is the sum, difference, product, shift, count and so on of the same lanes of the sources, wrapped to the lane's width, when every earlier result of the team is readable. Under TY 7 each lane of VADD, VSUB, VMUL, VMAD, VMIN, VMAX and VMULH is formed exactly from A in FMT.aformat, B in FMT.bformat and C in FMT.result's format, and then clamped to the range of FMT.result when FMT.saturate is set, VMULH's apart, else wrapped to its width. Bit fields, table lookup, dot product, select, move and row number give the elements that the pseudocode gives. That VSEL's result has the poison of the element chosen alone is the model's reading of R201 beside R137, DEDUCED, log 16. -/
def Obligations.VectorIntegerResults : Prop :=
  (∀ (i : Instr) (f : VForm) (u : Uses) (k : Bool) (o : Team → VOp) (s : State) (t : Team) (w : Nat) (sg : Bool) (e r row j : Nat) (x : BitVec w),
    Claims.elementwise i = some (f, u, k, o) → Runs i s t → vOperandsOk u k f t = true → vSuppressed f t = false → t.sched.pend = [] →
    f.ty ∈ laneTys → intLane f.ty = (w, sg) → (fieldRegs f f.d)[e]? = some r → (t.part f.prd).getLsbD row = true → j < 32 / w →
    (∃ col, t.regs.v[r]? = some col ∧ row < col.length) →
    Claims.laneOp i w sg (Claims.lane w j (t.vget ((aRegs f).getD e 0) row).bits)
      (Claims.lane w j (if f.ib then f.imm else (t.vget ((fieldRegs f f.b).getD e 0) row).bits))
      (Claims.lane w j (t.vget ((fieldRegs f f.c).getD e 0) row).bits) = some x →
    RunsTo i s t fun t' => Claims.lane w j (t'.vget r row).bits = x)
  ∧ (∀ (i : Instr) (f : VForm) (u : Uses) (k : Bool) (o : Team → VOp) (s : State) (t : Team) (w e r row j : Nat) (sa sb sr clamps : Bool) (a b c v : Int),
    Claims.elementwise i = some (f, u, k, o) → Runs i s t → vOperandsOk u k f t = true → vSuppressed f t = false → t.sched.pend = [] → f.ty = .fmt →
    Claims.fmtLane (fmtA t) = some (w, sa) → Claims.fmtLane (fmtB t) = some (w, sb) → Claims.fmtLane (fmtR t) = some (w, sr) →
    (fieldRegs f f.d)[e]? = some r → (t.part f.prd).getLsbD row = true → j < 32 / w → (∃ col, t.regs.v[r]? = some col ∧ row < col.length) →
    a = intOf w sa (laneNat w j (t.vget ((aRegs f).getD e 0) row).bits) →
    b = intOf w sb (laneNat w j (if f.ib then f.imm else (t.vget ((fieldRegs f f.b).getD e 0) row).bits)) →
    c = intOf w sr (laneNat w j (t.vget ((fieldRegs f f.c).getD e 0) row).bits) →
    Claims.fmtLaneOp i w a b c = some (v, clamps) →
    RunsTo i s t fun t' => laneNat w j (t'.vget r row).bits = intBits w (if clamps = true ∧ t.flow.fmt.getLsbD 15 = true then clampInt w sr v else v))
  ∧ (∀ (t : Team) (f : VForm) (rnd : Nat → DWord) (row : Nat) (a b c : Elem),
    (∀ pos wid : Nat, pos = (b.bits.extractLsb' 16 6).toNat → wid = min ((b.bits.extractLsb' 0 6).toNat + 1) (32 - pos) →
      (∃ g, (opVbfx f t).fn = some g ∧ (g rnd row a b c).bits =
        if 32 ≤ pos then 0 else if f.ty = .i32 then ((a.bits >>> pos).setWidth wid).signExtend 32 else ((a.bits >>> pos).setWidth wid).setWidth 32)
      ∧ ∃ g, (opVbfi f t).fn = some g ∧ ∀ k, k < 32 → (g rnd row a b c).bits.getLsbD k =
          if pos ≤ k ∧ k < pos + wid then a.bits.getLsbD (k - pos) else c.bits.getLsbD k)
    ∧ (∃ g, (opVlop3 f t).fn = some g ∧ ∀ k, k < 32 → (g rnd row a b c).bits.getLsbD k =
        f.imm.getLsbD ((a.bits.getLsbD k).toNat + 2 * (b.bits.getLsbD k).toNat + 4 * (c.bits.getLsbD k).toNat))
    ∧ (∃ g, (opVdot4 f t).fn = some g ∧ (g rnd row a b c).bits = c.bits + ((List.range 4).map fun k =>
        (if f.sub = 0 ∨ f.sub = 2 then (Claims.lane 8 k a.bits).signExtend 32 else (Claims.lane 8 k a.bits).setWidth 32)
          * (if f.sub = 0 ∨ f.sub = 1 then (Claims.lane 8 k b.bits).signExtend 32 else (Claims.lane 8 k b.bits).setWidth 32)).sum)
    ∧ (∃ g, (opVsel f t).fn = some g ∧ g rnd row a b c = if (t.prednum f.c.toNat).getLsbD row then a else b)
    ∧ (∃ g, (opVmov f t).fn = some g ∧ g rnd row a b c = a)
    ∧ (∃ g, (opVidx f t).fn = some g ∧ g rnd row a b c = Elem.clean (BitVec.ofNat 32 row)))

namespace Sys2Proof.Claims

/-- The registers that a vector compare reads. -/
def cmpSrc (f : VForm) : ElemSrc := (elemSrcs f ⟨.rowPred, .block, .block, .unused⟩ false false).getD 0 ⟨none, none, none⟩
/-- The passes of a vector compare. -/
def cmpPlan (f : VForm) (t : Team) : VPlan := planOf t ((elemSrcs f ⟨.rowPred, .block, .block, .unused⟩ false false).map ElemSrc.regs) true false

end Sys2Proof.Claims

/-- R142, R144, R95, R69, R137, R55: a compare of clean sources writes row predicate D on the participating rows and nothing else; a NaN makes .ne true and the other conditions false, and a write of p7 is discarded. A row with a poisoned source takes fault 0x38 for the rows so poisoned, and a source whose fixed-latency result is not yet readable takes 0x05 when SCHK.CHECK is set; with no result outstanding the sources are the row's registers as they stand. -/
def Obligations.VectorCompareCompletes : Prop :=
  ∀ (f : VForm) (s : State) (t u : Team) (i : Instr) (rel : Word → Word → Rel) (p : VPlan) (a b : Nat → Elem),
    (i = .vcmp f ∧ rel = (fun a b => relInt (wordInt (f.ty == .i32) a) (wordInt (f.ty == .i32) b))
      ∨ i = .fcmp f ∧ rel = fun a b => (numIn fp32 (fmtFtz t) a.toNat).rel (numIn fp32 (fmtFtz t) b.toNat)) →
    Runs i s t → vOperandsOk ⟨.rowPred, .block, .block, .unused⟩ false f t = true → vSuppressed f t = false →
    u = t.issued i s → p = Claims.cmpPlan f u → (a = fun row => operand s p 0 0 row (Claims.cmpSrc f).a 0) → (b = fun row => operand s p 0 1 row (Claims.cmpSrc f).b f.imm) →
    (Claims.trapsEarly u p [(Claims.cmpSrc f).regs] = true → exec i s = raise s u 0x05)
    ∧ (Claims.trapsEarly u p [(Claims.cmpSrc f).regs] = false → (∃ row, row < t.foot.rows ∧ (t.part f.prd).getLsbD row = true ∧ ((a row).poison || (b row).poison) = true) →
        ∃ bad : RowMask, exec i s = raiseRows s u 0x38 bad none
          ∧ ∀ row, row < 1024 → bad.getLsbD row = (decide (row < t.foot.rows) && (t.part f.prd).getLsbD row && ((a row).poison || (b row).poison)))
    ∧ (Claims.trapsEarly u p [(Claims.cmpSrc f).regs] = false → (∀ row, row < t.foot.rows → (t.part f.prd).getLsbD row = true → ((a row).poison || (b row).poison) = false) →
        RunsTo i s t fun t' => FallsThrough t t' ∧ t'.regs.v = t.regs.v ∧ t'.regs.s = t.regs.s ∧ t'.regs.q = t.regs.q
          ∧ (∀ k, k ≠ f.d.toNat → t'.regs.p[k]? = t.regs.p[k]?) ∧ (f.d.toNat = 7 → t'.regs.p = t.regs.p)
          ∧ ∀ m, f.d.toNat < 7 → t.regs.p[f.d.toNat]? = some m → ∃ m', t'.regs.p[f.d.toNat]? = some m' ∧ ∀ row, row < 1024 →
              m'.getLsbD row = if (t.part f.prd).getLsbD row ∧ row < t.foot.rows then condHolds f.sub (rel (a row).bits (b row).bits)
                else if (t.part f.prd).getLsbD row then false else m.getLsbD row)
    ∧ (t.sched.pend = [] → Claims.trapsEarly u p [(Claims.cmpSrc f).regs] = false
        ∧ ∀ row, a row = t.vget f.a.toNat row ∧ b row = if f.ib then Elem.clean f.imm else t.vget f.b.toNat row)

namespace Sys2Proof.Claims

/-- A V instruction whose results depend on whole registers of its rows: its form, its sources and destinations, whether stochastic rounding lengthens it, the rows it faults on, and the words each row receives (R136, R148, R149, R155 to R159). -/
structure Fixed where
  form : VForm
  ok : Bool
  srcs : List Nat
  dsts : List Nat
  narrow : Bool
  bad : (Nat → RowRegs) → List Nat → List Nat
  words : (Nat → RowRegs) → List Nat → (Nat → Nat → DWord) → Nat → List Word
/-- The fixed-shape V instructions that read vector registers; none when FMT does not suit QBLK or DQBLK. -/
def fixedShape (i : Instr) (t : Team) : Option Fixed :=
  match i with
  | .qblk f => (blockShape t (fmtA t) (fmtR t)).map fun b =>
      ⟨f, qblkOk f t, runRegs f.a.toNat (b.2.2 * b.1.width / 32), runRegs f.d.toNat (b.2.2 * b.2.1.width / 32) ++ [f.b.toNat], narrows t b.2.1.width, noneBad,
       fun rd _ rnd row => qblkRow t b.1 b.2.1 b.2.2 (rd row) (rnd row)⟩
  | .dqblk f => (blockShape t (fmtR t) (fmtA t)).map fun b =>
      ⟨f, dqblkOk f t, runRegs f.a.toNat (b.2.2 * b.2.1.width / 32) ++ [f.b.toNat], runRegs f.d.toNat (b.2.2 * b.1.width / 32), narrows t b.1.width, noneBad,
       fun rd _ rnd row => dqblkRow t b.2.1 b.1 b.2.2 (rd row) (rnd row)⟩
  | .matchRows f => some ⟨f, fixedOk 1 1 0 f t, [f.a.toNat], [f.d.toNat], false, noneBad, fun rd rl _ row => matchRow f t rd rl row⟩
  | .vsort f => some ⟨f, fixedOk 2 1 0 f t, [f.a.toNat], [f.d.toNat, f.d.toNat + 1], false, noneBad, fun rd rl _ row => vsortRow f t rd rl row⟩
  | .bsrch f => some ⟨f, fixedOk 1 1 1 f t, f.a.toNat :: (if f.ib then [] else [f.b.toNat]), [f.d.toNat], false, noneBad,
      fun rd rl _ row => bsrchRow f t rd rl row⟩
  | .spack f => some ⟨f, fixedOk 6 8 0 f t, runRegs f.a.toNat 8, runRegs f.d.toNat 6, narrows t (spackWidth f.ty), noneBad, fun rd _ _ row => spackRow f (fmtFtz t) (rd row)⟩
  | .spexp f => some ⟨f, fixedOk 8 6 0 f t, runRegs f.a.toNat 6, runRegs f.d.toNat 8, narrows t (spackWidth f.ty), spexpBad f, fun rd _ _ row => spexpRow f (rd row)⟩
  | _ => none
/-- The passes of a fixed-shape instruction. -/
def fixedPlan (x : Fixed) (t : Team) : VPlan := planOf t (x.dsts.map fun _ => x.srcs) false x.narrow
/-- The block instructions that exchange values between rows (R150 to R152): form, uses, whether B is read, and the result of an element on a row from the reads of A and B. -/
def crossRow (i : Instr) (t : Team) : Option (VForm × Uses × Bool × (List Nat → (Nat → Nat → Elem) → (Nat → Nat → Elem) → Nat → Nat → Elem)) :=
  match i with
  | .shfl f => some (f, usesDAB, true, shflRes f)
  | .vstep f => some (f, usesDA, false, vstepRes f t)
  | .pfx f => some (f, usesDA, false, pfxRes f t)
  | _ => none
/-- The sources of each element of a cross-row instruction. -/
def crossSrcs (f : VForm) (hasB : Bool) : List ElemSrc := elemSrcs f ⟨.block, .block, if hasB then .block else .unused, .unused⟩ false false
/-- Its passes. -/
def crossPlan (f : VForm) (hasB : Bool) (t : Team) : VPlan := planOf t ((crossSrcs f hasB).map ElemSrc.regs) true false
/-- The participating rows of a V instruction in ascending order (R134). -/
def rowsOf (f : VForm) (t : Team) : List Nat := rowList (t.part f.prd) t.foot.rows

end Sys2Proof.Claims

/-- R134, R136, R137, R69: a fixed-shape V instruction whose FMT suits it and none of whose rows is at fault completes: it writes exactly its destination run on the participating rows, poisoned in every one of them when any element read was poisoned, and nothing else. That QBLK and DQBLK do not look at FMT.bformat is the model's choice (assumption log 113). -/
def Obligations.VectorFixedShapeCompletes : Prop :=
  ∀ (i : Instr) (x : Claims.Fixed) (s : State) (t : Team),
    Claims.fixedShape i (t.issued i s) = some x → Runs i s t → x.ok = true → vSuppressed x.form t = false →
    Claims.trapsEarly (t.issued i s) (Claims.fixedPlan x (t.issued i s)) (x.dsts.map fun _ => x.srcs) = false →
    x.bad (rowRegs s (Claims.fixedPlan x (t.issued i s)) x.srcs) (Claims.rowsOf x.form t) = [] →
    RunsTo i s t fun t' => FallsThrough t t' ∧ Claims.VectorWritten t t' fun r row =>
      if (t.part x.form.prd).getLsbD row then
        ((x.dsts.zipIdx.reverse).find? fun d => d.1 == r).map fun d =>
          ⟨(x.words (rowRegs s (Claims.fixedPlan x (t.issued i s)) x.srcs) (Claims.rowsOf x.form t) (fun row k => s.draw (row * 256 + k)) row).getD d.2 0,
           (Claims.rowsOf x.form t).any fun q => (rowRegs s (Claims.fixedPlan x (t.issued i s)) x.srcs q).any fun e => e.poison⟩
      else none

/-- R134, R150 to R152, R69: SHFL, VSTEP and PFX complete: they write exactly their D block on the participating rows, each result formed from the participating rows alone as those stood before, and nothing else. One poisoned element read poisons every result (R137); that this holds for SHFL, of which R201 says that shuffles copy poison with their bits, is the model's reading of the two, DEDUCED, log 16. -/
def Obligations.VectorCrossRowCompletes : Prop :=
  ∀ (i : Instr) (f : VForm) (u : Uses) (hasB : Bool) (res : List Nat → (Nat → Nat → Elem) → (Nat → Nat → Elem) → Nat → Nat → Elem) (s : State) (t : Team),
    Claims.crossRow i (t.issued i s) = some (f, u, hasB, res) → Runs i s t → vOperandsOk u false f t = true → vSuppressed f t = false →
    Claims.trapsEarly (t.issued i s) (Claims.crossPlan f hasB (t.issued i s)) ((Claims.crossSrcs f hasB).map ElemSrc.regs) = false →
    RunsTo i s t fun t' => FallsThrough t t' ∧ Claims.VectorWritten t t' fun r row =>
      if (t.part f.prd).getLsbD row then
        ((fieldRegs f f.d).idxOf? r).map fun e =>
          res (Claims.rowsOf f t)
            (fun e row => operand s (Claims.crossPlan f hasB (t.issued i s)) e 0 row ((Claims.crossSrcs f hasB).getD e ⟨none, none, none⟩).a 0)
            (fun e row => operand s (Claims.crossPlan f hasB (t.issued i s)) e 1 row ((Claims.crossSrcs f hasB).getD e ⟨none, none, none⟩).b f.imm) e row
      else none

/-- R153, R154: BALLOT writes into D of each participating row, clean, the word whose bit b tells whether row 32 (r div 32) + b participates and the predicate is true in it; nothing else is written. VOTE sets team predicate D by whether the predicate holds in some, in every, alike in all, or in an odd number of the participating rows; a write of q7 is discarded and nothing else is written. A D outside 8 to 15 takes fault 0x02 and a TY other than 0 fault 0x01. -/
def Obligations.BallotVoteComplete : Prop :=
  (∀ (f : VForm) (s : State) (t : Team), Runs (.ballot f) s t → vOperandsOk ⟨.run 1, .anyPred, .unused, .unused⟩ false f t = true → vSuppressed f t = false →
    RunsTo (.ballot f) s t fun t' => FallsThrough t t' ∧ ∃ word : Nat → Word,
      (Claims.VectorWritten t t' fun r row => if (t.part f.prd).getLsbD row ∧ r = f.d.toNat then some (Elem.clean (word row)) else none)
      ∧ ∀ row b, row < 1024 → b < 32 → (word row).getLsbD b
          = (decide (32 * (row / 32) + b ∈ Claims.rowsOf f t) && (t.prednum f.a.toNat).getLsbD (32 * (row / 32) + b)))
  ∧ (∀ (f : VForm) (s : State) (t : Team),
    (f.ty ≠ .i32 → s.focus = some t.tid → s.team? t.tid = some t → exec (.vote f) s = raiseAt s (t.unhold s.clock.ac) ⟨0x01, false, 0, t.flow.mask, none, false⟩)
    ∧ (Runs (.vote f) s t → vSuppressed f t = false → ¬(8 ≤ f.d.toNat ∧ f.d.toNat ≤ 15) →
      exec (.vote f) s = raiseAt s (t.unhold s.clock.ac) ⟨0x02, false, 0, t.flow.mask, none, false⟩)
    ∧ (Runs (.vote f) s t → vOperandsOk ⟨.teamPred, .anyPred, .unused, .unused⟩ false f t = true → vSuppressed f t = false →
    RunsTo (.vote f) s t fun t' => FallsThrough t t' ∧ t'.regs.v = t.regs.v ∧ t'.regs.s = t.regs.s ∧ t'.regs.p = t.regs.p
      ∧ (∀ k, k < 7 → k + 8 ≠ f.d.toNat → t'.qget k = t.qget k)
      ∧ ∀ holds : List Nat, holds = (Claims.rowsOf f t).filter (fun row => (t.prednum f.a.toNat).getLsbD row) → f.d.toNat < 15 →
        (t'.qget (f.d.toNat - 8) = true ↔ match f.sub.toNat with
          | 0 => holds ≠ []
          | 1 => holds = Claims.rowsOf f t
          | 2 => holds = [] ∨ holds = Claims.rowsOf f t
          | _ => holds.length % 2 = 1)))

/-- R48 to R51: a paired word whose halves FMT suits completes: both halves read the registers as they stood before, element after element half 0 writes on the rows its predicate selects and then half 1 on its own, so that of two writes to one register the later element's stands and of two in one element half 1's; nothing else changes. -/
def Obligations.PairedWordCompletes : Prop :=
  ∀ (f : PairForm) (s : State) (t : Team) (g0 g1 : ElemFn) (o0 o1 : VOp) (p : VPlan),
    Runs (.pairedWord f) s t → pairOk f t = true → o0 = halfOp f.h0.sop f.h0.form (t.issued (.pairedWord f) s) →
    o1 = halfOp f.h1.sop f.h1.form (t.issued (.pairedWord f) s) → o0.fn = some g0 → o1.fn = some g1 →
    p = planOf (t.issued (.pairedWord f) s) (((elemSrcs f.h0.form o0.uses false o0.readsD).zip (elemSrcs f.h1.form o1.uses false o1.readsD)).map fun x => x.1.regs ++ x.2.regs)
      false (narrows (t.issued (.pairedWord f) s) o0.width || narrows (t.issued (.pairedWord f) s) o1.width) →
    Claims.trapsEarly t p ((elemSrcs f.h0.form o0.uses false o0.readsD).map ElemSrc.regs) = false →
    Claims.trapsEarly t p ((elemSrcs f.h1.form o1.uses false o1.readsD).map ElemSrc.regs) = false →
    RunsTo (.pairedWord f) s t fun t' => FallsThrough t t' ∧ Claims.VectorWritten t t' fun r row =>
      let half := fun (h : Half) (o : VOp) (g : ElemFn) (s : State) =>
        if (t.part h.form.prd).getLsbD row then
          ((fieldRegs h.form h.form.d).idxOf? r).bind fun e => ((elemSrcs h.form o.uses false o.readsD)[e]?).map fun src => elemResult s p h.form g src e row
        else none
      let later := match (fieldRegs f.h0.form f.h0.form.d).idxOf? r, (fieldRegs f.h1.form f.h1.form.d).idxOf? r with
        | some e0, some e1 => decide (e1 < e0)
        | _, _ => false
      if later then (half f.h0 o0 g0 s).or (half f.h1 o1 g1 (s.drawn (2 ^ 27))) else (half f.h1 o1 g1 (s.drawn (2 ^ 27))).or (half f.h0 o0 g0 s)

/-! ## Floating-point values -/

namespace Sys2Proof.Claims

/-- The rational number that a finite value is. -/
def ratOf (x : FVal) : Option Rat := match x with
  | .fin n m e => some ((if n then -1 else 1) * (m : Rat) * (2 : Rat) ^ e)
  | _ => none
/-- The rational number that the bits of a format encode, none for an infinity or a NaN (R88). -/
def codeRat (f : FFmt) (x : Nat) : Option Rat := ratOf (numOf f x)
/-- Distance of two numbers. -/
def gap (a b : Rat) : Rat := if a ≤ b then b - a else a - b
/-- Not beyond the largest finite value of a format (R93). -/
def within (f : FFmt) (v : Rat) : Prop := ∃ m, codeRat f f.maxBits = some m ∧ gap 0 v ≤ m
/-- R92: x encodes the representable value to which v is rounded: the nearest one (on a tie that with an even last bit), that toward zero, the next above, the next below; under stochastic rounding either neighbour. Its sign is that of v. -/
def RoundsTo (f : FFmt) (mode : Nat) (stoch : Bool) (v : Rat) (x : Nat) : Prop :=
  x < 2 ^ f.width ∧ (x / 2 ^ (f.eb + f.mb) = if v < 0 then 1 else 0) ∧ ∃ q, codeRat f x = some q ∧ ∀ y z, y < 2 ^ f.width → codeRat f y = some z →
    if stoch then ¬(q < z ∧ z ≤ v) ∧ ¬(v ≤ z ∧ z < q)
    else match mode with
      | 0 => gap v q < gap v z ∨ z = q ∨ (gap v q = gap v z ∧ x % 2 = 0)
      | 1 => if 0 ≤ v then q ≤ v ∧ (z ≤ v → z ≤ q) else v ≤ q ∧ (v ≤ z → q ≤ z)
      | 2 => v ≤ q ∧ (v ≤ z → q ≤ z)
      | _ => q ≤ v ∧ (z ≤ v → z ≤ q)
/-- R92, R94: the bits that a result in a format gets from an exact value that is not zero and in range, under a team's FMT: rounded, FP32 never stochastically, and zero of its sign when FMT.ftz flushes what rounding leaves subnormal. -/
def Finishes (f : FFmt) (t : Team) (v : Rat) (x : Nat) : Prop :=
  ∃ y, RoundsTo f (fmtMode t) (t.flow.fmt.getLsbD 20 && f != fp32) v y
    ∧ x = if fmtFtz t && f.flushes && decide (y % 2 ^ (f.eb + f.mb) < 2 ^ f.mb) then y / 2 ^ (f.eb + f.mb) * 2 ^ (f.eb + f.mb) else y
/-- What a result lane is for an exact value: zero for zero, else the value finished when it is in range. -/
def Holds (f : FFmt) (t : Team) (v : Rat) (x : Nat) : Prop := (v = 0 → codeRat f x = some 0) ∧ (v ≠ 0 → within f v → Finishes f t v x)
/-- A number rounded to an integer by a rounding mode (R92, R143). -/
def rintRat (mode : Nat) (v : Rat) : Int := match mode with
  | 0 => let n := (v + 1 / 2).floor
         if (n : Rat) - v = 1 / 2 ∧ n % 2 = 1 then n - 1 else n
  | 1 => if v < 0 then v.ceil else v.floor
  | 2 => v.ceil
  | _ => v.floor
/-- The formats of A, B and the result lanes of a float instruction (R135, R143). -/
def floatFmts (t : Team) (f : VForm) : FFmt × FFmt × FFmt :=
  let of := fun n => match codeOf n with
    | some c => c.fmt
    | none => fp32
  if f.ty = .fmt then (of (fmtA t), of (fmtB t), of (fmtR t)) else (floatTy f.ty, floatTy f.ty, floatTy f.ty)
/-- R143: the exact value of a result lane, before it is rounded, from finite operands: sums, products, quotients, the smaller, the larger, the integral value, and the scaled one, n being B as an integer. -/
def exactFloat (i : Instr) (mode : Nat) (a b c : FVal) (n : Int) : Option Rat :=
  let two := fun (g : Rat → Rat → Option Rat) => (ratOf a).bind fun x => (ratOf b).bind (g x)
  match i with
  | .fadd _ => two fun x y => some (x + y)
  | .fsub _ => two fun x y => some (x - y)
  | .fmul _ => two fun x y => some (x * y)
  | .fma _ => two fun x y => (ratOf c).map (x * y + ·)
  | .fdiv _ => two fun x y => if y = 0 then none else some (x / y)
  | .fmin _ => two fun x y => some (if y < x then y else x)
  | .fmax _ => two fun x y => some (if x < y then y else x)
  | .frnd _ => (ratOf a).map fun x => (rintRat mode x : Rat)
  | .fscl _ => (ratOf a).map (· * (2 : Rat) ^ n)
  | _ => none
/-- R95: a NaN operand makes the result of these the canonical NaN; FMIN and FMAX only two of them. -/
def nanFloat (i : Instr) (a b c : FVal) : Bool := match i with
  | .fadd _ | .fsub _ | .fmul _ | .fdiv _ => a.isNan || b.isNan
  | .fma _ => a.isNan || b.isNan || c.isNan
  | .fmin _ | .fmax _ => a.isNan && b.isNan
  | .fsqrt _ | .frnd _ | .fscl _ => a.isNan
  | _ => false
/-- R144: the bit of a value's class, from what its bits encode: infinities, normal, subnormal and zero by sign, signalling and quiet NaN. -/
def classBit (f : FFmt) (x : Nat) : Nat :=
  let neg := x / 2 ^ (f.eb + f.mb) % 2 = 1
  match numOf f x with
  | .inf n => if n then 0 else 7
  | .nan => if x / 2 ^ (f.mb - 1) % 2 = 1 then 9 else 8
  | .fin _ m _ => if m = 0 then (if neg then 3 else 4) else if m < 2 ^ f.mb then (if neg then 2 else 5) else if neg then 1 else 6
/-- R147, R92 to R95: what CVT makes of the bits of a source lane. -/
def Converts (t : Team) (src dst : Code) (x y : Nat) : Prop := match src, dst with
  | .flt sf, .flt df => (numIn sf (fmtFtz t) x = .nan → y = df.nanBits) ∧ ∀ v, ratOf (numIn sf (fmtFtz t) x) = some v → Holds df t v y
  | .flt sf, .int w sg => (numIn sf (fmtFtz t) x = .nan → y = 0) ∧ ∀ v, ratOf (numIn sf (fmtFtz t) x) = some v →
      ∃ n : Int, y = intBits w (clampInt w sg n) ∧ if t.flow.fmt.getLsbD 20 ∧ w ≤ 8 then gap v n < 1 else n = rintRat (fmtMode t) v
  | .int w sg, .flt df => Holds df t (intOf w sg x : Rat) y
  | .int w sg, .int w' sg' => y = intBits w' (if fmtSat t then clampInt w' sg' (intOf w sg x) else intOf w sg x)

end Sys2Proof.Claims

/-- R143, R144, R146, R147, R87, R92 to R96: with every earlier result of the team readable, each lane of a float V instruction is the exact sum, product, quotient, minimum, maximum, integral value or scaled value of the same lanes of its sources, read under FMT.ftz and rounded once by R92 where it is in range; a NaN operand makes it the canonical NaN. FSQRT is the correctly rounded root; FDOT2 sums both products and C exactly and rounds once to FP32. FCLASS sets the one bit of the class of its lane (R144), and CVT converts lane by lane and keeps the other lanes of D (R147; that float to INT8, N8 and INT4 may round stochastically is R87's and R92's word over R147's, DEDUCED, log 61). That FRND takes the integral value by FMT.rounding although FMT.stochastic is set is the model's choice (assumption log 114). -/
def Obligations.VectorFloatResults : Prop :=
  (∀ (i : Instr) (f : VForm) (u : Uses) (k : Bool) (o : Team → VOp) (fn : ElemFn) (s : State) (t : Team) (fa fb fr : FFmt) (e r row j : Nat) (a b c : FVal) (n : Int),
    Claims.elementwise i = some (f, u, k, o) → Runs i s t → vOperandsOk u k f t = true → vSuppressed f t = false → t.sched.pend = [] →
    (o (t.issued i s)).fn = some fn → Claims.floatFmts t f = (fa, fb, fr) → (fieldRegs f f.d)[e]? = some r → (t.part f.prd).getLsbD row = true →
    j < 32 / fr.width → (∃ col, t.regs.v[r]? = some col ∧ row < col.length) →
    a = numIn fa (fmtFtz t) (laneNat fr.width j (t.vget ((aRegs f).getD e 0) row).bits) →
    b = numIn fb (fmtFtz t) (laneNat fr.width j (if f.ib then f.imm else (t.vget ((fieldRegs f f.b).getD e 0) row).bits)) →
    c = numIn fr (fmtFtz t) (laneNat fr.width j (t.vget ((fieldRegs f f.c).getD e 0) row).bits) →
    n = intOf fr.width true (laneNat fr.width j (if f.ib then f.imm else (t.vget ((fieldRegs f f.b).getD e 0) row).bits)) →
    RunsTo i s t fun t' => ∀ x, x = laneNat fr.width j (t'.vget r row).bits →
      (∀ v, Claims.exactFloat i (fmtMode t) a b c n = some v → Claims.Holds fr t v x)
      ∧ (Claims.nanFloat i a b c = true → x = fr.nanBits)
      ∧ (i = .fclass f → x = 2 ^ Claims.classBit fr (laneNat fr.width j (t.vget ((aRegs f).getD e 0) row).bits))
      ∧ (i = .fsqrt f → ∀ v, Claims.ratOf a = some v → 0 < v → ∃ y q, x = (if fmtFtz t ∧ fr.flushes = true ∧ y < 2 ^ fr.mb then 0 else y)
          ∧ y < 2 ^ (fr.eb + fr.mb) ∧ Claims.codeRat fr y = some q ∧ ∀ w z, w < 2 ^ (fr.eb + fr.mb) → Claims.codeRat fr w = some z →
            if t.flow.fmt.getLsbD 20 ∧ fr ≠ fp32 then ¬(q < z ∧ z * z ≤ v) ∧ ¬(v ≤ z * z ∧ z < q)
            else match fmtMode t with
              | 0 => (z < q → (q + z) * (q + z) ≤ 4 * v) ∧ (q < z → 4 * v ≤ (q + z) * (q + z))
              | 2 => v ≤ q * q ∧ (v ≤ z * z → q ≤ z)
              | _ => q * q ≤ v ∧ (z * z ≤ v → z ≤ q)))
  ∧ (∀ (t : Team) (f : VForm) (rnd : Nat → DWord) (row : Nat) (a b c : Elem) (g : ElemFn) (v : Nat → Nat → Rat) (w : Rat),
      (opFdot2 f t).fn = some g →
      (∀ k, k < 2 → Claims.ratOf (numIn (floatTy f.ty) (fmtFtz t) (laneNat 16 k a.bits)) = some (v 0 k) ∧ Claims.ratOf (numIn (floatTy f.ty) (fmtFtz t) (laneNat 16 k b.bits)) = some (v 1 k)) →
      Claims.ratOf (numIn fp32 (fmtFtz t) c.bits.toNat) = some w →
      Claims.Holds fp32 t (w + v 0 0 * v 1 0 + v 0 1 * v 1 1) (g rnd row a b c).bits.toNat)
  ∧ (∀ (t : Team) (f : VForm) (src dst : Code), cvtCodes f t = some (src, dst) → cvtShape src.width dst.width f.sub.toNat = true →
      ∃ g, (opCvt f t).fn = some g ∧ ∀ (rnd : Nat → DWord) (row : Nat) (a b d : Elem) (n : Nat), n = 32 / max src.width dst.width →
        (∀ j, j < n → Claims.Converts t src dst (laneNat src.width (if src.width < dst.width then f.sub.toNat * n + j else j) a.bits)
          (laneNat dst.width (if dst.width < src.width then f.sub.toNat * n + j else j) (g rnd row a b d).bits))
        ∧ (dst.width < src.width → ∀ l, l < 32 / dst.width → ¬(f.sub.toNat * n ≤ l ∧ l < f.sub.toNat * n + n) →
            laneNat dst.width l (g rnd row a b d).bits = laneNat dst.width l d.bits)
        ∧ (g rnd row a b d).poison = (a.poison || (decide (dst.width < src.width) && d.poison)))

/-! ## Values that rows exchange, sort and pack -/

namespace Sys2Proof.Claims

/-- The order of keys in VSORT: minus infinity, negative values, -0, +0, positive values, infinity, NaN (R156). -/
def keyLess (x y : FVal) : Prop := match x, y with
  | .nan, _ => False
  | _, .nan => True
  | .inf m, .inf n => m = true ∧ n = false
  | .inf m, .fin _ _ _ => m = true
  | .fin _ _ _, .inf n => n = false
  | .fin m a e, .fin n b g => ∃ p q, ratOf (.fin m a e) = some p ∧ ratOf (.fin n b g) = some q ∧ (p < q ∨ p = q ∧ m = true ∧ n = false)
/-- One key lies below another: signed for TY 0, unsigned for TY 1, FP32 values read under FMT.ftz for TY 2 (R94, R156). -/
def below (t : Team) (ty : VTy) (x y : Word) : Prop := match ty with
  | .i32 => x.slt y = true
  | .f32 => keyLess (numIn fp32 (t.flow.fmt.getLsbD 14) x.toNat) (numIn fp32 (t.flow.fmt.getLsbD 14) y.toNat)
  | _ => x.ult y = true
/-- Key equality of MATCH: integers bitwise, FP32 values with equal zeros and a NaN equal to nothing (R155). -/
def sameKey (t : Team) (ty : VTy) (x y : Word) : Prop := match ty with
  | .f32 => match numIn fp32 (t.flow.fmt.getLsbD 14) x.toNat, numIn fp32 (t.flow.fmt.getLsbD 14) y.toNat with
    | .inf m, .inf n => m = n
    | .fin m a e, .fin n b g => ratOf (.fin m a e) = ratOf (.fin n b g)
    | _, _ => False
  | _ => x = y
/-- A word of a TY as an operand: under FMT.ftz a subnormal FP32 value is zero of its sign (R94). -/
def readUnder (t : Team) (ty : VTy) (x : Word) : Word := if ty = .f32 ∧ t.flow.fmt.getLsbD 14 = true ∧ x.extractLsb' 23 8 = 0 then x &&& 0x80000000 else x
/-- Node j of level k of the tree over the rows: left and right combined, a lone child passed, none absent (R97). -/
def treeNode (g : Word → Word → Word) (v : Nat → Option Word) : Nat → Nat → Option Word
  | 0, j => v j
  | k + 1, j => match treeNode g v k (2 * j), treeNode g v k (2 * j + 1) with
    | some x, some y => some (g x y)
    | some x, none => some x
    | none, z => z
/-- Words combined one after another from the left. -/
def running (g : Word → Word → Word) (l : List Word) : Option Word := match l with
  | [] => none
  | x :: r => some (r.foldl g x)
/-- The combinations of VSTEP and of PFX by SUB (R151, R152). -/
def vstepComb (sub : BitVec 2) : Comb := match sub.toNat with
  | 0 => .add
  | 1 => .min
  | 2 => .max
  | _ => .or
/-- As above. -/
def pfxComb (sub : BitVec 2) : Comb := match sub.toNat with
  | 2 => .max
  | 3 => .min
  | _ => .add
/-- Element i of a run of registers with lanes of w bits, counted from the lowest bits of the first (R158). -/
def runLane (w : Nat) (l : List Word) (i : Nat) : Nat := laneNat w (i % (32 / w)) (l.getD (i / (32 / w)) 0)
/-- One element's magnitude is smaller than another's: INT8 exactly, FP16 and BF16 by value with every NaN on top, read under FMT.ftz (R94, R158). -/
def magLess (ty : VTy) (ftz : Bool) (x y : Nat) : Prop := match ty with
  | .i8x4 => (intOf 8 true x).natAbs < (intOf 8 true y).natAbs
  | .f16x2 => keyLess (numIn fp16 ftz x).abs (numIn fp16 ftz y).abs
  | _ => keyLess (numIn bf16 ftz x).abs (numIn bf16 ftz y).abs
/-- Elements of a group, elements kept and bits of an index by SUB (R158). -/
def packShape (sub : BitVec 2) : Nat × Nat × Nat := if sub = 0 then (4, 2, 2) else (8, 4, 3)
/-- Index j of group g in the 64-bit value of index fields (R158). -/
def packIndex (kept b : Nat) (lo hi : Word) (g j : Nat) : Nat := (lo.toNat + 2 ^ 32 * hi.toNat) / 2 ^ (g * (b * kept) + b * j) % 2 ^ b

end Sys2Proof.Claims

/-- R150, R137, R156, R94, R97, R151, R152, R155, R157, R158, R159: SHFL gives each participating row the element of the row its mode names when that row participates, else its own; the named row is B itself, the row plus the signed distance B, the row with the bits of B flipped, or the place turned by B within the aligned run of 32 rows. One poisoned element of A or B in a participating row poisons every result (R137). VSORT gives the participating rows, in ascending row number, the keys in the chosen order with the rows that held them, signed for TY 0, unsigned for TY 1, and for TY 2 from minus infinity over -0 and +0 to NaN: the keys never fall (or never rise), equal keys keep ascending origin rows, and every participating row is the origin of exactly one place. That FP32 keys are read under FMT.ftz here and in MATCH, BSRCH and SPACK is the model's reading of R94 (assumption log 18). VSTEP gives the root of the binary tree over row numbers 0 to 1,023, PFX the running combination in ascending rows, exclusive or inclusive; integers are combined by wrapping sum, smaller, larger or bitwise or; one poisoned element read poisons every result. MATCH gives the lowest participating row with the row's own key, and BSRCH the number of participating rows whose key lies below the row's own, or not above it. That a lone FP32 value, which VSTEP and PFX combine with nothing, is read under FMT.ftz too is the model's choice (assumption log 89). SPACK keeps in each group the elements of largest magnitude, ties to the lower index, in ascending index order, with their indices in the group's field and zero above the last field. SPEXP faults exactly on the rows of a group whose indices do not rise, and else puts each kept element at its index and zero everywhere else. -/
def Obligations.CrossRowResults : Prop :=
  (∀ (f : VForm) (rows : List Nat) (a b : Nat → Nat → Elem) (e row : Nat), row < 1024 →
    ((shflRes f rows a b e row).poison = true ↔ ∃ r ∈ rows, ∃ n, n < (f.eh.toNat + 1) * (f.ew.toNat + 1) ∧ ((a n r).poison = true ∨ (b n r).poison = true))
    ∧ (shflRes f rows a b e row).bits =
      (let k := (b e row).bits
       let n : Int := match f.sub.toNat with
        | 0 => (k.toNat : Int)
        | 1 => (row : Int) + k.toInt
        | 2 => ((BitVec.ofNat 32 row ^^^ k).toNat : Int)
        | _ => (row - row % 32 + (row + k.toNat) % 32 : Nat)
       if 0 ≤ n ∧ n.toNat ∈ rows then (a e n.toNat).bits else (a e row).bits))
  ∧ (∀ (f : VForm) (t : Team) (rd : Nat → RowRegs) (rows : List Nat) (key : Nat → Word), rows.Pairwise (· < ·) → (∀ r ∈ rows, r < 1024) →
    (∀ r, key r = ((rd r).headD Elem.zero).bits) →
    ∃ origin : Nat → Nat, (∀ r ∈ rows, origin r ∈ rows) ∧ (∀ q ∈ rows, ∃ r ∈ rows, origin r = q)
      ∧ (∀ r ∈ rows, vsortRow f t rd rows r = [key (origin r), BitVec.ofNat 32 (origin r)])
      ∧ ∀ r ∈ rows, ∀ q ∈ rows, r < q →
        (if f.sub = 0 then Claims.below t f.ty (key (origin r)) (key (origin q)) else Claims.below t f.ty (key (origin q)) (key (origin r)))
        ∨ (¬ Claims.below t f.ty (key (origin r)) (key (origin q)) ∧ ¬ Claims.below t f.ty (key (origin q)) (key (origin r)) ∧ origin r < origin q))
  ∧ (∀ (f : VForm) (t : Team) (rows : List Nat), rows.Pairwise (· < ·) → (∀ r ∈ rows, r < 1024) →
    (∀ (ty : VTy) (x y : Word), ty ≠ .f32 → combine t ty .add x y = x + y ∧ combine t ty .or x y = x ||| y
      ∧ combine t ty .min x y = (if (if ty = .i32 then y.slt x else y.ult x) then y else x)
      ∧ combine t ty .max x y = (if (if ty = .i32 then x.slt y else x.ult y) then y else x))
    ∧ (∀ (a b : Nat → Nat → Elem) (e row : Nat) (word : Nat → Word), (∀ r, word r = Claims.readUnder t f.ty (a e r).bits) →
      (vstepRes f t rows a b e row).bits = (Claims.treeNode (combine t f.ty (Claims.vstepComb f.sub)) (fun r => if r ∈ rows then some (word r) else none) 10 0).getD 0
      ∧ (row ∈ rows → ∀ before, before = (rows.filter fun r => decide (r < row)).map word →
          (pfxRes f t rows a b e row).bits = if f.sub = 1 then (Claims.running (combine t f.ty .add) before).getD 0
            else (Claims.running (combine t f.ty (Claims.pfxComb f.sub)) (before ++ [word row])).getD 0)
      ∧ ((vstepRes f t rows a b e row).poison = true ↔ ∃ r ∈ rows, ∃ n, n < (f.eh.toNat + 1) * (f.ew.toNat + 1) ∧ (a n r).poison = true)
      ∧ (pfxRes f t rows a b e row).poison = (vstepRes f t rows a b e row).poison)
    ∧ ∀ (rd : Nat → RowRegs) (key : Nat → Word) (own : Word) (row : Nat), (∀ r, key r = ((rd r).headD Elem.zero).bits) →
      own = (if f.ib then f.imm else ((rd row).getD 1 Elem.zero).bits) →
      (row ∈ rows → ∃ m ∈ rows, matchRow f t rd rows row = [BitVec.ofNat 32 m] ∧ (m = row ∨ Claims.sameKey t f.ty (key m) (key row))
        ∧ m ≤ row ∧ ∀ q ∈ rows, Claims.sameKey t f.ty (key q) (key row) → m ≤ q)
      ∧ ∃ l : List Nat, l.Nodup ∧ bsrchRow f t rd rows row = [BitVec.ofNat 32 l.length]
        ∧ ∀ q, q ∈ l ↔ q ∈ rows ∧ if f.sub = 0 then Claims.below t f.ty (key q) own else ¬ Claims.below t f.ty own (key q))
  ∧ (∀ (f : VForm) (ftz : Bool) (regs : RowRegs) (w gn kept b : Nat), f.ty ∈ [VTy.f16x2, .bf16x2, .i8x4] → (f.sub = 0 ∨ f.sub = 1) →
    w = (if f.ty = .i8x4 then 8 else 16) → Claims.packShape f.sub = (gn, kept, b) →
    (regs.length = 8 → ∀ (out : List Word) (elem : Nat → Nat), out = spackRow f ftz regs → elem = Claims.runLane w (regs.map Elem.bits) → out.length = 6
      ∧ (out.getD 4 0).toNat + 2 ^ 32 * (out.getD 5 0).toNat < 2 ^ (256 / (w * gn) * (b * kept))
      ∧ ∀ g, g < 256 / (w * gn) → ∃ idx : List Nat, idx.length = kept ∧ idx.Pairwise (· < ·)
        ∧ (∀ i ∈ idx, i < gn ∧ ∀ j, j < gn → j ∉ idx → Claims.magLess f.ty ftz (elem (g * gn + j)) (elem (g * gn + i))
            ∨ (¬ Claims.magLess f.ty ftz (elem (g * gn + i)) (elem (g * gn + j)) ∧ i < j))
        ∧ ∀ j i, idx[j]? = some i → Claims.runLane w out (g * kept + j) = elem (g * gn + i)
            ∧ Claims.packIndex kept b (out.getD 4 0) (out.getD 5 0) g j = i)
    ∧ (∀ (rd : Nat → RowRegs) (rows : List Nat) (row : Nat), row ∈ spexpBad f rd rows ↔ row ∈ rows ∧ ∃ g j, g < 256 / (w * gn) ∧ j + 1 < kept
        ∧ Claims.packIndex kept b ((rd row).getD 4 Elem.zero).bits ((rd row).getD 5 Elem.zero).bits g (j + 1)
          ≤ Claims.packIndex kept b ((rd row).getD 4 Elem.zero).bits ((rd row).getD 5 Elem.zero).bits g j)
    ∧ (regs.length = 6 → ∀ (out : List Word) (ix : Nat → Nat → Nat) (g i : Nat), out = spexpRow f regs →
        ix = Claims.packIndex kept b (regs.getD 4 Elem.zero).bits (regs.getD 5 Elem.zero).bits → g < 256 / (w * gn) → i < gn →
        (∀ j, j + 1 < kept → ix g j < ix g (j + 1)) →
        out.length = 8 ∧ (∀ j, j < kept → ix g j = i → Claims.runLane w out (g * gn + i) = Claims.runLane w (regs.map Elem.bits) (g * kept + j))
          ∧ ((∀ j, j < kept → ix g j ≠ i) → Claims.runLane w out (g * gn + i) = 0)))

namespace Sys2Proof.Claims

/-- The largest exponent of a power of two in an element format that QBLK writes (R91). -/
def blockTop (code : Nat) : Int := match code with
  | 5 => 2
  | 3 => 8
  | 4 => 15
  | _ => 6
/-- The number that element code e of a block with X byte x stands for, before the scale: an F4X code 8 stands for X unless X is 0x80 (R89, R149). -/
def elemRat (code : Nat) (c : Code) (x e : Nat) : Option Rat :=
  if code = 5 ∧ e = 8 ∧ x ≠ 0x80 then codeRat fpE4m3 x else match c with
  | .flt f => codeRat f e
  | .int w sg => some (intOf w sg e : Rat)
/-- sin and cos of a multiple of a quarter turn. -/
def quarterSin (z : Int) : Rat := match (z % 4).toNat with
  | 1 => 1
  | 3 => -1
  | _ => 0

end Sys2Proof.Claims

/-- R97, R102, R145, R148, R149, R91 to R94: a float step of VSTEP and PFX is the sum, the smaller or the larger of its operands, rounded once to FP32 under FMT. SCVT rounds and clamps an FP32 value, rounds an integer to FP32, and between integers copies the bits or clamps under FMT.saturate. The special values of the approximate instructions, their exact results (FEX2 of an integer, FLG2 of a power of two, FSIN and FCOS of a multiple of a quarter) and the bounds of FRCP and FRSQ hold as R145 gives them, and an FP32 lane is that value with FMT.ftz applied. QBLK chooses the scale by R91 and each element is the source over the scale, rounded and clamped, every code 0 in a block with a NaN or an infinity; DQBLK expands each element exactly by its scale, and rounds it once. -/
def Obligations.ApproximateAndBlockResults : Prop :=
  (∀ (t : Team) (x y : Word) (v w : Rat), Claims.ratOf (numIn fp32 (fmtFtz t) x.toNat) = some v → Claims.ratOf (numIn fp32 (fmtFtz t) y.toNat) = some w →
    Claims.Holds fp32 t (v + w) (combine t .f32 .add x y).toNat
    ∧ Claims.Holds fp32 t (if w < v then w else v) (combine t .f32 .min x y).toNat ∧ Claims.Holds fp32 t (if v < w then w else v) (combine t .f32 .max x y).toNat)
  ∧ (∀ (t : Team) (ty : STy) (sub : BitVec 2) (a : Word) (sg : Bool), sub.toNat < 3 → sg = decide (sub = 0) →
      (ty = .f32 → sub = 2 → scvtBits t ty sub a = a)
      ∧ (ty = .f32 → sub ≠ 2 → (numIn fp32 (fmtFtz t) a.toNat = .nan → scvtBits t ty sub a = 0)
          ∧ ∀ v, Claims.ratOf (numIn fp32 (fmtFtz t) a.toNat) = some v → (scvtBits t ty sub a).toNat = intBits 32 (clampInt 32 sg (Claims.rintRat (fmtMode t) v)))
      ∧ (∀ z : Int, (ty = .i32 ∧ z = a.toInt ∨ ty = .n32 ∧ z = a.toNat) →
          (sub = 2 → Claims.Holds fp32 t (z : Rat) (scvtBits t ty sub a).toNat)
          ∧ (sub ≠ 2 → (scvtBits t ty sub a).toNat = intBits 32 (if t.flow.fmt.getLsbD 15 then clampInt 32 sg z else z))))
  ∧ (∀ (op : Word) (n : Bool) (m : Nat) (e : Int), (∀ k, approx k .nan op = .nan)
      ∧ approx .rcp (.fin n 0 e) op = .inf n ∧ approx .rcp (.inf n) op = .fin n 0 0
      ∧ approx .rsq (.fin n 0 e) op = .inf n ∧ (m ≠ 0 → approx .rsq (.fin true m e) op = .nan) ∧ approx .rsq (.inf false) op = .fin false 0 0
      ∧ approx .ex2 (.inf true) op = .fin false 0 0 ∧ approx .ex2 (.inf false) op = .inf false
      ∧ approx .lg2 (.fin n 0 e) op = .inf true ∧ (m ≠ 0 → approx .lg2 (.fin true m e) op = .nan) ∧ approx .lg2 (.inf false) op = .inf false
      ∧ approx .sin (.fin n 0 e) op = .fin n 0 0 ∧ approx .sin (.inf n) op = .nan
      ∧ Claims.ratOf (approx .cos (.fin n 0 e) op) = some 1 ∧ approx .cos (.inf n) op = .nan
      ∧ Claims.ratOf (approx .tnh (.inf n) op) = some (if n then -1 else 1) ∧ approx .tnh (.fin n 0 e) op = .fin n 0 0)
  ∧ (∀ (op a : Word) (ftz : Bool) (x : FVal) (v : Rat), x = numIn fp32 ftz a.toNat → Claims.ratOf x = some v →
      (∀ z : Int, v = z → -149 ≤ z → z ≤ 127 → Claims.ratOf (approx .ex2 x op) = some ((2 : Rat) ^ z))
      ∧ (∀ z : Int, v = (2 : Rat) ^ z → Claims.ratOf (approx .lg2 x op) = some (z : Rat))
      ∧ (∀ z : Int, 4 * v = z → Claims.ratOf (approx .sin x op) = some (Claims.quarterSin z) ∧ Claims.ratOf (approx .cos x op) = some (Claims.quarterSin (z + 1)))
      ∧ (v ≠ 0 → Claims.within fp32 (1 / v) → ∃ q, Claims.ratOf (approx .rcp x op) = some q ∧
          ∀ e : Int, (2 : Rat) ^ e ≤ Claims.gap 0 (1 / v) → Claims.gap 0 (1 / v) < (2 : Rat) ^ (e + 1) → Claims.gap q (1 / v) ≤ (2 : Rat) ^ (max (e - 23) (-149)))
      ∧ (0 < v → ∃ q, Claims.ratOf (approx .rsq x op) = some q ∧ 0 ≤ q ∧
          ∀ (e : Int) (b : Rat), (2 : Rat) ^ (2 * e) * v ≤ 1 → 1 < (2 : Rat) ^ (2 * (e + 1)) * v → b = (2 : Rat) ^ (max (e - 23) (-149)) →
            (q ≤ b ∨ (q - b) * (q - b) * v ≤ 1) ∧ 1 ≤ (q + b) * (q + b) * v))
  ∧ (∀ (t : Team) (f : VForm) (k : Approx), f.ty = .f32 → ∃ g, (opApprox k f t).fn = some g ∧ ∀ (rnd : Nat → DWord) (row : Nat) (a b c : Elem) (x : FVal) (q : Rat),
      x = numIn fp32 (fmtFtz t) a.bits.toNat → Claims.ratOf (approx k x (BitVec.ofNat 32 (toFloat fp32 ⟨0, false, false, none⟩ x))) = some q →
      Claims.Holds fp32 t q (g rnd row a b c).bits.toNat)
  ∧ (∀ (t : Team) (sc dc : Code) (n : Nat) (regs : RowRegs) (rnd : Nat → DWord) (src : Nat → FVal) (out : List Word) (elem : Nat → Nat) (s : Nat),
      blockShape t (fmtA t) (fmtR t) = some (sc, dc, n) → src = (fun i => numIn sc.fmt (fmtFtz t) (Claims.runLane sc.width (regs.map Elem.bits) i)) →
      out = qblkRow t sc dc n regs rnd → elem = Claims.runLane dc.width out → s = (out.getD (n * dc.width / 32) 0).toNat % 256 →
      (out.getD (n * dc.width / 32) 0).toNat = s + (if fmtR t = 5 then 0x8000 else 0)
      ∧ ((∃ i, i < n ∧ Claims.ratOf (src i) = none) → s = 0xFF ∧ ∀ i, i < n → elem i = 0)
      ∧ ∀ v : Nat → Rat, (∀ i, i < n → Claims.ratOf (src i) = some (v i)) →
        ((∀ i, i < n → v i = 0) → s = 0)
        ∧ (∀ (j : Nat) (k : Int), j < n → (∀ i, i < n → Claims.gap 0 (v i) ≤ Claims.gap 0 (v j)) → (2 : Rat) ^ k ≤ Claims.gap 0 (v j) → Claims.gap 0 (v j) < (2 : Rat) ^ (k + 1) →
            (s : Int) = max (-127) (min (k - Claims.blockTop (fmtR t)) 127) + 127)
        ∧ ∀ (i : Nat) (q : Rat), i < n → q = v i / (2 : Rat) ^ ((s : Int) - 127) →
            (∀ df, dc = .flt df → (Claims.within df q → Claims.Holds df t q (elem i)) ∧ (¬ Claims.within df q → elem i = df.maxBits + if q < 0 then 2 ^ (df.eb + df.mb) else 0))
            ∧ (∀ w sg, dc = .int w sg → ∃ z : Int, elem i = intBits 8 (max (-127) (min z 127)) ∧ if t.flow.fmt.getLsbD 20 then Claims.gap q z < 1 else z = Claims.rintRat (fmtMode t) q))
  ∧ ∀ (t : Team) (sc dc : Code) (n : Nat) (regs : RowRegs) (rnd : Nat → DWord) (rec : Word) (s x : Nat) (out : List Word),
      blockShape t (fmtR t) (fmtA t) = some (dc, sc, n) → regs.length = n * sc.width / 32 + 1 → rec = (regs.getLastD Elem.zero).bits → s = rec.toNat % 256 → x = rec.toNat / 256 % 256 →
      out = dqblkRow t sc dc n regs rnd → ∀ i e, i < n → e = Claims.runLane sc.width (regs.map Elem.bits) i →
        (s = 0xFF → Claims.runLane dc.width out i = dc.fmt.nanBits)
        ∧ (s ≠ 0xFF → ∀ v, Claims.elemRat (fmtA t) sc x e = some v → Claims.Holds dc.fmt t (v * (2 : Rat) ^ ((s : Int) - 127)) (Claims.runLane dc.width out i))
        ∧ (fmtA t = 5 → e = 8 → x % 128 = 0x7F → Claims.runLane dc.width out i = dc.fmt.nanBits)

/-! ## Scalar instructions -/

namespace Sys2Proof.Claims

/-- Whether an S form's operand names a pair (R43): TY 3 and 4. -/
def wide (f : SForm) : Bool := STy.wide f.ty
/-- Operand width in bits (R101). -/
def sw (f : SForm) : Nat := sWidth f.ty
/-- A scalar operand as a W-bit value. -/
def sVal (t : Team) (f : SForm) (r : Nat) : BitVec (sw f) := (sBits t f.ty r).setWidth (sw f)
/-- The second source as a W-bit value: the immediate when IB is set. -/
def sVal2 (t : Team) (f : SForm) : BitVec (sw f) := (sB t f).setWidth (sw f)
/-- A W-bit result of an S form with its poison as the elements written: one register, or both of a pair, low half in the even one. -/
def sResult (f : SForm) (x : BitVec (sw f)) (p : Bool) : Nat → Option Elem := fun r =>
  if r = f.d.toNat then some ⟨x.extractLsb' 0 32, p⟩
  else if wide f ∧ r = f.d.toNat + 1 then some ⟨x.extractLsb' 32 32, p⟩ else none
/-- Position and width of a field control word (R101). -/
def fieldOf (w : Nat) (b : BitVec w) : Nat × Nat := ((b.extractLsb' 16 6).toNat, min ((b.extractLsb' 0 6).toNat + 1) (w - (b.extractLsb' 16 6).toNat))
/-- The integer S instructions of R101 on W bits: form, whether a second source and D are read, and the result from A, B and D. -/
def intScalar (i : Instr) : Option (SForm × Bool × Bool × ((w : Nat) → Bool → BitVec w → BitVec w → BitVec w → BitVec w)) :=
  match i with
  | .sadd f => some (f, true, false, fun _ _ a b _ => a + b)
  | .ssub f => some (f, true, false, fun _ _ a b _ => a - b)
  | .smul f => some (f, true, false, fun _ _ a b _ => a * b)
  | .smulh f => some (f, true, false, fun w sg a b _ => if sg then (a.signExtend (2 * w) * b.signExtend (2 * w)).extractLsb' w w
                                                        else (a.setWidth (2 * w) * b.setWidth (2 * w)).extractLsb' w w)
  | .smad f => some (f, true, true, fun _ _ a b d => a * b + d)
  | .sdiv f => some (f, true, false, fun w sg a b _ => if b = 0 then BitVec.allOnes w else if sg then a.sdiv b else a.udiv b)
  | .srem f => some (f, true, false, fun _ sg a b _ => if b = 0 then a else if sg then a.srem b else a.umod b)
  | .sand f => some (f, true, false, fun _ _ a b _ => a &&& b)
  | .sor f => some (f, true, false, fun _ _ a b _ => a ||| b)
  | .sxor f => some (f, true, false, fun _ _ a b _ => a ^^^ b)
  | .sshl f => some (f, true, false, fun w _ a b _ => a <<< (b.toNat % w))
  | .sshr f => some (f, true, false, fun w _ a b _ => a >>> (b.toNat % w))
  | .ssra f => some (f, true, false, fun w _ a b _ => a.sshiftRight (b.toNat % w))
  | .smin f => if f.ty = .f32 then none else some (f, true, false, fun _ sg a b _ => if (if sg then b.slt a else b.ult a) then b else a)
  | .smax f => if f.ty = .f32 then none else some (f, true, false, fun _ sg a b _ => if (if sg then a.slt b else a.ult b) then b else a)
  | .sclz f => some (f, false, false, fun w _ a _ _ => BitVec.ofNat w ((List.range w).findIdx fun k => a.getMsbD k))
  | .spop f => some (f, false, false, fun w _ a _ _ => BitVec.ofNat w ((List.range w).countP fun k => a.getLsbD k))
  | .sbfx f => some (f, true, false, fun w sg a b _ =>
      let (pos, wid) := fieldOf w b
      if w ≤ pos then 0 else if sg then ((a >>> pos).setWidth wid).signExtend w else ((a >>> pos).setWidth wid).setWidth w)
  | .sbfi f => some (f, true, true, fun w _ a b d =>
      let (pos, wid) := fieldOf w b
      BitVec.ofFnLE fun k : Fin w => if pos ≤ k.val ∧ k.val < pos + wid then a.getLsbD (k.val - pos) else d.getLsbD k.val)
  | _ => none
/-- The scalar float instructions (R101): form, whether D is read, and the value before rounding, from A, B and D and the rounding mode. -/
def floatScalar (i : Instr) : Option (SForm × Bool × (Nat → FVal → FVal → FVal → FVal)) :=
  match i with
  | .sfadd f => some (f, false, fun m a b _ => FVal.add m a b)
  | .sfma f => some (f, true, fun m a b d => FVal.add m (a.mul b) d)
  | .smin f => if f.ty = .f32 then some (f, false, fun _ a b _ => a.minN b) else none
  | .smax f => if f.ty = .f32 then some (f, false, fun _ a b _ => a.maxN b) else none
  | _ => none

end Sys2Proof.Claims

/-- R100, R101, R54, R201: an integer S instruction completes: it writes D, and D + 1 when TY names a pair, with the W-bit result that R101 gives, wrapped, poisoned when a scalar it reads is; nothing else changes. -/
def Obligations.ScalarIntegerCompletes : Prop :=
  ∀ (i : Instr) (f : SForm) (hasB hasD : Bool) (op : (w : Nat) → Bool → BitVec w → BitVec w → BitVec w → BitVec w) (s : State) (t : Team),
    Claims.intScalar i = some (f, hasB, hasD, op) → Runs i s t → (if hasB then sDAB f t else sDA f t) = true → sSuppressed f t = false →
    RunsTo i s t fun t' => FallsThrough t t' ∧ Claims.ScalarWritten t t'
      (Claims.sResult f (op (Claims.sw f) (sSigned f.ty) (Claims.sVal t f f.a.toNat) (Claims.sVal2 t f) (Claims.sVal t f f.d.toNat))
        (sPois t f.ty f.a.toNat || (hasB && sBPois t f) || (hasD && sPois t f.ty f.d.toNat)))

/-- R100, R101, R95: SFADD, SFMA and the f32 forms of SMIN and SMAX complete: D receives the one rounding, by FMT.rounding and FMT.ftz alone, of the exact value; nothing else changes. -/
def Obligations.ScalarFloatCompletes : Prop :=
  ∀ (i : Instr) (f : SForm) (hasD : Bool) (op : Nat → FVal → FVal → FVal → FVal) (s : State) (t : Team),
    Claims.floatScalar i = some (f, hasD, op) → Runs i s t → sDAB f t = true → sSuppressed f t = false →
    RunsTo i s t fun t' => FallsThrough t t' ∧ Claims.ScalarWritten t t' fun r => if r = f.d.toNat then
      some ⟨(sFloat t (op (fmtMode t) (sFVal t (sBits t f.ty f.a.toNat)) (sFVal t (sB t f)) (sFVal t (sBits t f.ty f.d.toNat)))).extractLsb' 0 32,
        sPois t f.ty f.a.toNat || sBPois t f || (hasD && sPois t f.ty f.d.toNat)⟩ else none

/-- R101, R102, R201: SSEL copies the chosen source with its poison, SMOV its source or the immediate, SADDX and SMADX add in 64 bits, SCVT converts; each completes and writes D alone. That SSEL takes the poison of the chosen source alone is the model's reading of R201 beside R100, DEDUCED, log 16. -/
def Obligations.ScalarMovesComplete : Prop :=
  ∀ (f : SForm) (s : State) (t : Team), sSuppressed f t = false →
    (Runs (.ssel f) s t → sDAB f t = true → RunsTo (.ssel f) s t fun t' => FallsThrough t t' ∧ Claims.ScalarWritten t t'
      (if t.qget f.sub.toNat then Claims.sResult f (Claims.sVal t f f.a.toNat) (sPois t f.ty f.a.toNat)
       else Claims.sResult f (Claims.sVal2 t f) (sBPois t f)))
    ∧ (Runs (.smov f) s t → qHeaderOk t f.pq = true → sOpOk t f f.d = true → (f.ib = false → sOpOk t f f.a = true) →
      RunsTo (.smov f) s t fun t' => FallsThrough t t' ∧ Claims.ScalarWritten t t'
      (if f.ib then Claims.sResult f ((sImm f.ty f.imm).setWidth (Claims.sw f)) false
       else Claims.sResult f (Claims.sVal t f f.a.toNat) (sPois t f.ty f.a.toNat)))
    ∧ (Runs (.saddx f) s t → qHeaderOk t f.pq = true → xregOk t f.d.toNat = true → xregOk t f.a.toNat = true → (f.ib = false → sregOk t f.b.toNat = true) →
      RunsTo (.saddx f) s t fun t' => FallsThrough t t' ∧ ∃ x b : DWord,
        b = (if f.ty = .i32 then ((sB t f).setWidth 32).signExtend 64 else ((sB t f).setWidth 32).setWidth 64) ∧ x = t.xget f.a.toNat + b
        ∧ Claims.ScalarWritten t t' fun r => if r = f.d.toNat then some ⟨x.extractLsb' 0 32, t.xpois f.a.toNat || sBPois t f⟩
            else if r = f.d.toNat + 1 then some ⟨x.extractLsb' 32 32, t.xpois f.a.toNat || sBPois t f⟩ else none)
    ∧ (Runs (.smadx f) s t → qHeaderOk t f.pq = true → xregOk t f.d.toNat = true → sregOk t f.a.toNat = true → (f.ib = false → sregOk t f.b.toNat = true) →
      RunsTo (.smadx f) s t fun t' => FallsThrough t t' ∧ ∃ (x a b : DWord) (p : Bool),
        a = (if f.ty = .i32 then (t.sget f.a.toNat).bits.signExtend 64 else (t.sget f.a.toNat).bits.setWidth 64)
        ∧ b = (if f.ty = .i32 then ((sB t f).setWidth 32).signExtend 64 else ((sB t f).setWidth 32).setWidth 64) ∧ x = t.xget f.d.toNat + a * b
        ∧ p = (t.xpois f.d.toNat || (t.sget f.a.toNat).poison || sBPois t f)
        ∧ Claims.ScalarWritten t t' fun r => if r = f.d.toNat then some ⟨x.extractLsb' 0 32, p⟩
            else if r = f.d.toNat + 1 then some ⟨x.extractLsb' 32 32, p⟩ else none)
    ∧ (Runs (.scvt f) s t → sDA f t = true → RunsTo (.scvt f) s t fun t' => FallsThrough t t' ∧ Claims.ScalarWritten t t'
      fun r => if r = f.d.toNat then some ⟨scvtBits t f.ty f.sub (t.sget f.a.toNat).bits, (t.sget f.a.toNat).poison⟩ else none)

/-- R101, R95, R69, R100: SCMP and SFCMP of clean sources complete: they write team predicate D - 8 with the condition (a NaN makes .ne true and the others false); a write of q7 is discarded and nothing else is written. With a poisoned source they take fault 0x38 instead. -/
def Obligations.ScalarCompareCompletes : Prop :=
  ∀ (i : Instr) (f : SForm) (rel : Rel) (s : State) (t : Team),
    (i = .scmp f ∧ rel = relInt (if sSigned f.ty then (Claims.sVal t f f.a.toNat).toInt else ((Claims.sVal t f f.a.toNat).toNat : Int))
        (if sSigned f.ty then (Claims.sVal2 t f).toInt else ((Claims.sVal2 t f).toNat : Int))
      ∨ i = .sfcmp f ∧ rel = (sFVal t (sBits t f.ty f.a.toNat)).rel (sFVal t (sB t f))) →
    Runs i s t → sCmpOk f t = true → sSuppressed f t = false →
    ((sPois t f.ty f.a.toNat || sBPois t f) = false → RunsTo i s t fun t' => FallsThrough t t' ∧ t'.regs.v = t.regs.v ∧ t'.regs.s = t.regs.s
      ∧ t'.regs.p = t.regs.p ∧ (∀ k, k < 7 → k + 8 ≠ f.d.toNat → t'.qget k = t.qget k)
      ∧ (f.d.toNat < 15 → t'.qget (f.d.toNat - 8) = condHolds f.sub rel))
    ∧ ((sPois t f.ty f.a.toNat || sBPois t f) = true → exec i s = raise s (t.issued i s) 0x38)

/-- R103, R100, R101: SRDV reads the element of a row, active, retired or not, into D, the row from s(B) or, with IB, from IMM32 (that SRDV has the immediate form is the model's reading of R100 beside R103: assumption log 66), and a row not below TEAMROWS takes fault 0x02; SWRV writes its scalar into register D on every active row and leaves every other row alone. -/
def Obligations.ScalarVectorMovesComplete : Prop :=
  ∀ (f : SForm) (s : State) (t : Team), sSuppressed f t = false →
    (Runs (.srdv f) s t → qHeaderOk t f.pq = true → sOpOk t f f.d = true → vMoveOk t f.ty f.a.toNat = true → (f.ib = false → sOpOk t f f.b = true) →
      ∀ row, row = (if f.ib = true then f.imm.toNat else (t.sget f.b.toNat).bits.toNat) →
        (row < t.foot.rows → RunsTo (.srdv f) s t fun t' => FallsThrough t t' ∧ Claims.ScalarWritten t t' fun r =>
          let p := (!f.ib && (t.sget f.b.toNat).poison) || (t.vget f.a.toNat row).poison || (Claims.wide f && (t.vget (f.a.toNat + 1) row).poison)
          if r = f.d.toNat then some ⟨(t.vget f.a.toNat row).bits, p⟩
          else if Claims.wide f ∧ r = f.d.toNat + 1 then some ⟨(t.vget (f.a.toNat + 1) row).bits, p⟩ else none)
        ∧ (t.foot.rows ≤ row → ∃ u : Team, exec (.srdv f) s = raise s u 0x02 ∧ u.regs = t.regs ∧ u.flow = t.flow ∧ TeamKeeps t u))
    ∧ (Runs (.swrv f) s t → qHeaderOk t f.pq = true → vMoveOk t f.ty f.d.toNat = true → sOpOk t f f.a = true →
      RunsTo (.swrv f) s t fun t' => FallsThrough t t' ∧ Claims.VectorWritten t t' fun r row =>
        if t.flow.mask.getLsbD row then
          (if r = f.d.toNat then some ⟨(Claims.sVal t f f.a.toNat).extractLsb' 0 32, sPois t f.ty f.a.toNat⟩
           else if Claims.wide f ∧ r = f.d.toNat + 1 then some ⟨(Claims.sVal t f f.a.toNat).extractLsb' 32 32, sPois t f.ty f.a.toNat⟩ else none)
        else none)

/-! ## Control transfers, exceptions and gates -/

namespace Sys2Proof.Claims

/-- The team goes on at p with its registers and the rest of its control state as they were, awake. -/
def GoesTo (t t' : Team) (p : Pc) : Prop := FlowKeeps t t' ∧ t'.flow.pc = p ∧ t'.regs = t.regs ∧ t'.sched.hold = none
/-- As GoesTo, the call stack becoming cs. -/
def GoesToWith (t t' : Team) (p : Pc) (cs : List Pc) : Prop :=
  { t'.flow with pc := t.flow.pc, entered := t.flow.entered, cs := t.flow.cs } = t.flow ∧ t'.flow.cs = cs ∧ t'.flow.pc = p ∧ t'.regs = t.regs ∧ t'.sched.hold = none
/-- The target of a B form (R104): the line of the instruction plus 64 DISP, at SLOT. -/
def target (f : BForm) (t : Team) : Pc := ⟨t.flow.pc.line + f.disp.signExtend 64 * 64, f.slot.toNat⟩
/-- A slot may be landed at: its line can be fetched and its BT bit is set (R37). -/
abbrev mayLand (s : State) (t : Team) (p : Pc) : Prop := targetFault s t.agent p = none
/-- A transfer to a slot that may not be landed at has read the line and takes the fault that R37 gives, with the line's address; while a quiesced segment holds the read the team waits (R130). -/
abbrev landsNot (i : Instr) (s : State) (t : Team) (c : Nat) (p : Pc) : Prop :=
  (targetStalls s (t.issued i s) t.agent p = true → exec i s = holdTeam s (t.issued i s) .quiesce)
  ∧ (targetStalls s (t.issued i s) t.agent p = false → ∀ s1, s1 = targetRead s (t.issued i s) t.agent p →
      exec i s = raiseAddr s1 (keepWake s1 (t.issued i s)) c p.line)
/-- A call that finds its stack full has read the line of its target and takes fault 0x02 (R108, R40); while a quiesced segment holds the read the team waits (R130). -/
abbrev tooDeep (i : Instr) (s : State) (t : Team) (p : Pc) : Prop :=
  (targetStalls s (t.issued i s) t.agent p = true → exec i s = holdTeam s (t.issued i s) .quiesce)
  ∧ (targetStalls s (t.issued i s) t.agent p = false → ∀ s1, s1 = targetRead s (t.issued i s) t.agent p →
      exec i s = raise s1 (keepWake s1 (t.issued i s)) 0x02)

end Sys2Proof.Claims

/-- R107, R108, R37, R104, R105, R130: LOOP counts its clean scalar down by one, stays at 0, and transfers while what is left is not zero; a poisoned counter takes fault 0x38, and a transfer that may not land the fault that R37 gives, and neither counts (what the fetch of its line leaves: assumption log 94). CALL and CALLI push the slot after themselves on a call stack of less than 32 entries and go to their target, CALLI to the one in its pair; at depth 32 they take fault 0x02. A poisoned pair takes 0x38, one with a bit set outside [54:6] and [2:0] or a slot of 5 to 7 takes 0x03, and a target that may not be landed at the fault that R37 gives (what the fetch of its line leaves: assumption log 94). That the target's line is fetched and checked before the depth is the model's reading of R40 (assumption log 77); that a poisoned pair faults before its bits are looked at is its choice (log 86). RET pops the newest entry and goes to it, with no check of the target; at depth 0, or in a handler at or below the depth recorded at trap entry, it takes 0x02. The mask and the reconvergence stack stay. A BRA or a taken BRC that may not land faults with the code R37 gives and goes nowhere; what the fetch of its line leaves is there (the model's reading of which fetches a transfer makes: assumption log 94). -/
def Obligations.LoopsAndCallsComplete : Prop :=
  (∀ (f : BForm) (s : State) (t : Team), bOk f t = true → sregOk t f.scalar.toNat = true → bSuppressed f t = false → Runs (.loop f) s t →
    ((t.sget f.scalar.toNat).poison = true → exec (.loop f) s = raise s (t.issued (.loop f) s) 0x38)
    ∧ ((t.sget f.scalar.toNat).poison = false → 1 < (t.sget f.scalar.toNat).bits.toNat → ∀ c, targetFault s t.agent (Claims.target f t) = some c →
        Claims.landsNot (.loop f) s t c (Claims.target f t))
    ∧ ((t.sget f.scalar.toNat).poison = false → ∀ n : Word, n = (t.sget f.scalar.toNat).bits → (1 < n.toNat → Claims.mayLand s t (Claims.target f t)) →
      RunsTo (.loop f) s t fun t' => FlowKeeps t t' ∧ t'.sched.hold = none
        ∧ t'.flow.pc = (if 1 < n.toNat then Claims.target f t else t.flow.pc.next)
        ∧ Claims.ScalarWritten t t' fun r => if r = f.scalar.toNat ∧ n ≠ 0 then some (Elem.clean (n - 1)) else none))
  ∧ (∀ (f : BForm) (s : State) (t : Team), bOk f t = true → bSuppressed f t = false →
    (Runs (.call f) s t →
      (∀ c, targetFault s t.agent (Claims.target f t) = some c →
        Claims.landsNot (.call f) s t c (Claims.target f t))
      ∧ (Claims.mayLand s t (Claims.target f t) → t.flow.cs.length < 32 →
        RunsTo (.call f) s t fun t' => Claims.GoesToWith t t' (Claims.target f t) (t.flow.pc.next :: t.flow.cs))
      ∧ (Claims.mayLand s t (Claims.target f t) → 32 ≤ t.flow.cs.length → Claims.tooDeep (.call f) s t (Claims.target f t)))
    ∧ (Runs (.calli f) s t → xregOk t f.scalar.toNat = true → ∀ (x : DWord) (fits : Prop), x = t.xget f.scalar.toNat →
      (fits ↔ x.extractLsb' 55 9 = 0 ∧ x.extractLsb' 3 3 = 0 ∧ (x.extractLsb' 0 3).toNat ≤ 4) →
      (t.xpois f.scalar.toNat = true → exec (.calli f) s = raise s (t.issued (.calli f) s) 0x38)
      ∧ (t.xpois f.scalar.toNat = false → ¬fits → exec (.calli f) s = raise s (t.issued (.calli f) s) 0x03)
      ∧ (t.xpois f.scalar.toNat = false → fits → ∀ c, targetFault s t.agent (pcOf x) = some c →
        Claims.landsNot (.calli f) s t c (pcOf x))
      ∧ (t.xpois f.scalar.toNat = false → fits → Claims.mayLand s t (pcOf x) → t.flow.cs.length < 32 →
        RunsTo (.calli f) s t fun t' => Claims.GoesToWith t t' (pcOf x) (t.flow.pc.next :: t.flow.cs))
      ∧ (t.xpois f.scalar.toNat = false → fits → Claims.mayLand s t (pcOf x) → 32 ≤ t.flow.cs.length → Claims.tooDeep (.calli f) s t (pcOf x)))
    ∧ (Runs (.ret f) s t →
      (∀ p cs, t.flow.cs = p :: cs → (t.trap.inHandler = true → t.trap.inCs ≤ cs.length) → RunsTo (.ret f) s t fun t' => Claims.GoesToWith t t' p cs)
      ∧ (t.flow.cs.length ≤ (if t.trap.inHandler then t.trap.inCs else 0) → exec (.ret f) s = raise s (t.issued (.ret f) s) 0x02)))
  ∧ (∀ (f : BForm) (s : State) (t : Team) (c : Nat), bOk f t = true → bSuppressed f t = false → targetFault s t.agent (Claims.target f t) = some c →
    (Runs (.bra f) s t → Claims.landsNot (.bra f) s t c (Claims.target f t))
    ∧ (Runs (.brc f) s t →
      (if f.cond.team then (f.cond.neg = false ∧ t.qget f.cond.index.toNat = true) ∨ (f.cond.neg = true ∧ t.qget f.cond.index.toNat = false)
        else (∃ row, row < 1024 ∧ t.flow.mask.getLsbD row = true) ∧ ∀ row, row < 1024 → t.flow.mask.getLsbD row = true → (t.prdMask f.cond).getLsbD row = true) →
      Claims.landsNot (.brc f) s t c (Claims.target f t)))

/-- R77, R78: a push with 32 entries in hardware spills the oldest to its place at the top of the team's footprint and reads back as it was but for rows that have retired; a spill that would start below the footprint is refused. -/
def Obligations.StackSpills : Prop :=
  ∀ (s : State) (t : Team) (e old : RsEntry) (pl : Plot), t.flow.rs.length = 32 → t.flow.rs.getLast? = some old → t.gate = none →
    s.plot? t.place.plot = some pl → t.place.bed < pl.beds.length →
    (spillAt t t.flow.spilled < (t.place.place * t.foot.scratch : Nat) → pushRs s t e = none)
    ∧ ((t.place.place * t.foot.scratch : Nat) ≤ spillAt t t.flow.spilled → ∃ s' t', pushRs s t e = some (s', t')
      ∧ t'.flow.rs = e :: t.flow.rs.dropLast ∧ t'.flow.spilled = t.flow.spilled + 1
      ∧ (∀ a, a < (spillAt t t.flow.spilled).toNat ∨ (spillAt t t.flow.spilled).toNat + 320 ≤ a →
        cellGet (s'.bed t.place.plot t.place.bed).mem.cells a = cellGet (s.bed t.place.plot t.place.bed).mem.cells a)
      ∧ (old.join.line &&& 0x7FFFFFFFFFFFC0 = old.join.line → old.join.slot < 8 → old.pt.line &&& 0x7FFFFFFFFFFFC0 = old.pt.line → old.pt.slot < 8 →
        entryOf t ((s'.bed t.place.plot t.place.bed).mem.read (spillAt t t.flow.spilled).toNat 320)
          = { old with m := old.m &&& t.liveRows, t := old.t &&& t.liveRows }))

/-- R76, R106, R37, R130, R77: a BRD whose taken target may not be landed at takes the fault that R37 gives; one whose taken target may be landed at waits while a quiesced segment holds back the line of either target, and takes the fault of its join when that may not be landed at; none of these pushes an entry. A BRD both of whose targets may be landed at, whose lines no quiesced segment holds back, pushes one entry with the join, the mask, FMT, the taken rows T, the taken target and V, and goes on with the rows outside T at the next slot, or, when there are none, with T at the taken target and V clear. The device is as the fetches of the two lines leave it (assumption log 94). RCV on an entry whose V is set turns to the taken rows that have not retired under the entry's FMT and keeps the entry with V clear; on one whose V is clear it pops and joins with the rows of M that have not retired; with no entry it takes fault 0x02. When the mask is then empty it acts on the entry below, in a handler on none that it found at its entry: that limit of an explicit RCV is the model's reading of R77, which excepts only the paths that a retirement has emptied (assumption log 51), and so is what is left when no entry remains and the mask is empty (log 59). -/
def Obligations.DivergenceCompletes : Prop :=
  (∀ (f : BForm) (s : State) (t : Team), bOk f t = true → bSuppressed f t = false → Runs (.brd f) s t → ∀ (u : Team) (p j : Pc), u = t.issued (.brd f) s →
    p = Claims.target f t → j = brdJoin t f.imm →
    (∀ c, targetFault s t.agent p = some c → Claims.landsNot (.brd f) s t c p)
    ∧ (Claims.mayLand s t p → targetStalls s u t.agent p = true ∨ targetStalls s u t.agent j = true → exec (.brd f) s = holdTeam s u .quiesce)
    ∧ (Claims.mayLand s t p → targetStalls s u t.agent p = false → targetStalls s u t.agent j = false → ∀ s1, s1 = targetsRead s u [p, j] →
      (∀ c, targetFault s t.agent j = some c → exec (.brd f) s = raiseAddr s1 (keepWake s1 u) c j.line)
      ∧ (Claims.mayLand s t j → t.flow.rs.length < 32 → ∀ tk rest : RowMask, tk = t.flow.mask &&& t.prdMask f.cond → rest = t.flow.mask &&& ~~~tk →
        ∃ s' t', exec (.brd f) s = .next s' ∧ s'.team? t.tid = some t' ∧ TeamKeeps t { t' with sync := { t'.sync with mon := t.sync.mon } }
          ∧ DeviceKeeps t.tid s1 s'
          ∧ t'.regs = t.regs ∧ t'.sched.hold = none ∧ t'.flow.fmt = t.flow.fmt ∧ t'.flow.did = t.flow.did ∧ t'.flow.cs = t.flow.cs
          ∧ t'.flow.retired = t.flow.retired ∧ t'.flow.spilled = t.flow.spilled
          ∧ (∃ v, t'.flow.rs = ⟨j, t.flow.mask, t.flow.fmt, tk, p, v⟩ :: t.flow.rs ∧ (v = true ↔ tk ≠ 0 ∧ rest ≠ 0))
          ∧ t'.flow.mask = (if rest = 0 then tk else rest) ∧ t'.flow.pc = (if rest = 0 then p else t.flow.pc.next))))
  ∧ (∀ (f : BForm) (s : State) (t : Team), bOk f t = true → bSuppressed f t = false → Runs (.rcv f) s t →
    (t.rsDepth = 0 → exec (.rcv f) s = raise s (t.issued (.rcv f) s) 0x02)
    ∧ (t.rsDepth ≠ 0 → RunsTo (.rcv f) s t fun t' => t'.regs = t.regs ∧ t'.flow = (rcvFrom s (rcvFuel t) (if t.trap.inHandler then min t.trap.inRs (t.rsDepth - 1) else 0) (t.issued (.rcv f) s)).flow)
    ∧ ∀ e rs, t.flow.rs = e :: rs →
      (e.v = true → e.t &&& ~~~t.flow.retired ≠ 0 → RunsTo (.rcv f) s t fun t' => t'.regs = t.regs
        ∧ { t'.flow with entered := t.flow.entered } = { t.flow with mask := e.t &&& ~~~t.flow.retired, fmt := e.f, rs := { e with v := false } :: rs, pc := e.pt })
      ∧ (e.v = false → t.flow.spilled = 0 → e.m &&& ~~~t.flow.retired ≠ 0 → RunsTo (.rcv f) s t fun t' => t'.regs = t.regs
        ∧ { t'.flow with entered := t.flow.entered } = { t.flow with mask := e.m &&& ~~~t.flow.retired, fmt := e.f, rs := rs, pc := e.join }))

/-- R105, R104, R37, R62, R112: BRA always transfers to its target; BRC with a team predicate transfers exactly when it is true, with a row predicate exactly when at least one row is active and the predicate is true in every active row, and otherwise falls through with every row. NOP changes nothing but the pc; YIELD in addition marks that the team's burst has ended. -/
def Obligations.BranchesComplete : Prop :=
  (∀ (f : BForm) (s : State) (t : Team), bOk f t = true → bSuppressed f t = false →
    (Runs (.bra f) s t → Claims.mayLand s t (Claims.target f t) → RunsTo (.bra f) s t fun t' => Claims.GoesTo t t' (Claims.target f t))
    ∧ ∀ taken : Prop, (taken ↔ if f.cond.team then (f.cond.neg = false ∧ t.qget f.cond.index.toNat = true) ∨ (f.cond.neg = true ∧ t.qget f.cond.index.toNat = false)
        else (∃ row, row < 1024 ∧ t.flow.mask.getLsbD row = true) ∧ ∀ row, row < 1024 → t.flow.mask.getLsbD row = true → (t.prdMask f.cond).getLsbD row = true) →
      Runs (.brc f) s t →
      (taken → Claims.mayLand s t (Claims.target f t) → RunsTo (.brc f) s t fun t' => Claims.GoesTo t t' (Claims.target f t))
      ∧ (¬ taken → RunsTo (.brc f) s t fun t' => Claims.GoesTo t t' t.flow.pc.next))
  ∧ (∀ (f : BForm) (s : State) (t : Team), bOk f t = true → bSuppressed f t = false →
    (Runs (.nop f) s t → RunsTo (.nop f) s t fun t' => Claims.GoesTo t t' t.flow.pc.next ∧ t'.sched.yielded = t.sched.yielded)
    ∧ (Runs (.yield f) s t → RunsTo (.yield f) s t fun t' => Claims.GoesTo t t' t.flow.pc.next ∧ t'.sched.yielded = true))

namespace Sys2Proof.Claims

/-- The slot of HVEC (R192): DISP lines from the entry line. -/
def handlerSlot (t : Team) : Pc := ⟨t.stamp.entry + (t.trap.hvec.extractLsb' 8 24).signExtend 64 * 64, (t.trap.hvec.extractLsb' 5 3).toNat⟩
/-- What trap entry leaves of the team (R190): the trap registers hold the mask, the rows at fault, the fault and the slot; every row that has not retired is active; the handler runs. Whether the fault was taken in a wait is kept (R119, assumption log 97). Registers, predicates, stacks, SCHK and operations are unchanged. -/
def InHandler (t t' : Team) (f : TrapInfo) : Prop :=
  t'.trap.hmask = t.flow.mask ∧ t'.trap.hfrow = (if f.async then 0 else f.rows) ∧ (t'.trap.hflt.extractLsb' 0 8).toNat = f.code % 256
    ∧ t'.trap.hflt.getLsbD 8 = f.async ∧ t'.trap.hflt.getLsbD 9 = !t.region.pend.isEmpty ∧ t'.trap.hflt.getLsbD 10 = t.region.lost
    ∧ t'.trap.hpc = t.flow.pc.bits ||| (if f.half then 8 else 0) ∧ t'.trap.faddr = f.addr.getD t.trap.faddr
    ∧ t'.trap.inFmt = t.flow.fmt ∧ t'.trap.inRs = t.rsDepth ∧ t'.trap.inCs = t.flow.cs.length ∧ t'.trap.inHandler = true
    ∧ t'.trap.inWait = (f.async && t.sched.hold.any Hold.waits) ∧ t'.trap.hvec = t.trap.hvec ∧ t'.trap.trapArg = t.trap.trapArg
    ∧ t'.flow.mask = t.liveRows ∧ t'.flow.pc = handlerSlot t ∧ t'.flow.rs = t.flow.rs ∧ t'.flow.spilled = t.flow.spilled ∧ t'.flow.cs = t.flow.cs
    ∧ t'.flow.retired = t.flow.retired ∧ t'.flow.fmt = t.flow.fmt ∧ t'.flow.did = t.flow.did
    ∧ t'.regs = t.regs ∧ t'.schk = t.schk ∧ t'.ops = t.ops ∧ t'.place = t.place ∧ t'.foot = t.foot ∧ t'.sched.pend = [] ∧ t'.sched.hold = none

end Sys2Proof.Claims

/-- R190, R192, R57: a fault of a team outside a gate whose handler is enabled, that is not in its handler and whose handler slot may be landed at, enters the handler: HMASK, HFROW, HFLT, HPC and FADDR are written, FMT and the stack depths recorded, and every row that has not retired runs on at HVEC's slot; memory and every other unit are as they were. -/
def Obligations.TrapEntry : Prop :=
  ∀ (s : State) (t : Team) (f : TrapInfo), (s.team? t.tid).isSome = true → f.code < 256 → f.src < 65536 → t.gate = none → t.trap.hvec.getLsbD 0 = true →
    t.trap.inHandler = false → Claims.mayLand s t (Claims.handlerSlot t) →
    ∃ s' t', raiseAt s t f = .next s' ∧ s'.team? t.tid = some t' ∧ Claims.InHandler t t' f ∧ DeviceKeeps t.tid s s'

/-- R194, R196, R110: a fault of a team outside a gate ends the team: when HVEC.EN is 0 with the fault's own code, in a handler as a double fault, code 0x3F, with the HFLT and HPC of the fault being served; the first such fault of a launch is what its completion record will report. TRAP enters the handler with fault code 0x00, HPC naming the TRAP and TRAPARG receiving IMM32. -/
def Obligations.TrapInstructionCompletes : Prop :=
  (∀ (s : State) (t : Team) (f : TrapInfo), s.team? t.tid = some t → t.gate = none → (t.trap.hvec.getLsbD 0 = false ∨ t.trap.inHandler = true) →
    ∃ s' t', raiseAt s t f = .next s' ∧ s'.team? t.tid = some t' ∧ t'.sched.status = .exited ∧ t'.flow.rs = [] ∧ t'.flow.cs = [] ∧ t'.regs = t.regs
      ∧ s'.mem = s.mem ∧ OtherTeams t.tid s s'
      ∧ ∀ l, s.launch? t.place.launch = some l → ∃ l', s'.launch? t.place.launch = some l' ∧ l'.ended = l.ended + 1
        ∧ (l.ended ≠ 0 → l'.fcode = l.fcode ∧ l'.fpc = l.fpc ∧ l'.fhflt = l.fhflt)
        ∧ (l.ended = 0 → t.trap.hvec.getLsbD 0 = false → l'.fcode = f.code ∧ l'.fpc = t.flow.pc.bits ||| (if f.half then 8 else 0))
        ∧ (l.ended = 0 → t.trap.hvec.getLsbD 0 = true → l'.fcode = 0x3F ∧ l'.fpc = t.trap.hpc ∧ l'.fhflt = t.trap.hflt))
  ∧ (∀ (f : BForm) (s : State) (t : Team), bOk f t = true → bSuppressed f t = false → Runs (.trap f) s t → t.gate = none → t.trap.hvec.getLsbD 0 = true →
    t.trap.inHandler = false → Claims.mayLand s t (Claims.handlerSlot t) →
    ∃ s' t', exec (.trap f) s = .next s' ∧ s'.team? t.tid = some t' ∧ t'.trap.trapArg = f.imm ∧ t'.trap.hpc = t.flow.pc.bits
      ∧ (t'.trap.hflt.extractLsb' 0 8).toNat = 0 ∧ t'.trap.hflt.getLsbD 8 = false
      ∧ Claims.InHandler t { t' with trap := { t'.trap with trapArg := t.trap.trapArg } } ⟨0x00, false, 0, t.flow.mask, none, false⟩ ∧ DeviceKeeps t.tid s s')

/-- R22, R109, R198, R193, R199, R111, R119: EXIT ends the team's instruction stream: its reconvergence entries and call stack are discarded and it never runs again; its registers, its operations, all memory and every other team are as they were. HRET in a handler returns: the mask is the rows of HMASK that the mask at entry held, that exist and that have not retired, FMT is the one recorded at entry, stack entries pushed since entry are gone, and the team goes on at HPC (retry, or any mode after an asynchronous fault), at REGPC (region) or at the slot after HPC (skip). After an asynchronous fault taken while the team was held in a wait, skip goes on after the wait, as R119 says where R198 says otherwise (assumption log 97). HRET.region after a fault that is not asynchronous is refused, as a double fault that ends the team with code 0x3F and the HFLT and HPC being served, when no region has been entered or the depths at trap entry are not those of the region's entry. Outside a handler it takes fault 0x01. -/
def Obligations.ExitAndReturnComplete : Prop :=
  (∀ (f : BForm) (s : State) (t : Team), bOk f t = true → bSuppressed f t = false → Runs (.exit f) s t → t.gate = none →
    ∃ s' t', exec (.exit f) s = .next s' ∧ s'.team? t.tid = some t' ∧ t'.sched.status = .exited ∧ t'.flow = { t.flow with rs := [], spilled := 0, cs := [] }
      ∧ t'.regs = t.regs ∧ t'.ops = t.ops ∧ t'.place = t.place ∧ t'.foot = t.foot ∧ s'.mem = s.mem ∧ OtherTeams t.tid s s'
      ∧ s'.gov = s.gov ∧ s'.clusters = s.clusters ∧ s'.dies = s.dies ∧ s'.mgmt = s.mgmt)
  ∧ (∀ (f : BForm) (s : State) (t : Team), bOk f t = true → bSuppressed f t = false → Runs (.hret f) s t →
    (t.trap.inHandler = false → exec (.hret f) s = raise s (t.issued (.hret f) s) 0x01)
    ∧ (t.trap.inHandler = true → f.imm = 1 → t.trap.hflt.getLsbD 8 = false → ¬(t.region.valid = true ∧ t.trap.inRs = t.region.rs ∧ t.trap.inCs = t.region.cs) →
      ∃ s' t', exec (.hret f) s = .next s' ∧ s'.team? t.tid = some t' ∧ t'.sched.status = .exited ∧ t'.flow.rs = [] ∧ t'.flow.cs = [] ∧ t'.regs = t.regs
        ∧ s'.mem = s.mem ∧ OtherTeams t.tid s s'
        ∧ ∀ l, s.launch? t.place.launch = some l → ∃ l', s'.launch? t.place.launch = some l' ∧ l'.ended = l.ended + 1
          ∧ (l.ended ≠ 0 → l'.fcode = l.fcode ∧ l'.fpc = l.fpc ∧ l'.fhflt = l.fhflt)
          ∧ (l.ended = 0 → l'.fcode = 0x3F ∧ l'.fpc = t.trap.hpc ∧ l'.fhflt = t.trap.hflt))
    ∧ (t.trap.inHandler = true → t.flow.spilled = 0 → t.sched.wish = [] →
      (f.imm = 1 → t.trap.hflt.getLsbD 8 = false → t.region.valid = true ∧ t.trap.inRs = t.region.rs ∧ t.trap.inCs = t.region.cs) →
      ∃ s' t', exec (.hret f) s = .next s' ∧ s'.team? t.tid = some t' ∧ t'.trap.inHandler = false ∧ t'.flow.mask = t.trap.hmask &&& t.trap.hmaskIn &&& t.liveRows
        ∧ t'.flow.fmt = t.trap.inFmt ∧ t'.flow.rs = t.flow.rs.drop (t.flow.rs.length - t.trap.inRs) ∧ t'.flow.cs = t.flow.cs.drop (t.flow.cs.length - t.trap.inCs)
        ∧ t'.flow.pc = (if f.imm = 2 ∧ t.trap.hflt.getLsbD 8 = true ∧ t.trap.inWait = true then (pcOf (t.trap.hpc &&& ~~~(8#64))).next
            else if f.imm = 0 ∨ t.trap.hflt.getLsbD 8 = true then pcOf (t.trap.hpc &&& ~~~(8#64))
            else if f.imm = 1 then pcOf t.region.regpc else (pcOf (t.trap.hpc &&& ~~~(8#64))).next)
        ∧ t'.regs = t.regs ∧ t'.ops = t.ops ∧ DeviceKeeps t.tid s s'))

/-- R305, R306, R307, R308, R309: CGATE through a usable entry that lists the caller's domain, with a window, room and a landing slot, enters the gate: the window v0 to v7, s0 to s15 stays, the scratch area is zero and clean, DID is the callee, FMT is 0, and all that CGATE saves is saved; without a check that fails, no fault is taken. The device stays as it was, but for the L1 of the core, which is written back whole and dropped when the scratch area takes banks from it (R164; that the whole L1 goes is the model's choice: assumption log 26); where that write back meets a quiesced segment the CGATE waits. CGRET with the depths as CGATE saved them leaves the gate: what CGATE sealed is as it was (v8 and above, s16 and above, p4 to p6, q4 to q6), the window keeps the callee's values (v0 to v7, s0 to s15, p0 to p3, q0 to q3), DID, FMT and the mask are the saved ones (less rows that have retired), and the caller goes on after its CGATE. The device is as it was, but for the L1 of the core, which is written back whole and dropped when banks return to it too (the model's choice: assumption log 26); where that write back meets a quiesced segment the CGRET waits. Outside a gate it takes fault 0x01. -/
def Obligations.GatesComplete : Prop :=
  (∀ (f : BForm) (s : State) (t : Team) (g : List Word), bOk f t = true → bSuppressed f t = false → Runs (.cgate f) s t → t.gate = none →
    g = gateEntry s f.imm.toNat → gateUsable g = true → gateCaller g t.flow.did = true → 8 ≤ t.foot.vregs → 16 ≤ t.foot.sregs →
    quadRoom s t.place.core t.place.quad (gateCallee g) (t.foot.alloc / 32 * ((gateScratch g).1 / 8)) (gateScratch g).2 = true →
    targetFault s { t.agent with dom := gateCallee g } (pcOf (gateCode g)) = none → ∀ u, u = enterGate s (t.issued (.cgate f) s) f.imm.toNat g →
    (carveMoves s u && l1Stalls s t.place.core) = false →
    ∃ s' t' c, exec (.cgate f) s = .next s' ∧ s'.team? t.tid = some t' ∧ t'.gate = some c
      ∧ DeviceKeeps t.tid (carveChange s u) s'
      ∧ c.regs = t.regs ∧ c.vregs = t.foot.vregs ∧ c.sregs = t.foot.sregs ∧ c.did = t.flow.did ∧ c.fmt = t.flow.fmt ∧ c.mask = t.flow.mask ∧ c.rs = t.rsDepth
      ∧ c.cs = t.flow.cs.length ∧ c.at_ = t.flow.pc ∧ c.deadline = s.clock.ac + (g.getD 5 0).toNat
      ∧ t'.flow.did = gateCallee g ∧ t'.flow.fmt = 0 ∧ t'.flow.pc = pcOf (gateCode g) ∧ t'.flow.mask = t.flow.mask
      ∧ t'.foot.vregs = 8 + (gateScratch g).1 ∧ t'.foot.sregs = 16 + (gateScratch g).2
      ∧ t'.regs.v = t.regs.v.take 8 ++ List.replicate (gateScratch g).1 (List.replicate t.foot.rows Elem.zero)
      ∧ t'.regs.s = t.regs.s.take 16 ++ List.replicate (gateScratch g).2 Elem.zero ∧ t'.regs.p = t.regs.p ∧ t'.regs.q = t.regs.q)
  ∧ (∀ (f : BForm) (s : State) (t : Team), bOk f t = true → bSuppressed f t = false → Runs (.cgret f) s t →
    (t.gate = none → exec (.cgret f) s = raise s (t.issued (.cgret f) s) 0x01)
    ∧ ∀ g, t.gate = some g → t.rsDepth = g.rs → t.flow.cs.length = g.cs → t.sched.wish = [] →
      ∀ u, u = (leaveGate (t.issued (.cgret f) s) g false).setPc g.at_.next → (carveMoves s u && l1Stalls s t.place.core) = false →
      ∃ s' t', exec (.cgret f) s = .next s' ∧ s'.team? t.tid = some t' ∧ t'.gate = none ∧ DeviceKeeps t.tid (carveChange s u) s'
        ∧ t'.flow.did = g.did ∧ t'.flow.fmt = g.fmt ∧ t'.flow.mask = g.mask &&& ~~~t.flow.retired ∧ t'.flow.pc = g.at_.next
        ∧ t'.foot.vregs = g.vregs ∧ t'.foot.sregs = g.sregs
        ∧ (∀ r, 8 ≤ r → t'.regs.v[r]? = g.regs.v[r]?) ∧ (∀ r, r < 8 → t'.regs.v[r]? = some (t.regs.v.getD r []))
        ∧ (16 ≤ t.regs.s.length → (∀ r, 16 ≤ r → t'.regs.s[r]? = g.regs.s[r]?) ∧ ∀ r, r < 16 → t'.regs.s[r]? = t.regs.s[r]?)
        ∧ (4 ≤ t.regs.p.length → (∀ k, k < 4 → t'.regs.p[k]? = t.regs.p[k]?) ∧ ∀ k, 4 ≤ k → t'.regs.p[k]? = g.regs.p[k]?)
        ∧ (∀ k, k < 4 → t'.qget k = t.qget k) ∧ ∀ k, 4 ≤ k → k < 7 → t'.qget k = g.regs.q.getLsbD k)

/-! ## Memory instructions -/

namespace Sys2Proof.Claims

/-- LD, LDS and LDP, with whether the address steps by the row (R180). -/
def loads (i : Instr) : Option (MForm × Bool) := match i with
  | .ld f => some (f, false)
  | .lds f => some (f, false)
  | .ldp f => some (f, true)
  | _ => none
/-- ST, STS and STP. -/
def stores (i : Instr) : Option (MForm × Bool) := match i with
  | .st f => some (f, false)
  | .sts f => some (f, false)
  | .stp f => some (f, true)
  | _ => none
/-- ATOM, CAS and ATOMAGG: whether rows that name one location make one operation, form, registers read, alignment of DATA, and what a row writes (R181, R182). -/
def atomics (i : Instr) : Option (Bool × MForm × Nat × Nat × (Team → Nat → Nat → Option Nat)) := match i with
  | .atom f => some (false, f, widthRegs f.width, widthRegs f.width, atomWrites f)
  | .cas f => some (false, f, 2 * widthRegs f.width, if f.width == .b64 then 4 else 1, casWrites f)
  | .atomagg f => some (true, f, widthRegs f.width, widthRegs f.width, atomWrites f)
  | _ => none
/-- The team once the registers an M instruction reads have been written (R54). -/
def mTeam (i : Instr) (s : State) (t : Team) (regs : List Nat) : Team := (t.issued i s).awaitRegs regs
/-- The bytes of a row's access at a global target lie at this physical address. -/
def hitsMem (n : Nat) (g : Target) (a : Nat) : Prop := match g with
  | .mem pa _ => pa ≤ a ∧ a < pa + n
  | .sp _ => False
/-- The bytes of a row's access at a scratchpad target take in this place. -/
def hitsSp (n : Nat) (g : Target) (h : SpHome) (a : Nat) : Prop := match g with
  | .mem _ _ => False
  | .sp p => p.home = h ∧ p.off ≤ a ∧ a < p.off + n
/-- A dirty byte of a core's L1 stands for this physical address and the stack memory now holds it (R165, R167). -/
def writtenBack (c : Core) (m : Memory) (a : Nat) : Prop :=
  ∃ l ∈ c.l1, ∃ o, o < 128 ∧ l.line * 128 + o = a ∧ l.dirty.getLsbD o = true ∧ cellGet m.cells a = l.bytes.extractLsb' (8 * o) 8
/-- Every byte of stack memory outside some addresses is as it was, but for dirty bytes of the core's L1 that were performed. -/
def MemKeeps (s s' : State) (core : Nat) (stored : Nat → Prop) : Prop :=
  ∀ a, ¬ stored a → cellGet s'.mem.cells a = cellGet s.mem.cells a ∨ writtenBack (s.core core) s'.mem a
/-- Every scratchpad byte outside some places is as it was. -/
def ScratchKeeps (s s' : State) (cluster : Nat) (stored : SpHome → Nat → Prop) : Prop :=
  (∀ p b a, ¬ stored (.bed p b) a → cellGet (s'.bed p b).mem.cells a = cellGet (s.bed p b).mem.cells a)
  ∧ ∀ c k a, a < 131072 → (c = cluster → ¬ stored .banks (k * 131072 + a)) →
      cellGet ((s'.cluster c).banks.getD k Bank.reset).mem.cells a = cellGet ((s.cluster c).banks.getD k Bank.reset).mem.cells a
/-- Every copy of a physical address's line in a core's L1 belongs to one domain. -/
def soleCopy (c : Core) (dom pa : Nat) : Prop := ∀ l ∈ c.l1, l.line = pa / 128 → l.dom = dom
/-- A scratchpad place exists: its bed is one of a placed plot, or its bank one of the cluster's. -/
def placeStands (s : State) (cluster : Nat) (p : SpPlace) : Prop := match p.home with
  | .bed pl b => ∃ q, s.plot? pl = some q ∧ b < q.beds.length
  | .banks => cluster < s.clusters.length ∧ p.off / 131072 < (s.cluster cluster).banks.length
/-- The byte at a scratchpad place: of the bed, or of the cluster's bank of 128 KiB that it lies in. -/
def spByte (s : State) (cluster : Nat) (h : SpHome) (off : Nat) : Byte := match h with
  | .bed pl b => cellGet (s.bed pl b).mem.cells off
  | .banks => cellGet ((s.cluster cluster).banks.getD (off / 131072) Bank.reset).mem.cells (off % 131072)
/-- The byte k of a row's access, when it goes to scratchpad or is performed at the home, holds b, unless another access of the instruction, named by later, takes it in (R166, R180). -/
def byteIs (s s' : State) (t : Team) (f : MForm) (g : Target) (later : List (Nat × DWord × Target)) (k : Nat) (b : Byte) : Prop := match g with
  | .mem pa _ => 2 ≤ mScope f → isAperture pa = false → soleCopy (s.core t.place.core) t.flow.did pa →
      (∀ y ∈ later, ¬ hitsMem (widthBytes f.width) y.2.2 (pa + k)) → cellGet s'.mem.cells (pa + k) = b
  | .sp p => placeStands s (clusterOf t.place.core) p → (∀ y ∈ later, ¬ hitsSp (widthBytes f.width) y.2.2 p.home (p.off + k)) →
      spByte s' (clusterOf t.place.core) p.home (p.off + k) = b
/-- What a memory instruction leaves of the device: teams keep their registers, dies, management lists, queues, launches and what is due. -/
structure Rest (tid : Nat) (s s' : State) : Prop where
  agenda : s'.agenda = s.agenda
  focus : s'.focus = s.focus
  uid : s'.uid = s.uid
  dies : s'.dies = s.dies
  reports : s'.reports = s.reports
  launches : s'.gov.launches = s.gov.launches
  queues : s'.gov.queues = s.gov.queues
  owners : s'.mgmt.rot = s.mgmt.rot
  teams : ∀ k u, k ≠ tid → s.team? k = some u → ∃ u', s'.team? k = some u' ∧ { u' with sync := { u'.sync with mon := u.sync.mon } } = u
/-- The rows that take part, checked and free of faults and holds (R177, R25, R26, R130). -/
abbrev passes (s : State) (u : Team) (f : MForm) (packed write fe : Bool) (acc : Acc) : Prop :=
  faultRows (rowAccs s u f packed acc) = none ∧ rowsHeld s u f write fe (rowAccs s u f packed acc) = none
    ∧ (fe = true → (granules (okRows (rowAccs s u f packed acc))).any (fun g => !spFull s (clusterOf u.place.core) g) = false)

end Sys2Proof.Claims

/-- R161, R180: a store none of whose rows faults or waits completes: no register changes, and every byte of scratchpad and of stack memory outside the bytes that the participating rows' own addresses name is as it was, but for dirty bytes of the L1 that are performed. -/
def Obligations.StoresComplete : Prop :=
  ∀ (i : Instr) (f : MForm) (packed : Bool) (s : State) (t u : Team), Claims.stores i = some (f, packed) → Runs i s t → mDataOk f t = true →
    mSuppressed f t = false → u = Claims.mTeam i s t (indexRegs f ++ dataRegs f (widthRegs f.width)) → Claims.passes s u f packed true false .write →
    l1Full s u f true (okRows (rowAccs s u f packed .write)) = false →
    ∃ s' t', exec i s = .next s' ∧ s'.team? t.tid = some t' ∧ TeamKeeps t { t' with sync := { t'.sync with mon := t.sync.mon } } ∧ FallsThrough t t'
      ∧ t'.regs = t.regs ∧ Claims.Rest t.tid s s'
      ∧ Claims.MemKeeps s s' t.place.core (fun a => ∃ x ∈ okRows (rowAccs s u f packed .write), Claims.hitsMem (widthBytes f.width) x.2.2 a)
      ∧ Claims.ScratchKeeps s s' (clusterOf t.place.core) (fun h a => ∃ x ∈ okRows (rowAccs s u f packed .write), Claims.hitsSp (widthBytes f.width) x.2.2 h a)

/-- R180, R166, R262, R264 to R267: after a store the bytes that a row names hold its DATA when no higher row stores to them: in the team's bed, in a bank of plot scratchpad, and in memory for a store at .plot or wider whose line no other domain holds in the core's L1. What a team has just stored within a line, at whatever scope, its own load of the same bytes returns, and so does a load by any team of its domain on the core, at any scope, when the core's L1 holds no other domain's copy of the line. That a load at any scope reads the dirty bytes of the core's L1 is the model's reading of R166 beside R262 and R265 (assumption log 26). -/
def Obligations.StoredDataIsSeen : Prop :=
  (∀ (i : Instr) (f : MForm) (packed : Bool) (s s' : State) (t u : Team) (pre post : List (Nat × DWord × Target)) (x : Nat × DWord × Target) (k : Nat),
    Claims.stores i = some (f, packed) → Runs i s t → mDataOk f t = true → mSuppressed f t = false →
    u = Claims.mTeam i s t (indexRegs f ++ dataRegs f (widthRegs f.width)) → Claims.passes s u f packed true false .write → exec i s = .next s' →
    okRows (rowAccs s u f packed .write) = pre ++ x :: post → k < widthBytes f.width →
    Claims.byteIs s s' t f x.2.2 post k ((dataBytes t f.data.toNat (widthBytes f.width) x.1).getD k 0))
  ∧ (∀ (s : State) (core dom scope scope' pol pa k : Nat) (bs : List Byte) (poison : Bool), core < s.cores.length → isAperture pa = false → pa % 128 + bs.length ≤ 128 →
    Claims.soleCopy (s.core core) dom pa → (loadBytes (storeBytes s core dom scope pol pa bs poison) core dom scope' pol pa bs.length k).1 = bs)

/-- R161, R180, R166, R176, R178, R163: a load none of whose rows faults or waits completes: DATA of each participating row, and no other register, receives the bytes at the row's own address, zero-extended, poisoned when the granule or sector is; no byte of scratchpad or of stack memory changes but for dirty bytes of the L1 that are performed. A .take load leaves every granule it named empty, and no other full bit changes; no message goes out but for reads of aperture pages. LDC none of whose rows faults completes: DATA of each participating row receives the bytes of its launch's constant window, from the cluster's constant cache or from memory; no memory changes, and no message goes out but for reads of aperture pages. -/
def Obligations.LoadsComplete : Prop :=
  (∀ (i : Instr) (f : MForm) (packed fe : Bool) (s : State) (t u : Team), Claims.loads i = some (f, packed) → Runs i s t → mDataOk f t = true →
    mSuppressed f t = false → u = Claims.mTeam i s t (indexRegs f) → fe = (f.space == .scratchpad && f.qual != 0) → Claims.passes s u f packed false fe .read →
    l1Full s u f false (okRows (rowAccs s u f packed .read)) = false →
    ∃ s' t', exec i s = .next s' ∧ s'.team? t.tid = some t' ∧ TeamKeeps t t' ∧ FallsThrough t t' ∧ Claims.Rest t.tid s s'
      ∧ (apertureRows (okRows (rowAccs s u f packed .read)) = [] → s'.log = s.log)
      ∧ (∀ p, p = granuleOf p → spFull s' (clusterOf t.place.core) p
          = (spFull s (clusterOf t.place.core) p && !(fe && f.qual == 2 && (granules (okRows (rowAccs s u f packed .read))).contains p)))
      ∧ (Claims.VectorWritten t t' fun r row =>
          if f.data.toNat ≤ r ∧ r < f.data.toNat + widthRegs f.width then
            ((okRows (rowAccs s u f packed .read)).find? fun x => x.1 == row).map fun x =>
              loadElem (loadTarget s u (mScope f) (widthBytes f.width) x.1 x.2.2).1 (loadTarget s u (mScope f) (widthBytes f.width) x.1 x.2.2).2 (r - f.data.toNat)
          else none)
      ∧ Claims.MemKeeps s s' t.place.core (fun _ => False) ∧ Claims.ScratchKeeps s s' (clusterOf t.place.core) (fun _ _ => False))
  ∧ (∀ (f : MForm) (s : State) (t u : Team), Runs (.ldc f) s t → mDataOk f t = true → mSuppressed f t = false → u = Claims.mTeam (.ldc f) s t (indexRegs f) →
    Claims.passes s u f false false false .read →
    ∃ s' t', exec (.ldc f) s = .next s' ∧ s'.team? t.tid = some t' ∧ TeamKeeps t t' ∧ FallsThrough t t' ∧ Claims.Rest t.tid s s' ∧ s'.mem = s.mem
      ∧ (apertureRows (okRows (rowAccs s u f false .read)) = [] → s'.log = s.log) ∧ s'.gov = s.gov ∧ Claims.VectorWritten t t' fun r row =>
          if f.data.toNat ≤ r ∧ r < f.data.toNat + widthRegs f.width then
            ((okRows (rowAccs s u f false .read)).find? fun x => x.1 == row).bind fun x => match x.2.2 with
              | .mem pa _ => some (loadElem (constBytes s (clusterOf t.place.core) t.flow.did pa (widthBytes f.width)) (homePois s pa (widthBytes f.width)) (r - f.data.toNat))
              | .sp _ => some (loadElem [] false (r - f.data.toNat))
          else none)

namespace Sys2Proof.Claims

/-- The state in which the rows of an atomic begin to act: the release before it, the translations, the lines its L1 operations fill and the line requests of the others have taken place (R165, R167, R175, R323). -/
def atomStart (agg : Bool) (s : State) (u : Team) (f : MForm) (l : List (Nat × DWord × Target)) : State :=
  requestStores (atomLine (tlbRows (releaseBy s u f (!l.isEmpty)) u f l) u f ((atomOps agg l).filterMap List.head?)) u (mScope f) l
/-- What the operations of an atomic leave, one after another from that state: the device, and each row's old value with its poison (R181, R182). -/
def atomAll (agg : Bool) (s : State) (u : Team) (f : MForm) (reads : Nat) (new : Nat → Nat → Option Nat) (l : List (Nat × DWord × Target)) : State × List (Nat × List Byte × Bool) :=
  (atomOps agg l).foldl (atomOp u f new fun row => dataPois u f.data.toNat reads row) (atomStart agg s u f l, [])

end Sys2Proof.Claims

/-- R181, R182, R176, R180: an ATOM, CAS or ATOMAGG none of whose rows faults or waits completes: the rows act one after another in ascending order on what the earlier ones have left, of an ATOMAGG those that name one location as one operation, which reads it once and writes it once; the memory, scratchpad, queues, clusters and L1 after it are those that the last operation leaves, with the release before it and the acquire after it that its ORDER gives, both only when a row participates (that they act only then is the model's reading of R180: assumption log 21). DATA of each row receives the old value it found, no other register changes, and no byte outside the bytes the rows name changes but for dirty bytes of the L1 that are performed. The bytes of a row that no higher row names hold the new value that R181 gives for the old one (CAS: when the old one equals the compare value), in scratchpad and, at .plot or wider, in memory; that they do where the location is poisoned, which it stays, is the model's reading of R176 (assumption log 23). The new value of an atomic of w = 32 or 64 bits: sum, FP32 sum rounded to nearest even without flush, signed and unsigned smaller and larger, the bitwise operations, exchange, and the wrapping increment and decrement. -/
def Obligations.AtomicsComplete : Prop :=
  (∀ (i : Instr) (agg : Bool) (f : MForm) (reads al : Nat) (new : Team → Nat → Nat → Option Nat) (s s1 : State) (t u : Team) (rows : List (Nat × DWord × Target)) (olds : List (Nat × List Byte × Bool)),
    Claims.atomics i = some (agg, f, reads, al, new) → Runs i s t →
    mOk reads al f t = true → mSuppressed f t = false → u = Claims.mTeam i s t (indexRegs f ++ dataRegs f reads) → Claims.passes s u f false true false .write →
    rows = okRows (rowAccs s u f false .write) → l1Full s u f true rows = false → Claims.atomAll agg s u f reads (new u) rows = (s1, olds) →
    ∃ s' t', exec i s = .next s' ∧ s'.team? t.tid = some t' ∧ TeamKeeps t { t' with sync := { t'.sync with mon := t.sync.mon } } ∧ FallsThrough t t'
      ∧ Claims.Rest t.tid s s'
      ∧ s'.mem = s1.mem ∧ s'.gov = s1.gov ∧ s'.clusters = s1.clusters ∧ s'.mgmt = s1.mgmt ∧ s'.log = s1.log ∧ CoresKeep (acquireBy s1 u f (!rows.isEmpty)) s'
      ∧ (olds.map (·.1)).Perm (rows.map (·.1)) ∧ (agg = false → olds.map (·.1) = rows.map (·.1))
      ∧ (Claims.VectorWritten t t' fun r row =>
          if f.data.toNat ≤ r ∧ r < f.data.toNat + widthRegs f.width then
            (olds.find? fun x => x.1 == row).map fun x => loadElem x.2.1 x.2.2 (r - f.data.toNat)
          else none)
      ∧ (agg = true → ∀ j x y o o' v, rows[j]? = some x → y ∈ rows.drop (j + 1) → (∀ z ∈ rows.drop (j + 1), z.1 < y.1 → atomPlace z.2.2 ≠ atomPlace x.2.2) →
          atomPlace y.2.2 = atomPlace x.2.2 → (x.1, o) ∈ olds → (y.1, o') ∈ olds → new u x.1 (bytesNat o.1) = some v → o'.1 = natBytes (widthBytes f.width) v)
      ∧ (∀ j x o v k, rows[j]? = some x → (x.1, o) ∈ olds → new u x.1 (bytesNat o.1) = some v → k < widthBytes f.width →
          Claims.byteIs s s' t f x.2.2 (rows.drop (j + 1)) k ((natBytes (widthBytes f.width) v).getD k 0))
      ∧ Claims.MemKeeps s s' t.place.core (fun a => ∃ x ∈ rows, Claims.hitsMem (widthBytes f.width) x.2.2 a)
      ∧ Claims.ScratchKeeps s s' (clusterOf t.place.core) (fun h a => ∃ x ∈ rows, Claims.hitsSp (widthBytes f.width) x.2.2 h a))
  ∧ (∀ (w : Nat) (old data : BitVec w), (w = 32 ∨ w = 64) →
    ∀ n : Nat → Nat, n = (fun q => atomNew q w old.toNat data.toNat) →
    n 0 = (old + data).toNat ∧ (w = 32 → n 1 = toFloat fp32 ⟨0, false, false, none⟩ (FVal.add 0 (numIn fp32 false old.toNat) (numIn fp32 false data.toNat)))
    ∧ n 2 = (if data.slt old then data else old).toNat ∧ n 3 = (if old.slt data then data else old).toNat
    ∧ n 4 = (if data.ult old then data else old).toNat ∧ n 5 = (if old.ult data then data else old).toNat
    ∧ n 6 = (old &&& data).toNat ∧ n 7 = (old ||| data).toNat ∧ n 8 = (old ^^^ data).toNat ∧ n 9 = data.toNat
    ∧ (w = 32 → n 10 = (if data.ule old then 0 else old + 1).toNat) ∧ (w = 32 → n 11 = (if old = 0 ∨ data.ult old then data else old - 1).toNat))

namespace Sys2Proof.Claims

/-- Every bank but bank k of a cluster is as it was, and everything else of every cluster, but for the lines that segments hold and their counts. -/
def OtherBanks (s s' : State) (cluster k : Nat) : Prop := ∀ c,
  { s'.cluster c with banks := [], hits := [], misses := [] } = { s.cluster c with banks := [], hits := [], misses := [] }
  ∧ ∀ j, (c ≠ cluster ∨ j ≠ k) → ((s'.cluster c).banks[j]?).map (fun b => { b with seg := [] }) = ((s.cluster c).banks[j]?).map (fun b => { b with seg := [] })

end Sys2Proof.Claims

/-- R170, R183, R167: STF with room pushes one 16-byte entry for each participating row in ascending order behind what the FIFO holds; LDF with enough entries pops one for each participating row, oldest first, into ascending rows, keeping the low bytes of the width. No other register, no other bank of any cluster, nothing else of the bank, no scratchpad byte and no bed changes, and no memory but for dirty bytes of the L1 that a release performs; the release may change which lines the segments hold and what they count, and an LDF changes nothing else of a cluster at all. No message goes out. -/
def Obligations.FifoComplete : Prop :=
  ∀ (f : MForm) (s : State) (t : Team) (b : Bank) (k : Nat) (rows : List Nat), mDataOk f t = true → mSuppressed f t = false →
    rows = rowList (t.part f.prd) t.foot.rows → rows ≠ [] → fifoFault s t f = none → k = (fifoAddr t f).toNat % 64 →
    (s.cluster (clusterOf t.place.core)).banks[k]? = some b → b.quiesced = none → clusterOf t.place.core < s.clusters.length →
    (Runs (.stf f) s t → b.fifo.length + rows.length ≤ 8192 → (isRel f.order = true → releaseStalls s t.place.core t.flow.did (mScope f) = false) →
      ∃ s' t', exec (.stf f) s = .next s' ∧ s'.team? t.tid = some t' ∧ TeamKeeps t t' ∧ FallsThrough t t' ∧ t'.regs = t.regs ∧ Claims.Rest t.tid s s'
        ∧ Claims.MemKeeps s s' t.place.core (fun _ => False) ∧ Claims.ScratchKeeps s s' (clusterOf t.place.core) (fun _ _ => False)
        ∧ s'.gov.plots = s.gov.plots ∧ s'.log = s.log ∧ Claims.OtherBanks s s' (clusterOf t.place.core) k
        ∧ ∃ b', (s'.cluster (clusterOf t.place.core)).banks[k]? = some b' ∧ { b' with fifo := b.fifo, seg := b.seg } = b ∧ b'.fifo = b.fifo ++ rows.map fun r =>
            (BitVec.ofNat 128 (bytesNat (dataBytes t f.data.toNat (widthBytes f.width) r)), dataPois t f.data.toNat (widthRegs f.width) r))
    ∧ (Runs (.ldf f) s t → rows.length ≤ b.fifo.length →
      ∃ s' t', exec (.ldf f) s = .next s' ∧ s'.team? t.tid = some t' ∧ TeamKeeps t t' ∧ FallsThrough t t' ∧ Claims.Rest t.tid s s' ∧ s'.mem = s.mem
        ∧ Claims.ScratchKeeps s s' (clusterOf t.place.core) (fun _ _ => False) ∧ s'.gov.plots = s.gov.plots ∧ s'.log = s.log
        ∧ (∀ c, c ≠ clusterOf t.place.core → s'.cluster c = s.cluster c)
        ∧ s'.cluster (clusterOf t.place.core) = { s.cluster (clusterOf t.place.core) with
            banks := (s.cluster (clusterOf t.place.core)).banks.set k { b with fifo := b.fifo.drop rows.length } }
        ∧ Claims.VectorWritten t t' fun r row =>
            if f.data.toNat ≤ r ∧ r < f.data.toNat + widthRegs f.width then
              (rows.idxOf? row).bind fun j => (b.fifo[j]?).map fun e => loadElem (natBytes (widthBytes f.width) e.1.toNat) e.2 (r - f.data.toNat)
            else none)

namespace Sys2Proof.Claims

/-- The lines that rows name, those of aperture pages apart. -/
def linesNamed (l : List (Nat × DWord × Target)) (line : Nat) : Prop := ∃ x ∈ l, ∃ pa pol, x.2.2 = .mem pa pol ∧ isAperture pa = false ∧ line = pa / 128
/-- The lines that a prefetch asks for: those that the cache does not hold whole (R184). -/
def prefetched (s : State) (t : Team) (f : MForm) (l : List RowAcc) : List (Nat × Nat) :=
  linesOf (((okRows l).filter fun x => prefRow x.2.2).map fun x => (x.1, x.2.1, wholeLine x.2.2))
    fun pa pol => !l1Serves s t.place.core t.flow.did (if f.qual = 0 then 1 else 2) pol pa 128

end Sys2Proof.Claims

/-- R184 to R187: PREF, CLINE, MARM and MWAIT none of whose rows faults or waits complete and change no register. PREF changes no memory but by performing dirty bytes of the L1. CLINE at .plot or wider cleans (every dirty byte of the domain's line in the core's L1 is performed, and the line that stays is clean), discards (the domain's line leaves the L1 unperformed, and for .field and wider the segments and the constant cache of the cluster), or both; it changes no other memory. MARM arms the monitor on the line of the lowest participating row; MWAIT ends at once, disarmed, with cause 5 off the armed line (that it is disarmed then too is the model's choice: assumption log 99), with the held cause when a wake is held, and with cause 2 when its time has passed. -/
def Obligations.CacheAndMonitorComplete : Prop :=
  ∀ (f : MForm) (s : State) (t : Team), mOk 0 1 f t = true → mSuppressed f t = false →
    (Runs (.pref f) s t → ∀ u, u = Claims.mTeam (.pref f) s t (indexRegs f) → (∀ r ∈ rowAccs s u f false .read, r.code ≠ some 0x38) →
      (∀ x ∈ Claims.prefetched s u f (rowAccs s u f false .read), segStalls s t.place.core x.2 (x.1 * 128) = false) →
      evictStalls s t.place.core t.flow.did (if f.qual = 0 then ((Claims.prefetched s u f (rowAccs s u f false .read)).filter fun x => x.2 == 0).map (·.1) else []) = false →
      ∃ s' t', exec (.pref f) s = .next s' ∧ s'.team? t.tid = some t' ∧ TeamKeeps t t' ∧ FallsThrough t t' ∧ t'.regs = t.regs ∧ Claims.Rest t.tid s s'
        ∧ Claims.MemKeeps s s' t.place.core (fun _ => False))
    ∧ (Runs (.cline f) s t → ∀ u acc, u = Claims.mTeam (.cline f) s t (indexRegs f) → acc = (if f.qual = 1 then .inval else .read) →
      Claims.passes s u f false (f.qual != 1) false acc →
      ∃ s' t', exec (.cline f) s = .next s' ∧ s'.team? t.tid = some t' ∧ TeamKeeps t t' ∧ FallsThrough t t' ∧ t'.regs = t.regs ∧ Claims.Rest t.tid s s'
        ∧ (f.qual = 1 → s'.mem = s.mem) ∧ Claims.MemKeeps s s' t.place.core (fun _ => False)
        ∧ ∀ line, Claims.linesNamed (okRows (rowAccs s u f false acc)) line → 2 ≤ scopeNat f.scope → t.place.core < s.cores.length →
          (f.qual ≠ 1 → ∀ l o, l1Find (s.core t.place.core) t.flow.did line = some l → o < 128 → l.dirty.getLsbD o = true →
            cellGet s'.mem.cells (line * 128 + o) = l.bytes.extractLsb' (8 * o) 8)
          ∧ (f.qual = 0 → ∀ l, l1Find (s'.core t.place.core) t.flow.did line = some l → l.dirty = 0)
          ∧ (f.qual ≠ 0 → l1Find (s'.core t.place.core) t.flow.did line = none)
          ∧ (f.qual ≠ 0 → 3 ≤ scopeNat f.scope → clusterOf t.place.core < s.clusters.length →
            (∀ b ∈ (s'.cluster (clusterOf t.place.core)).banks, ∀ l ∈ b.seg, ¬(l.line = line ∧ l.dom = t.flow.did))
            ∧ ∀ e ∈ (s'.cluster (clusterOf t.place.core)).cc, ¬(e.1 = t.flow.did ∧ e.2.1 / 128 = line)))
    ∧ (Runs (.marm f) s t → ∀ u x, u = Claims.mTeam (.marm f) s t (indexRegs f) → (okRows (rowAccs s u f false .read)).head? = some x →
      (rowList (t.part f.prd) t.foot.rows).head? = some x.1 →
      ∃ s' t', exec (.marm f) s = .next s' ∧ s'.team? t.tid = some t' ∧ t'.sync.mon = some ⟨(monLine u x.2.2).1, (monLine u x.2.2).2, none⟩
        ∧ TeamKeeps t { t' with sync := { t'.sync with mon := t.sync.mon } } ∧ FallsThrough t t' ∧ t'.regs = t.regs ∧ Claims.Rest t.tid s s' ∧ s'.mem = s.mem)
    ∧ (Runs (.mwait f) s t → ∀ u x m, u = Claims.mTeam (.mwait f) s t (indexRegs f) → lowestAcc s u f = some x → x.code = none → t.sync.mon = some m →
      ∀ cause, ((∃ g, x.tgt = .ok g ∧ (m.space, m.line) ≠ monLine u g ∧ cause = 5)
        ∨ ((∃ g, x.tgt = .ok g ∧ (m.space, m.line) = monLine u g) ∧ (m.woke = some cause
          ∨ m.woke = none ∧ cause = 2 ∧ ∃ a, t.sync.mwaitAt = some a ∧ a + 64 * 2 ^ f.qual.toNat ≤ s.clock.ac))) →
      ∃ s' t', exec (.mwait f) s = .next s' ∧ s'.team? t.tid = some t' ∧ t'.sync.mon = none ∧ t'.sync.mwaitAt = none ∧ t'.sync.mwcause = cause
        ∧ FallsThrough t t' ∧ t'.regs = t.regs ∧ DeviceKeeps t.tid s s')

/-! ## Synchronisation and system instructions -/

/-- R116, R167, R117, R21, R118, R130: a FENCE that no quiesced segment bank holds completes and at .plot or wider leaves no dirty byte of the domain in the core's L1; WAITC completes when the counter of its class is at most IMM32; TRYW completes at once with q true when its condition is met, and with q false when it has waited 2,048 ac. None writes another register. -/
def Obligations.FencesAndWaitsComplete : Prop :=
  ∀ (f : YForm) (s : State) (t : Team), yOk f t = true → ySuppressed f t = false →
    (Runs (.fence f) s t → fenceScope f ≤ 5 → releaseStalls s t.place.core t.flow.did (fenceScope f) = false →
      ∃ s' t', exec (.fence f) s = .next s' ∧ s'.team? t.tid = some t' ∧ TeamKeeps t t' ∧ FallsThrough t t' ∧ t'.regs = t.regs ∧ Claims.Rest t.tid s s'
        ∧ Claims.MemKeeps s s' t.place.core (fun _ => False)
        ∧ (2 ≤ fenceScope f → ∀ l ∈ (s'.core t.place.core).l1, l.dom = t.flow.did → l.dirty = 0))
    ∧ (Runs (.waitc f) s t → f.imm.toNat ≤ 255 → t.count f.sub.toNat ≤ f.imm.toNat →
      RunsTo (.waitc f) s t fun t' => FallsThrough t t' ∧ t'.regs = t.regs)
    ∧ (Runs (.tryw f) s t → f.sub.toNat ≤ 2 → qNumOk t f.d = true → sregOk t f.a.toNat = true → sregOk t f.b.toNat = true →
      (t.sget f.a.toNat).poison = false → (f.sub ≠ 0 → (t.sget f.b.toNat).poison = false) →
      ∀ met, trywMet f s (t.issued (.tryw f) s) = some met → (met = true ∨ 2048 ≤ trywWaited s t) →
      ∃ s' t', exec (.tryw f) s = .next s' ∧ s'.team? t.tid = some t' ∧ FallsThrough t t' ∧ t'.sync.tryw = none ∧ DeviceKeeps t.tid s s'
        ∧ t'.regs.v = t.regs.v ∧ t'.regs.s = t.regs.s ∧ t'.regs.p = t.regs.p ∧ (∀ k, k < 7 → k + 8 ≠ f.d.toNat → t'.qget k = t.qget k)
        ∧ (f.d.toNat < 15 → t'.qget (f.d.toNat - 8) = met))

namespace Sys2Proof.Claims
/-- Point n of a team's plot is p in this state. -/
def pointIs (s : State) (t : Team) (n : Nat) (p : Point) : Prop := ∃ pl, s.plot? t.place.plot = some pl ∧ pl.points[n]? = some p
end Sys2Proof.Claims

/-- R120 to R124: RVINIT sets a point on which nothing stands to live mode or to count mode with its EXPECT; RVARR counts its team in a point and, when that meets the phase, advances it; RVWAIT of a met phase sets q to the point's poison mark and makes the next phase the one the team wants; one that names no q and meets the mark takes fault 0x38 after that. -/
def Obligations.RendezvousComplete : Prop :=
  ∀ (f : YForm) (s : State) (t : Team) (p : Point), yOk f t = true → ySuppressed f t = false →
    (Runs (.rvinit f) s t → f.imm &&& 0xFFFF00E0 = 0 → f.imm.toNat % 32 < 24 → Claims.pointIs s t (f.imm.toNat % 32) p → p.arrived = [] → p.count = 0 →
      boundPending s t.place.plot (f.imm.toNat % 32) = false →
      ∃ s' t' p', exec (.rvinit f) s = .next s' ∧ s'.team? t.tid = some t' ∧ TeamKeeps t t' ∧ FallsThrough t t' ∧ t'.regs = t.regs ∧ s'.mem = s.mem
        ∧ Claims.pointIs s' t (f.imm.toNat % 32) p' ∧ p'.phase = p.phase ∧ p'.arrived = [] ∧ p'.count = 0 ∧ p'.poison = false
        ∧ (if f.imm.toNat / 256 = 0 then p'.live = true else p'.live = false ∧ p'.expect = f.imm.toNat / 256))
    ∧ (Runs (.rvarr f) s t → (f.sub = 0 ∨ f.sub = 2) → f.imm.toNat < 24 → Claims.pointIs s t f.imm.toNat p → p.bound = [] →
      (p.live = true → t.place.teamix ∉ p.arrived) → (f.sub = 2 → releaseStalls s t.place.core t.flow.did 2 = false) →
      ∃ s' t' p', exec (.rvarr f) s = .next s' ∧ s'.team? t.tid = some t' ∧ FallsThrough t t' ∧ t'.regs = t.regs ∧ Claims.pointIs s' t f.imm.toNat p'
        ∧ t'.sync.want[f.imm.toNat]? = (t.sync.want[f.imm.toNat]?).map (fun _ => p.phase + 1)
        ∧ p' = (if (if p.live then ∀ u ∈ s'.teams, u.place.plot = t.place.plot → u.place.teamix ∈ p.arrived ∨ u.place.teamix = t.place.teamix
                    else p.count + 1 = p.expect)
                then { p with phase := p.phase + 1, arrived := [], count := 0 }
                else if p.live then { p with arrived := setIns p.arrived t.place.teamix } else { p with count := p.count + 1 }))
    ∧ (Runs (.rvwait f) s t → qNumOk t f.d = true → f.imm.toNat < 24 → Claims.pointIs s t f.imm.toNat p →
      (p.phase - t.sync.want.getD f.imm.toNat 1).msb = false →
      (f.d.toNat = 15 → p.poison = true → ∃ u : Team, exec (.rvwait f) s = raise (acquireAt s t.place.core t.flow.did 2) u 0x38
        ∧ u.sync.want = t.sync.want.set f.imm.toNat (p.phase + 1) ∧ u.regs = t.regs ∧ u.flow = t.flow ∧ TeamKeeps t { u with sync := { u.sync with want := t.sync.want } })
      ∧ ((f.d.toNat = 15 → p.poison = false) → ∃ s' t', exec (.rvwait f) s = .next s' ∧ s'.team? t.tid = some t' ∧ FallsThrough t t' ∧ s'.mem = s.mem
        ∧ t'.sync.want[f.imm.toNat]? = (t.sync.want[f.imm.toNat]?).map (fun _ => p.phase + 1) ∧ t'.sync.rvLive = p.live
        ∧ t'.regs.v = t.regs.v ∧ t'.regs.s = t.regs.s ∧ t'.regs.p = t.regs.p ∧ (∀ k, k < 7 → k + 8 ≠ f.d.toNat → t'.qget k = t.qget k)
        ∧ (f.d.toNat < 15 → t'.qget (f.d.toNat - 8) = p.poison)))

/-- R86, R126, R127, R56, R192, R193: SETFMT and WRSR of a clean scalar, and SETFMT of an immediate, complete: FMT keeps bits 20 to 0, SCHK bit 0, HVEC its fields unless SLOT is 5 to 7, HMASK a word inside a handler only, and a write of any other register that exists changes nothing; nothing else of the team changes but the pc, and nothing of the device. -/
def Obligations.SystemWritesComplete : Prop :=
  ∀ (f : YForm) (s : State) (t : Team), yOk f t = true → ySuppressed f t = false →
    (Runs (.setfmt f) s t → (f.ib = false → sregOk t f.a.toNat = true ∧ (t.sget f.a.toNat).poison = false) →
      ∃ s' t', exec (.setfmt f) s = .next s' ∧ s'.team? t.tid = some t' ∧ TeamKeeps t t' ∧ DeviceKeeps t.tid s s' ∧ t'.regs = t.regs
        ∧ t'.flow.pc = t.flow.pc.next ∧ t'.sched.hold = none ∧ { t'.flow with pc := t.flow.pc, entered := t.flow.entered, fmt := t.flow.fmt } = t.flow
        ∧ t'.flow.fmt = (if f.ib then f.imm else (t.sget f.a.toNat).bits) &&& 0x1FFFFF)
    ∧ (Runs (.wrsr f) s t → sregOk t f.a.toNat = true → (t.sget f.a.toNat).poison = false → (sysReg s (t.issued (.wrsr f) s) f.imm.toNat).isSome = true →
      ∀ w, w = (t.sget f.a.toNat).bits →
      ∃ s' t', exec (.wrsr f) s = .next s' ∧ s'.team? t.tid = some t' ∧ DeviceKeeps t.tid s s' ∧ t'.regs = t.regs
        ∧ TeamKeeps t { t' with schk := t.schk, trap := { t'.trap with hvec := t.trap.hvec, hmask := t.trap.hmask } }
        ∧ t'.flow.pc = t.flow.pc.next ∧ t'.sched.hold = none ∧ { t'.flow with pc := t.flow.pc, entered := t.flow.entered, fmt := t.flow.fmt } = t.flow
        ∧ t'.flow.fmt = (if f.imm = 0x008 then w &&& 0x1FFFFF else t.flow.fmt)
        ∧ t'.schk = (if f.imm = 0x009 then w &&& 1 else t.schk)
        ∧ t'.trap.hvec = (if f.imm = 0x00A ∧ (w.extractLsb' 5 3).toNat ≤ 4 then w &&& 0xFFFFFFE1 else t.trap.hvec)
        ∧ (∀ n, n < 32 → maskWord t'.trap.hmask n = if f.imm.toNat = 0x040 + n ∧ t.trap.inHandler = true then w else maskWord t.trap.hmask n))

/-- R71, R114, R172, R191, R302, R307, R127: RDSR of a register that exists completes: D alone receives its value, clean, or zero when a gate hides it; an index that names no register takes fault 0x02. The values read are those of the team's placement, mask, counters, depths, trap and region registers. -/
def Obligations.SystemReadsComplete : Prop :=
  ∀ (f : YForm) (s : State) (t u : Team), yOk f t = true → ySuppressed f t = false → Runs (.rdsr f) s t → sregOk t f.d.toNat = true → u = t.issued (.rdsr f) s →
    (sysReg s u f.imm.toNat = none → exec (.rdsr f) s = raise s u 0x02)
    ∧ (∀ w, sysReg s u f.imm.toNat = some w → RunsTo (.rdsr f) s t fun t' => FallsThrough t t' ∧ Claims.ScalarWritten t t' fun r =>
        if r = f.d.toNat then some (Elem.clean (if t.gate.isSome = true ∧ gateZero f.imm.toNat = true then 0 else w)) else none)
    ∧ sysReg s u 0x000 = some 32 ∧ sysReg s u 0x001 = some (BitVec.ofNat 32 t.place.teamix) ∧ sysReg s u 0x002 = some (t.stamp.plotix.extractLsb' 0 32)
    ∧ sysReg s u 0x003 = some (t.stamp.plotix.extractLsb' 32 32) ∧ sysReg s u 0x004 = some (BitVec.ofNat 32 t.place.bed)
    ∧ sysReg s u 0x005 = some (BitVec.ofNat 32 t.foot.rows) ∧ sysReg s u 0x006 = some (BitVec.ofNat 32 t.flow.did) ∧ sysReg s u 0x008 = some t.flow.fmt
    ∧ sysReg s u 0x009 = some t.schk ∧ sysReg s u 0x00A = some t.trap.hvec
    ∧ (∀ c, c < 4 → sysReg s u (0x010 + c) = some (BitVec.ofNat 32 (t.count c)))
    ∧ sysReg s u 0x020 = some t.trap.hflt ∧ sysReg s u 0x021 = some (t.trap.hpc.extractLsb' 0 32) ∧ sysReg s u 0x10A = some (t.trap.hpc.extractLsb' 32 32)
    ∧ sysReg s u 0x022 = some t.region.hrgn
    ∧ (∀ n, n < 32 → sysReg s u (0x040 + n) = some (maskWord t.trap.hmask n) ∧ sysReg s u (0x060 + n) = some (maskWord t.trap.hfrow n)
        ∧ sysReg s u (0x120 + n) = some (maskWord t.flow.mask n))
    ∧ sysReg s u 0x100 = some (BitVec.ofNat 32 t.rsDepth) ∧ sysReg s u 0x103 = some (BitVec.ofNat 32 t.flow.cs.length)
    ∧ sysReg s u 0x104 = some t.trap.trapArg ∧ sysReg s u 0x105 = some (BitVec.ofNat 32 t.sync.mwcause)
    ∧ sysReg s u 0x106 = some (t.trap.faddr.extractLsb' 0 32) ∧ sysReg s u 0x107 = some (t.trap.faddr.extractLsb' 32 32)
    ∧ sysReg s u 0x10E = some (BitVec.ofNat 32 t.gcause)

/-- R128 to R130, R164, R168: CARVE by the producer right after a live-mode RVWAIT sets q and leaves the extension at the size asked for, or clears q and leaves it as it was: growing succeeds exactly when the L1 keeps 2 banks and the domain's mask has enough that no bed holds, and takes those; the L1 is written back whole, every dirty byte of it standing in memory, and empty whenever its banks change in number (that it is the whole L1, where R128 speaks of the banks that leave, is the model's choice: assumption log 26); the bytes that stay are as they were; TLBI of a privileged team drops the domain's translations in the range from every TLB of the estate; CCTL on a bank of the team's domain quiesces it, resumes it, or gives a bank it has quiesced its new mode with contents reset. -/
def Obligations.CarveTlbiCctlComplete : Prop :=
  ∀ (f : YForm) (s : State) (t : Team), yOk f t = true → ySuppressed f t = false →
    (Runs (.carve f) s t → qNumOk t f.d = true → sregOk t f.a.toNat = true → (t.sget f.a.toNat).poison = false →
      (s.bed t.place.plot t.place.bed).producer = t.place.place → t.sync.rvLive = true → bedNamed s t = false → t.gate = none →
      ∀ want, want = (t.sget f.a.toNat).bits.toNat → ∀ pl, s.plot? t.place.plot = some pl → t.place.bed < pl.beds.length →
      l1Stalls s t.place.core = false →
      ∃ s' t' ok, exec (.carve f) s = .next s' ∧ s'.team? t.tid = some t' ∧ FallsThrough t t' ∧ t'.regs.v = t.regs.v ∧ t'.regs.s = t.regs.s
        ∧ t'.regs.p = t.regs.p ∧ (f.d.toNat < 15 → t'.qget (f.d.toNat - 8) = ok) ∧ t'.sync.rvLive = false
        ∧ (∀ cur free, cur = (s.bed t.place.plot t.place.bed).ext → free = freeBanks s t.place.core t.flow.did →
          (ok = true ↔ cur.length < want → 2 + (want - cur.length) ≤ l1Banks s t.place.core ∧ want - cur.length ≤ free.length)
          ∧ (s'.bed t.place.plot t.place.bed).ext = (if ok = false then cur else if want ≤ cur.length then cur.take want else cur ++ free.take (want - cur.length))
          ∧ (ok = true → cur.length ≠ want → (s'.core t.place.core).l1 = []
            ∧ ∀ l ∈ (s.core t.place.core).l1, (∀ l' ∈ (s.core t.place.core).l1, l'.line = l.line → l' = l) → ∀ o, o < 128 → l.dirty.getLsbD o = true →
                cellGet s'.mem.cells (l.line * 128 + o) = l.bytes.extractLsb' (8 * o) 8)
          ∧ ∀ a, a < extBase s t.place.plot t.place.bed + min want cur.length * 32768 →
            cellGet (s'.bed t.place.plot t.place.bed).mem.cells a = cellGet (s.bed t.place.plot t.place.bed).mem.cells a)
        ∧ (ok = false → s'.mem = s.mem) ∧ Claims.MemKeeps s s' t.place.core (fun _ => False))
    ∧ (Runs (.tlbi f) s t → f.imm.toNat ≤ 2 → (f.imm.toNat = 2 ∨ xregOk t f.a.toNat = true ∧ t.xpois f.a.toNat = false) → t.stamp.priv = true →
      releaseStalls s t.place.core t.flow.did 4 = false →
      ∃ s' t', exec (.tlbi f) s = .next s' ∧ s'.team? t.tid = some t' ∧ TeamKeeps t t' ∧ FallsThrough t t' ∧ t'.regs = t.regs
        ∧ Claims.MemKeeps s s' t.place.core (fun _ => False)
        ∧ ∀ c, c < s.cores.length → sameEstate s (dieOf t.place.core) (dieOf c) = true → ∀ e, e ∈ (s'.core c).tlb ∨ e ∈ (s'.core c).stlb →
            e.dom = t.flow.did → tlbiHits f.imm.toNat (t.xget f.a.toNat).toNat e = false)
    ∧ (Runs (.cctl f) s t → f.imm.toNat ≤ 4 → sregOk t f.a.toNat = true → (t.sget f.a.toNat).poison = false →
      ∀ k b, k = (t.sget f.a.toNat).bits.toNat → k < 64 → clusterOf t.place.core < s.clusters.length →
        (s.cluster (clusterOf t.place.core)).banks[k]? = some b → b.owner = t.flow.did → (f.imm.toNat = 0 ∨ f.imm.toNat = 4 ∨ b.quiesced = some t.flow.did) →
      ∃ s' t' b', exec (.cctl f) s = .next s' ∧ s'.team? t.tid = some t' ∧ FallsThrough t t' ∧ t'.regs = t.regs ∧ s'.mem = s.mem
        ∧ (s'.cluster (clusterOf t.place.core)).banks[k]? = some b' ∧ b'.owner = b.owner
        ∧ (f.imm.toNat = 0 → b' = { b with quiesced := some t.flow.did }) ∧ (f.imm.toNat = 4 → b' = { b with quiesced := none })
        ∧ (1 ≤ f.imm.toNat ∧ f.imm.toNat ≤ 3 → b'.mode = (if f.imm.toNat = 1 then .cache else if f.imm.toNat = 2 then .plot else .fifo)
            ∧ b'.mem = Scratch.empty ∧ b'.fifo = [] ∧ b'.seg = [] ∧ b'.quiesced = b.quiesced))

/-- R131 to R133: CLK writes the die's cycle counter or the launch clock into its pair; RNG writes clean entropy, whatever it is; HALT halts the team for its debugger at the next slot; BKPT with debug on does so and reports its immediate, with debug off it does nothing. The model's choices in it: the message of BKPT has kind 2 in the list of sent messages (assumption log 9); HALT and BKPT inside a handler halt at once, where R195 speaks of a driver's HALT request alone (assumption log 30). -/
def Obligations.ClockEntropyHaltComplete : Prop :=
  ∀ (f : YForm) (s : State) (t : Team), yOk f t = true → ySuppressed f t = false →
    (Runs (.clk f) s t → f.imm.toNat ≤ 1 → xregOk t f.d.toNat = true →
      ∀ x : DWord, x = (if f.imm = 0 then BitVec.ofNat 64 (s.clock.ac + (s.die (t.place.core / 64)).acOffset) else BitVec.ofNat 64 s.clock.ns) →
      RunsTo (.clk f) s t fun t' => FallsThrough t t' ∧ Claims.ScalarWritten t t' fun r =>
        if r = f.d.toNat then some ⟨x.extractLsb' 0 32, false⟩ else if r = f.d.toNat + 1 then some ⟨x.extractLsb' 32 32, false⟩ else none)
    ∧ (Runs (.rng f) s t → (if f.ty = 4 then xregOk t f.d.toNat else sregOk t f.d.toNat) = true →
      RunsTo (.rng f) s t fun t' => FallsThrough t t' ∧ ∃ x : DWord, x = Config.freeWord s.free ∧ Claims.ScalarWritten t t' fun r =>
        if r = f.d.toNat then some ⟨x.extractLsb' 0 32, false⟩ else if f.ty = 4 ∧ r = f.d.toNat + 1 then some ⟨x.extractLsb' 32 32, false⟩ else none)
    ∧ (Runs (.halt f) s t → ∃ s' t', exec (.halt f) s = .next s' ∧ s'.team? t.tid = some t' ∧ t'.sched.status = .haltDebug ∧ FallsThrough t t' ∧ t'.regs = t.regs
        ∧ t'.sched.pend = [] ∧ s'.mem = s.mem ∧ s'.log = s.log ∧ OtherTeams t.tid s s')
    ∧ (Runs (.bkpt f) s t → ∃ s' t', exec (.bkpt f) s = .next s' ∧ s'.team? t.tid = some t' ∧ FallsThrough t t' ∧ t'.regs = t.regs ∧ s'.mem = s.mem
        ∧ OtherTeams t.tid s s'
        ∧ if (domst s t).getLsbD 2 then t'.sched.status = .haltDebug ∧ s'.log = s.log ++ [⟨t.stamp.home, 2, t.tid, natBytes 4 f.imm.toNat⟩]
          else t'.sched.status = t.sched.status ∧ s'.log = s.log)

/-! ## Engine and queue instructions -/

namespace Sys2Proof.Claims

/-- The copy instructions, each with its KIND (R229). -/
def copies (i : Instr) : Option (EForm × Nat) := match i with
  | .cpy f => some (f, 0)
  | .cpyg f => some (f, 1)
  | .cpys f => some (f, 2)
  | .cpyf f => some (f, 3)
  | .cpym f => some (f, 6)
  | _ => none
/-- The dimensions that a record's table gives, when it has none or one that lies in the bed, is clean and is not waited for (R207). -/
def tableOf (s : State) (u : Team) (w : List Word) : Option (List Dim) := match tableRange w with
  | none => some []
  | some x =>
    if inBed s u.spAgent x.1 x.2 ∧ tableHeld s u w = none ∧ (spReadRange s u.spAgent x.1 x.2).2 = false
    then some (tableDims (x.2 / 16) (spReadRange s u.spAgent x.1 x.2).1) else none
/-- A run of scalars from r receives words, clean. -/
def RecordWritten (t t' : Team) (r : Nat) (ws : List Word) : Prop :=
  ScalarWritten t t' fun k => if r ≤ k then (ws[k - r]?).map Elem.clean else none
/-- What a copy or a matrix command leaves of the device as it issues: everything but its core's channels, scoreboard and matrix unit. -/
structure EngineKeeps (t : Team) (s s' : State) : Prop where
  agenda : s'.agenda = s.agenda
  focus : s'.focus = s.focus
  log : s'.log = s.log
  mem : s'.mem = s.mem
  teams : OtherTeams t.tid s s'
  others : ∀ c, c ≠ t.place.core → s'.core c = s.core c
  here : { s'.core t.place.core with issue := [], chans := [], sb := [], mx := Matrix.reset } =
    { s.core t.place.core with issue := [], chans := [], sb := [], mx := Matrix.reset }
  clusters : s'.clusters = s.clusters
  dies : s'.dies = s.dies
  gov : s'.gov = s.gov
  mgmt : s'.mgmt = s.mgmt
  reports : s'.reports = s.reports
/-- The team has issued an operation of a class (R18): nothing else of it changes but that its graft status may. -/
def Issued (t t' : Team) (op cls : Nat) (done : Bool) : Prop :=
  TeamKeeps { t with ops := t.ops ++ [⟨op, cls, done⟩], graft := t'.graft } t' ∧ FallsThrough t t' ∧ t'.regs = t.regs

end Sys2Proof.Claims

/-- R203, R204, R232: a copy by the producer on a channel of its bed whose record is clean and breaks no rule joins the end of its channel, takes its scoreboard entries and counts in COUNT(0); the pc goes on and nothing else changes. -/
def Obligations.CopiesIssue : Prop :=
  ∀ (i : Instr) (f : EForm) (kind : Nat) (s : State) (t : Team) (tab : List Dim) (c : Copy),
    Claims.copies i = some (f, kind) → Runs i s t → eOk 8 f t = true → eSuppressed f t = false →
    isProducer s t = true → holdsChan s t f.sel.toNat = true → t.recordPois f.rbase.toNat 8 = false →
    Claims.tableOf s (t.issued i s) (t.record f.rbase.toNat 8) = some tab → c = newCopy t kind f.rv.toNat s.uid (t.record f.rbase.toNat 8) tab →
    layoutBad s t.spAgent c tab = false → copyBankBad s t.spAgent c = false → copyHeld s t f.sel.toNat (copyEntries s t.spAgent c).length = none →
    t.place.core < s.cores.length → f.sel.toNat < (s.core t.place.core).chans.length →
    ∃ s' t', exec i s = .next s' ∧ s'.team? t.tid = some t' ∧ Claims.Issued t t' s.uid 0 false ∧ t'.graft = t.graft ∧ Claims.EngineKeeps t s s'
      ∧ (s'.chan t.place.core f.sel.toNat).q = (s.chan t.place.core f.sel.toNat).q ++ [c]
      ∧ (∀ k, k ≠ f.sel.toNat → s'.chan t.place.core k = s.chan t.place.core k)
      ∧ (s'.core t.place.core).sb = (s.core t.place.core).sb ++ copyEntries s t.spAgent c ∧ s'.mx t.place.core = s.mx t.place.core ∧ s'.uid = s.uid + 1

/-- R229, R230, R233, R234: WMRD and CHST write their eight words, clean, to RBASE and above and nothing else; CPYC resumes a frozen head copy, cancels the head copy, or cancels every copy of its channel. That the words of a CPYM of 2^32 bytes or more hold their low 32 bits is the model's choice (assumption log 118). -/
def Obligations.ChannelControlCompletes : Prop :=
  ∀ (f : EForm) (s : State) (t : Team), eOk 8 f t = true → eSuppressed f t = false → isProducer s t = true →
    (Runs (.wmrd f) s t → holdsChan s t f.sel.toNat = true →
      RunsTo (.wmrd f) s t fun t' => FallsThrough t t' ∧ ∃ ws, ws.length = 8 ∧ Claims.RecordWritten t t' f.rbase.toNat ws
        ∧ (∀ c, (s.chan t.place.core f.sel.toNat).q.head? = some c →
            ws.take 3 = [BitVec.ofNat 32 c.water, BitVec.ofNat 32 c.lo, BitVec.ofNat 32 c.hi] ∧ ws[7]? = some (BitVec.ofNat 32 c.bytes)
              ∧ (c.st = .frozen → ws[4]? = some (c.faddr.extractLsb' 0 32) ∧ ws[5]? = some (c.faddr.extractLsb' 32 32)))
        ∧ ws[6]? = some (BitVec.ofNat 32 (s.chan t.place.core f.sel.toNat).done))
    ∧ (Runs (.chst f) s t → RunsTo (.chst f) s t fun t' => FallsThrough t t' ∧ ∃ ws, ws.length = 8 ∧ Claims.RecordWritten t t' f.rbase.toNat ws
        ∧ (∃ frozen, frozen < 65536 ∧ ws[0]? = some (BitVec.ofNat 32 (frozen * 65536 + (s.bed t.place.plot t.place.bed).chans.toNat)))
        ∧ ws.drop 5 = [0, 0, 0])
    ∧ (Runs (.cpyc f) s t → holdsChan s t f.sel.toNat = true → (t.sget f.rbase.toNat).poison = false → (t.sget f.rbase.toNat).bits.toNat ≤ 2 →
      t.place.core < s.cores.length → f.sel.toNat < (s.core t.place.core).chans.length →
      ∃ s' t', exec (.cpyc f) s = .next s' ∧ s'.team? t.tid = some t' ∧ TeamKeeps t t' ∧ FallsThrough t t' ∧ t'.regs = t.regs ∧ Claims.EngineKeeps t s s'
        ∧ (∀ k, k ≠ f.sel.toNat → s'.chan t.place.core k = s.chan t.place.core k)
        ∧ (s'.core t.place.core).sb = (s.core t.place.core).sb ∧ s'.mx t.place.core = s.mx t.place.core
        ∧ ∀ c q', c = s.chan t.place.core f.sel.toNat → q' = (s'.chan t.place.core f.sel.toNat).q →
          ((t.sget f.rbase.toNat).bits = 0 → q' = c.q.mapIdx fun n x => if n = 0 ∧ x.st = .frozen then { x with st := .running, cause := 0, faddr := 0 } else x)
          ∧ ((t.sget f.rbase.toNat).bits = 1 → q' = c.q.mapIdx fun n x => if n = 0 then cancelCopy 1 x else x)
          ∧ ((t.sget f.rbase.toNat).bits = 2 → q' = c.q.map (cancelCopy 1)))

namespace Sys2Proof.Claims

/-- The matrix commands of a team: form, kind, record, register metadata and the ranges they name (R241, R245, R249, R254). -/
def matrixCommands (i : Instr) (t : Team) : Option (EForm × Nat × List Word × List (List DWord) × List (Nat × Nat)) := match i with
  | .mloop f => some (f, 0, t.record f.rbase.toNat 16,
      if mMeta (t.record f.rbase.toNat 16) = 2 then (List.range (mM (t.record f.rbase.toNat 16))).map fun m =>
        (List.range (mKs (t.record f.rbase.toNat 16))).map fun j => (t.vget (f.vop.toNat + 2 * j + 1) m).bits ++ (t.vget (f.vop.toNat + 2 * j) m).bits else [],
      mloopRanges (t.record f.rbase.toNat 16) t.flow.fmt)
  | .mzero f => some (f, 1, [], [], [])
  | .mst f => some (f, 2, t.record f.rbase.toNat 16, [], [mcRange (t.record f.rbase.toNat 16)])
  | .mlda f => some (f, 3, t.record f.rbase.toNat 16, [], [mcRange (t.record f.rbase.toNat 16)])
  | _ => none
/-- A matrix command passes the checks of R240 on its operands, record, poison and formats. -/
def matrixLegal (i : Instr) (t : Team) : Prop := match i with
  | .mloop f => eOk 16 f t = true ∧ t.recordPois f.rbase.toNat 16 = false
      ∧ (∀ r ∈ metaRegs f.vop.toNat (t.record f.rbase.toNat 16), ∀ m, m < mM (t.record f.rbase.toNat 16) → (t.vget r m).poison = false)
      ∧ mStructBad (t.record f.rbase.toNat 16) t.flow.fmt f.vop.toNat t.foot.vregs t.foot.rows = false
      ∧ mFormatBad (t.record f.rbase.toNat 16) t.flow.fmt = false ∧ mAlignBad (t.record f.rbase.toNat 16) t.flow.fmt = false
  | .mzero f => qHeaderOk t f.pq = true
  | .mst f | .mlda f => eOk 16 f t = true ∧ t.recordPois f.rbase.toNat 16 = false
      ∧ 4 * mN (t.record f.rbase.toNat 16) ≤ mWd (t.record f.rbase.toNat 16) 7
      ∧ mWd (t.record f.rbase.toNat 16) 2 % 16 = 0 ∧ mWd (t.record f.rbase.toNat 16) 7 % 16 = 0
  | _ => False

end Sys2Proof.Claims

/-- R236, R239, R240, R248, R252, R254: MLOOP, MZERO, MST and MLDA of a team that holds the unit and whose record passes every check join the end of the unit's queue with FMT as it is now, take their scoreboard entries and count in COUNT(1); MLOOP's registers are as they were. -/
def Obligations.MatrixCommandsIssue : Prop :=
  ∀ (i : Instr) (f : EForm) (kind : Nat) (w : List Word) (md : List (List DWord)) (ranges : List (Nat × Nat)) (s : State) (t : Team) (es : List SbEntry) (c : MCmd),
    Claims.matrixCommands i t = some (f, kind, w, md, ranges) → Runs i s t → Claims.matrixLegal i t → eSuppressed f t = false →
    mHolds (s.mx t.place.core) t.tid = true → rangesFault s t.spAgent ranges = none →
    es = mEntries s t.spAgent s.uid t.flow.did (kind == 2) ranges → mHeld s t es.length = none → t.place.core < s.cores.length →
    c = { op := s.uid, kind := kind, acc := f.sel.toNat, tid := t.tid, dom := t.flow.did, wds := w, fmt := t.flow.fmt, regMeta := md,
          kdone := 0, started := false, status := 0, finished := false, doomed := false } →
    ∃ s' t', exec i s = .next s' ∧ s'.team? t.tid = some t' ∧ Claims.Issued t t' s.uid 1 false ∧ t'.graft = t.graft ∧ Claims.EngineKeeps t s s'
      ∧ (s'.core t.place.core).chans = (s.core t.place.core).chans ∧ (s'.core t.place.core).sb = (s.core t.place.core).sb ++ es
      ∧ mQueue (s'.mx t.place.core) t.tid = mQueue (s.mx t.place.core) t.tid ++ [c]
      ∧ (s'.mx t.place.core).acc = (s.mx t.place.core).acc ∧ (s'.mx t.place.core).holder = (s.mx t.place.core).holder ∧ s'.uid = s.uid + 1

/-- R237, R238, R253, R255: MACQ of the holder completes; of another team it asks for the unit and is held, or takes fault 0x31 where the domain has no share; MREL of the holder frees an idle unit and leaves a busy one releasing; MSTAT writes its record; MQSET empties the queues of its mask. -/
def Obligations.MatrixUnitCompletes : Prop :=
  ∀ (f : EForm) (s : State) (t : Team), eSuppressed f t = false → qHeaderOk t f.pq = true →
    (Runs (.macq f) s t → mHolds (s.mx t.place.core) t.tid = true → RunsTo (.macq f) s t fun t' => FallsThrough t t' ∧ t'.regs = t.regs)
    ∧ (Runs (.macq f) s t → mHolds (s.mx t.place.core) t.tid = false → 0 < mShare s t.place.core t.flow.did → t.place.core < s.cores.length →
      ∃ s' t', exec (.macq f) s = .next s' ∧ s'.team? t.tid = some t' ∧ t'.flow = t.flow ∧ t'.regs = t.regs ∧ t'.sched.hold = some .macq
        ∧ (∃ r ∈ (s'.mx t.place.core).reqs, r.tid = t.tid) ∧ s'.mem = s.mem)
    ∧ (Runs (.macq f) s t → mHolds (s.mx t.place.core) t.tid = false → mShare s t.place.core t.flow.did = 0 →
      ∃ u, u = t.issued (.macq f) s ∧ exec (.macq f) s = raise s { u with trap := { u.trap with dcause := 1 } } 0x31)
    ∧ (Runs (.mrel f) s t → t.place.core < s.cores.length →
      ∃ s' t', exec (.mrel f) s = .next s' ∧ s'.team? t.tid = some t' ∧ TeamKeeps t t' ∧ FallsThrough t t' ∧ t'.regs = t.regs ∧ Claims.EngineKeeps t s s'
        ∧ (∀ m m', m = s.mx t.place.core → m' = s'.mx t.place.core → mDisplaced m t.tid = false → m.holder = some t.tid →
            m'.acc = m.acc ∧ m'.q = m.q ∧ if m.q = [] then m'.holder = none ∧ m'.releasing = false else m'.holder = some t.tid ∧ m'.releasing = true)
        ∧ (mDisplaced (s.mx t.place.core) t.tid = false → (s.mx t.place.core).holder ≠ some t.tid → s'.mx t.place.core = s.mx t.place.core))
    ∧ (Runs (.mstat f) s t → eOk 8 f t = true →
      RunsTo (.mstat f) s t fun t' => FallsThrough t t' ∧ ∃ ws, ws.length = 8 ∧ Claims.RecordWritten t t' f.rbase.toNat ws
        ∧ (ws.getD 0 0).getLsbD 2 = mHolds (s.mx t.place.core) t.tid
        ∧ (ws.getD 0 0).getLsbD 3 = (mHolds (s.mx t.place.core) t.tid && mDisplaced (s.mx t.place.core) t.tid)
        ∧ ws[1]? = some (BitVec.ofNat 32 t.mat.last) ∧ ws[2]? = some (BitVec.ofNat 32 t.mat.kdone) ∧ ws[6]? = some 0 ∧ ws[7]? = some 0)
    ∧ (Runs (.mqset f) s t → eOk 8 f t = true → mHolds (s.mx t.place.core) t.tid = true → mDisplaced (s.mx t.place.core) t.tid = false →
      t.recordPois f.rbase.toNat 8 = false → t.place.core < s.cores.length →
      ∀ mask : Nat, mask = (t.sget f.rbase.toNat).bits.toNat → mask < 16 → (∀ k, k < 7 → (t.sget (f.rbase.toNat + 1 + k)).bits = 0) →
      mqBusy (s.mx t.place.core) t.tid mask = false →
      ∃ s' t', exec (.mqset f) s = .next s' ∧ s'.team? t.tid = some t' ∧ TeamKeeps t t' ∧ FallsThrough t t' ∧ t'.regs = t.regs ∧ Claims.EngineKeeps t s s'
        ∧ ∀ k, (s'.mx t.place.core).mq[k]? = ((s.mx t.place.core).mq[k]?).map fun q => if mask.testBit k then [] else q)

namespace Sys2Proof.Claims

/-- The graft instructions with their kind (R348). -/
def grafts (i : Instr) : Option (EForm × Nat) := match i with
  | .group f => some (f, 0)
  | .join f => some (f, 1)
  | .route f => some (f, 2)
  | .combn f => some (f, 3)
  | _ => none
/-- Registers that a graft instruction reads for its checks: keys, or the token index and the logits (R350). -/
def graftKeys (kind : Nat) (f : EForm) (w : List Word) : List Nat :=
  if kind < 2 then keyRegs f.vop.toNat f.mod8
  else if kind = 2 then rTix w :: (List.range (rExperts w)).map (f.vop.toNat + ·) else [rTix w]
/-- The checks that follow the poison checks in R350. -/
def graftLegal (kind : Nat) (f : EForm) (s : State) (t : Team) (w : List Word) : Prop :=
  if kind < 2 then
    (if kind = 0 then groupBad t f.vop.toNat f.mod8 w else joinBad t f.mod8 w) = false ∧ graftKty f.mod8 ≤ 4
      ∧ (keyWide f.mod8 = true → f.vop.toNat % 2 = 0 ∧ vregOk t (f.vop.toNat + 1) = true)
      ∧ (graftScope f.mod8 = 0 ∧ stageOf kind w = (0, 0)
          ∨ graftScope f.mod8 = 2 ∧ stageBad s t (stageOf kind w) = false ∧ (∀ x, plotInst s t = some x → sameSign x kind f w = true)
            ∧ (unitsOf 131072 (stageOf kind w).1 (stageOf kind w).2).any (fun b => bankQuiesced s (clusterOf t.place.core) t.flow.did (b * 131072)) = false)
      ∧ (kind = 1 → t.stamp.nest < 8 ∧ joinAlignBad w = false)
  else routeBad s t kind f.vop.toNat w = false ∧ (kind = 2 → t.stamp.nest < 8) ∧ gWd w 4 % 16 = 0 ∧ gWd w 8 % 128 = 0

end Sys2Proof.Claims

namespace Sys2Proof.Claims

/-- Group j of a row's logits has maximum m, a NaN logit read as minus infinity (R344). -/
def groupMax (w : List Word) (logits : List Word) (j : Nat) (m : Int) : Prop :=
  (∀ x ∈ (logits.drop (j * rEpg w)).take (rEpg w), logitKey x ≤ m) ∧ (m = -(0x7F800000 : Int) ∨ ∃ x ∈ (logits.drop (j * rEpg w)).take (rEpg w), logitKey x = m) ∧ -(0x7F800000 : Int) ≤ m
/-- The groups chosen are those of largest maximum above minus infinity, as many as the record asks for if there are so many, in descending maximum, ties to the lower group (R344). -/
def GroupsChosen (w : List Word) (logits : List Word) (l : List Nat) : Prop :=
  ∃ m : Nat → Int, (∀ j, groupMax w logits j (m j)) ∧ l.Nodup ∧ l.length ≤ rG w
    ∧ (∀ j ∈ l, j < rGroups w ∧ -(0x7F800000 : Int) < m j) ∧ l.Pairwise (fun i j => m j < m i ∨ m i = m j ∧ i < j)
    ∧ ∀ j, j < rGroups w → j ∉ l → -(0x7F800000 : Int) < m j → l.length = rG w ∧ ∀ i ∈ l, m j < m i ∨ m i = m j ∧ i < j

end Sys2Proof.Claims

/-- R328, R329, R332, R342 to R344, R347, R348: a graft instruction with a clean record and keys that breaks no rule arrives: it counts in COUNT(2) and stands open, INROWS is the number of rows of the mask, the pc goes on, and no register changes before it is applied; GROUP, JOIN and COMBN stand in an instance that holds the team's deposit. ROUTE chooses for each row the groups of largest logit, ties to the lower group, sends its token to the home die of each in that order, and counts the rows for which no group has a logit above minus infinity. GSTAT writes its record. -/
def Obligations.GraftCompletes : Prop :=
  (∀ (i : Instr) (f : EForm) (kind : Nat) (s : State) (t : Team) (w : List Word),
    Claims.grafts i = some (f, kind) → Runs i s t → eOk 16 f t = true → vregOk t f.vop.toNat = true → eSuppressed f t = false →
    w = t.record f.rbase.toNat 16 → t.recordPois f.rbase.toNat 16 = false →
    rowsPois t (rowList t.flow.mask t.foot.rows) (Claims.graftKeys kind f w) = false → Claims.graftLegal kind f s t w →
    t.count 2 < 255 → clusterOf t.place.core < s.clusters.length →
    releaseStalls s t.place.core t.flow.did (if kind = 1 ∨ kind = 2 then 4 else 2) = false →
    (kind = 2 → slotsStall s (graftAgent t.flow.did t.stamp.priv t.place.core) .write w (routeSlots t w (rowList t.flow.mask t.foot.rows)) 16 = false) →
    ∃ s' t', exec i s = .next s' ∧ s'.team? t.tid = some t' ∧ FallsThrough t t' ∧ t'.regs = t.regs ∧ t'.ops = t.ops ++ [⟨s.uid, 2, false⟩]
      ∧ t'.graft.kind = kind ∧ t'.graft.pending = some s.uid ∧ t'.graft.inrows = (rowList t.flow.mask t.foot.rows).length ∧ t'.trap = t.trap
      ∧ (kind ≠ 2 → ∃ x ∈ (s'.cluster (clusterOf t.place.core)).insts, x.plot = t.place.plot ∧ x.kind = kind ∧ ∃ d ∈ x.deposits, d.tid = t.tid ∧ d.op = s.uid)
      ∧ (kind = 2 → ∀ (rows : List Nat) (logits : Nat → List Word), rows = rowList t.flow.mask t.foot.rows →
          (∀ row, logits row = (List.range (rExperts w)).map fun e => (t.vget (f.vop.toNat + e) row).bits) →
          (∃ r, t'.graft.result = some r ∧ r.op = s.uid ∧ r.outn = rows.length ∧ r.dropped = rows.countP fun row => (pickGroups w (logits row)).isEmpty)
          ∧ (∀ row, Claims.GroupsChosen w (logits row) (pickGroups w (logits row)))
          ∧ ∀ x, x < s.dies.length → ∃ new : List Token, (s'.die x).ingress = (s.die x).ingress ++ new
              ∧ new.map (fun k => (k.t, k.rank, k.group)) = rows.flatMap fun row =>
                  ((pickGroups w (logits row)).zipIdx.filter fun y => (estateDies s (dieOf t.place.core)).getD (rHome w y.1) 0 == x).map fun y =>
                    ((t.vget (rTix w) row).bits.toNat, y.2, y.1)))
  ∧ ∀ (f : EForm) (s : State) (t : Team), Runs (.gstat f) s t → eOk 8 f t = true → eSuppressed f t = false →
    RunsTo (.gstat f) s t fun t' => FallsThrough t t' ∧ ∃ ws, ws.length = 8 ∧ Claims.RecordWritten t t' f.rbase.toNat ws
      ∧ ws[0]? = some (BitVec.ofNat 32 (256 * t.graft.kind + t.graft.last)) ∧ ws[1]? = some (BitVec.ofNat 32 t.graft.inrows)
      ∧ ws[2]? = some (BitVec.ofNat 32 t.graft.outn) ∧ ws[3]? = some (BitVec.ofNat 32 t.graft.spilled)
      ∧ ws[4]? = some (BitVec.ofNat 32 t.graft.dropped) ∧ ws[5]? = some (BitVec.ofNat 32 t.graft.nans)
      ∧ (ws.getD 6 0).getLsbD 0 = t.graft.pending.isSome ∧ ws[7]? = some 0

namespace Sys2Proof.Claims

/-- The queue operations: form, kind, and the bit of the right that their capability needs (R278, R290, R291). -/
def queueOps (i : Instr) : Option (EForm × Nat × Nat) := match i with
  | .qenq f => some (f, 1, 18)
  | .qdeq f => some (f, 2, 19)
  | .qstl f => some (f, 3, 20)
  | _ => none

end Sys2Proof.Claims

/-- R279, R288, R290 to R292, R274, R276, R289, R293, R294: QENQ, QDEQ and QSTL with a valid capability, and QPUT, wait for the controller and count in COUNT(3); a capability that does not open the queue takes fault 0x28. No register changes before the controller answers. SPAWN of a well-formed packet adds a launch of its domain, nested one deeper, and puts it into the cluster's intake when some cluster could ever hold a plot of it, else it places nothing and has code 3; DCNT writes the counter's former value to RBASE+3 and reads, adds to, or sets the counter; GOVST consumes a poisoned scalar of its record, and writes its record: the stages and the role, the capability of the role's ring queue, and the moves. -/
def Obligations.GovernorInstructionsComplete : Prop :=
  ((∀ (i : Instr) (f : EForm) (kind right : Nat) (s : State) (t : Team),
    Claims.queueOps i = some (f, kind, right) → Runs i s t → eOk 8 f t = true → eSuppressed f t = false → t.recordPois f.rbase.toNat 8 = false →
    (∀ k, k < 3 → (t.sget (f.rbase.toNat + 4 + k)).bits = 0) →
    (capQueue s (t.xget f.rbase.toNat) right = none → exec i s = raise s (t.issued i s) 0x28)
    ∧ ∀ q, capQueue s (t.xget f.rbase.toNat) right = some q → (kind = 1 ∨ q.kind = 1) → (t.xget (f.rbase.toNat + 2)).toNat % q.esize = 0 → t.count 3 < 255 →
      releaseStalls s t.place.core t.flow.did (qopScope kind) = false →
      ∃ s' t', exec i s = .next s' ∧ s'.team? t.tid = some t' ∧ Claims.Issued t t' s.uid 3 false ∧ s'.gov.queues = s.gov.queues
        ∧ s'.gov.waiting = s.gov.waiting ++ [newQop s t kind q.id q.owner f.rbase.toNat q.esize (t.xget (f.rbase.toNat + 2)) (t.xget (f.rbase.toNat + 2))]
        ∧ Claims.MemKeeps s s' t.place.core (fun _ => False))
  ∧ ∀ (f : EForm) (s : State) (t : Team) (x : Nat), Runs (.qput f) s t → eOk 8 f t = true → eSuppressed f t = false → t.recordPois f.rbase.toNat 8 = false →
    x = (t.sget (f.rbase.toNat + 6)).bits.toNat → x < 2 ^ 24 → x / 8192 % 8 = 0 → 1 ≤ x % 8192 → x % 8192 ≤ 4096 →
    (t.xget (f.rbase.toNat + 2)).toNat % 16 = 0 → (t.xget (f.rbase.toNat + 4)).toNat % 16 = 0 → t.count 3 < 255 →
    releaseStalls s t.place.core t.flow.did 5 = false →
    ∃ s' t' o, exec (.qput f) s = .next s' ∧ s'.team? t.tid = some t' ∧ Claims.Issued t t' s.uid 3 false ∧ s'.gov.waiting = s.gov.waiting ++ [o]
      ∧ o.kind = 4 ∧ o.tid = t.tid ∧ o.len = x % 8192 ∧ o.dev = x / 65536 ∧ o.queue = (t.xget f.rbase.toNat).toNat ∧ o.addr = t.xget (f.rbase.toNat + 2) ∧ o.dest = t.xget (f.rbase.toNat + 4)
      ∧ Claims.MemKeeps s s' t.place.core (fun _ => False))
  ∧ (∀ (f : EForm) (s : State) (t : Team), eSuppressed f t = false →
    (Runs (.spawn f) s t → eOk 32 f t = true → t.recordPois f.rbase.toNat 32 = false → packetBad (t.record f.rbase.toNat 32) true = false → t.stamp.nest < 8 →
      t.count 3 < 255 → releaseStalls s t.place.core t.flow.did 4 = false → (s.cluster (clusterOf t.place.core)).intake.length < 16 → s.gov.launches.length < 1024 → clusterOf t.place.core < s.clusters.length →
      ∀ l0, l0 = newLaunch s.uid (.spawn (clusterOf t.place.core)) t.flow.did (t.stamp.nest + 1) t.stamp.priv (t.record f.rbase.toNat 32) →
      ∃ s' t' l, exec (.spawn f) s = .next s' ∧ s'.team? t.tid = some t' ∧ Claims.Issued t t' (s.uid + 1) 3 true ∧ s'.gov.launches = s.gov.launches ++ [l]
        ∧ l.uid = s.uid ∧ l.dom = t.flow.did ∧ l.nest = t.stamp.nest + 1 ∧ l.priv = t.stamp.priv ∧ l.pkt = packetOf (t.record f.rbase.toNat 32)
        ∧ (if everFits (releaseAt { s with uid := s.uid + 2 } t.place.core t.flow.did 4) l0 = true
            then l = l0 ∧ l.code = 0 ∧ (s'.cluster (clusterOf t.place.core)).intake = (s.cluster (clusterOf t.place.core)).intake ++ [s.uid]
            else l.code = 3 ∧ l.next = l.pkt.plots ∧ (s'.cluster (clusterOf t.place.core)).intake = (s.cluster (clusterOf t.place.core)).intake)
        ∧ Claims.MemKeeps s s' t.place.core (fun _ => False))
    ∧ (Runs (.dcnt f) s t → eOk 8 f t = true → t.recordPois f.rbase.toNat 8 = false → (∀ k, k < 4 → (t.sget (f.rbase.toNat + 4 + k)).bits = 0) →
      ∀ op n : Nat, op = (t.sget f.rbase.toNat).bits.toNat → n = (t.sget (f.rbase.toNat + 1)).bits.toNat → op ≤ 2 → n ≤ 63 → (op ≠ 0 → releaseStalls s t.place.core t.flow.did 5 = false) →
      ∃ s' t', exec (.dcnt f) s = .next s' ∧ s'.team? t.tid = some t' ∧ TeamKeeps t t' ∧ FallsThrough t t'
        ∧ (Claims.ScalarWritten t t' fun r => if r = f.rbase.toNat + 3 then some (Elem.clean (depCounter s t.flow.did n)) else none)
        ∧ depCounter s' t.flow.did n = (if op = 0 then depCounter s t.flow.did n
            else if op = 1 then depCounter s t.flow.did n + (t.sget (f.rbase.toNat + 2)).bits else (t.sget (f.rbase.toNat + 2)).bits)
        ∧ (∀ d k, (d ≠ t.flow.did ∨ k ≠ n) → depCounter s' d k = depCounter s d k) ∧ Claims.MemKeeps s s' t.place.core (fun _ => False))
    ∧ (Runs (.govst f) s t → eOk 8 f t = true → t.recordPois f.rbase.toNat 8 = true → exec (.govst f) s = raise s (t.issued (.govst f) s) 0x38)
    ∧ (Runs (.govst f) s t → eOk 8 f t = true → t.recordPois f.rbase.toNat 8 = false →
      RunsTo (.govst f) s t fun t' => FallsThrough t t' ∧ ∃ ws, ws.length = 8 ∧ Claims.RecordWritten t t' f.rbase.toNat ws ∧ ws.drop 4 = [0, 0, 0, 0]
        ∧ ∀ l p, s.launch? t.place.launch = some l → s.plot? t.place.plot = some p →
          ws[3]? = some (BitVec.ofNat 32 p.moves) ∧ (ws[0]? = some (BitVec.ofNat 32 (256 * l.pkt.nstage + if l.pkt.nstage = 0 then 0 else t.stamp.role)))
            ∧ (l.pkt.nstage = 0 → ws[1]? = some 0 ∧ ws[2]? = some 0)
            ∧ ∀ x, l.pkt.nstage ≠ 0 → p.stages[t.stamp.role]? = some x → ws[1]? = some (x.1.extractLsb' 0 32) ∧ ws[2]? = some (x.1.extractLsb' 32 32)))

/-! ## Device events -/

namespace Sys2Proof.Claims

/-- The events that end a hold, with the hold they end (R79, R25, R123, R178, R212). -/
def endsHold (i : Instr) : Option (Nat × Hold) := match i with
  | .watermarkRelease x => some (x.tid, .watermark)
  | .fullEmptyRelease x => some (x.tid, .fullEmpty)
  | .scoreboardRelease x => some (x.tid, .scoreboard)
  | .rvwaitRelease x => some (x.tid, .rvwait)
  | _ => none
/-- Another running team holds the line of a team's pc, fetched from the same physical address for the same domain. -/
def otherOf (t : Team) (pa : Nat) (u : Team) (l : FetchedLine) : Prop :=
  u.tid ≠ t.tid ∧ u.sched.status = .running ∧ l.addr = t.flow.pc.line ∧ l.did = t.flow.did ∧ l.pa = some pa
/-- The team is as it was but for what a waker changes: its hold and its monitor. -/
def WokenFrom (t t' : Team) : Prop := { t' with sync := { t'.sync with mon := t.sync.mon }, sched := { t'.sched with hold := t.sched.hold } } = t

end Sys2Proof.Claims

/-- R79 to R81, R35, R36, R118, R186, R187: a quadrant first holds its teams whose instruction cannot issue, then selects one of its own ready teams, in its domain a handler first and then the one whose last issue is oldest; a team with bursts of passes left issues its next one, another is to execute; a fetched line passes its parity check, stands in the team's buffer and holds in each byte what memory holds or what another team's copy of the line holds (which of the two, and that only a line that another running team has fetched from the same physical address counts as old bytes, is the model's choice: assumption log 10); a hold whose condition has come becomes a release; a wait that times out executes its instruction; a lost watch wakes with cause 1 and a spurious wake has cause 4. -/
def Obligations.SchedulingEvents : Prop :=
  (∀ (x : QuadArg) (s s1 : State) (t : Team) (c : List (Nat × Int)), s.focus.bind s.team? = none → s1 = quadHolds s x.core x.quad →
    selectTeam ((s1.core x.core).credit.getD x.quad []) (issueWeight s1 x.core) (quadReady s1 x.core x.quad) = some (t, c) →
    (t.sched.burst = [] → ∃ s', exec (.issueSelection x) s = .next s' ∧ s'.focus = some t.tid ∧ s'.mem = s1.mem)
    ∧ (∀ b r, t.sched.burst = b :: r → ∃ s' t', exec (.issueSelection x) s = .next s' ∧ s'.team? t.tid = some t' ∧ t'.sched.burst = r ∧ t'.sched.lastIssue = s1.clock.ac
        ∧ t'.regs = t.regs ∧ t'.flow = t.flow ∧ s'.clock.ac = s1.clock.ac + b)
    ∧ t ∈ s1.teams ∧ t.place.core = x.core ∧ t.place.quad = x.quad ∧ teamReady s1 t = true
    ∧ ∀ u ∈ quadReady s1 x.core x.quad, u.stamp.home = t.stamp.home →
      (u.trap.inHandler = true → t.trap.inHandler = true)
      ∧ (u.trap.inHandler = t.trap.inHandler → t.sched.lastIssue < u.sched.lastIssue ∨ t.sched.lastIssue = u.sched.lastIssue ∧ t.place.teamix ≤ u.place.teamix))
  ∧ (∀ (x : FetchArg) (s : State) (t : Team) (b : BitVec 512) (pa pol : Nat), s.team? x.tid = some t → t.sched.status = .running → lineHeld t = false →
    fetchLineOf s t.agent t.flow.pc.line = .ok b → translate s t.agent .fetch t.flow.pc.line.toNat 3 = .ok (pa, pol) → fetchStalls s t.place.core t.flow.did pol pa = false →
    ∃ s' t' c, exec (.fetchLine x) s = .next s' ∧ s'.team? x.tid = some t' ∧ Claims.WokenFrom { t with line := some ⟨t.flow.pc.line, t.flow.did, c, some pa, false⟩ } t' ∧ parityOk c = true
      ∧ ((∀ u ∈ s.teams, ∀ l, u.line = some l → ¬Claims.otherOf t pa u l) → c = b)
      ∧ ∀ i < 64, lineByte c i = lineByte b i ∨ ∃ u ∈ s.teams, ∃ l, u.line = some l ∧ Claims.otherOf t pa u l ∧ lineByte c i = lineByte l.bits i)
  ∧ (∀ (i : Instr) (tid : Nat) (h : Hold) (s : State) (t : Team), Claims.endsHold i = some (tid, h) → s.team? tid = some t → t.sched.status = .running →
    t.sched.hold = some h → holdOver s t h = true →
    ∃ s', exec i s = .next s' ∧ s'.team? tid = some { t with sched := { t.sched with hold := some .released } } ∧ s'.mem = s.mem)
  ∧ (∀ (f : YForm) (s : State) (t : Team) (b : BitVec 512), s.team? t.tid = some t → t.sched.status = .running → t.sched.hold = some .tryw → 2048 ≤ trywWaited s t →
    fetchInstr s t = .instr (.tryw f) b → holdOver s t .tryw = true →
    ∃ s1, exec (.tryw f) { atInstr s t b with focus := some t.tid } = .next s1 ∧ exec (.trywTimeout ⟨t.tid⟩) s = .next { s1 with focus := none })
  ∧ (∀ (f : MForm) (s : State) (t : Team) (m : Monitor) (b : BitVec 512), s.team? t.tid = some t → t.sched.status = .running → t.sched.hold = some .mwait →
    t.sync.mon = some m → m.woke = none → fetchInstr s t = .instr (.mwait f) b → holdOver s t .mwait = true →
    ∃ s1, exec (.mwait f) { atInstr s t b with focus := some t.tid } = .next s1 ∧ exec (.mwaitTimeout ⟨t.tid⟩) s = .next { s1 with focus := none })
  ∧ ∀ (s : State) (t : Team) (m : Monitor), s.team? t.tid = some t → t.sync.mon = some m → m.woke = none →
    (∃ s' t', exec (.monitorWake ⟨t.tid, true⟩) s = .next s' ∧ s'.team? t.tid = some t' ∧ Claims.WokenFrom t t' ∧ t'.sync.mon = some { m with woke := some 1 }
      ∧ t'.sched.hold = if t.sched.hold = some .mwait then some .released else t.sched.hold)
    ∧ ((∀ a, t.sync.lastSpurious = some a → a + 1024 ≤ s.clock.ac) →
      ∃ s' t', exec (.spuriousWake ⟨t.tid⟩) s = .next s' ∧ s'.team? t.tid = some t' ∧ t'.sync.mon = some { m with woke := some 4 }
        ∧ t'.sync.lastSpurious = some s.clock.ac ∧ t'.regs = t.regs ∧ t'.flow = t.flow)

/-- R20, R189, R190, R192: the oldest operation of a class retires only when it has completed; a reported fault joins its team's pending list, the seventeenth is lost; and at the boundary of a team outside handler and gate the oldest pending fault enters the handler as an asynchronous trap: HFLT holds its code with ASYNC and SRC, MORE tells whether others wait, HPC the slot, HMASK the mask, HFROW zero, FADDR the address of a frozen copy's fault and else what it was, and DCAUSE the cause of a domain fault. -/
def Obligations.FaultDeliveryEvents : Prop :=
  (∀ (x : OpArg) (s : State) (t : Team) (o : Op), s.team? x.tid = some t → t.ops.find? (fun p => p.cls == x.cls) = some o →
    ∃ s', exec (.operationRetire x) s = .next s'
      ∧ s'.team? x.tid = some (if o.done then { t with ops := t.ops.filter fun p => p.uid != o.uid } else t) ∧ s'.mem = s.mem)
  ∧ (∀ (s : State) (r : Report) (rest : List Report) (t : Team), s.reports = r :: rest → s.team? r.tid = some t →
    ∃ s' t', exec (.asyncFaultReport ⟨⟩) s = .next s' ∧ s'.reports = rest ∧ s'.team? r.tid = some t' ∧ { t' with region := t.region } = t
      ∧ (t.region.pend.length < 16 → t'.region = { t.region with pend := t.region.pend ++ [r.pend] })
      ∧ (16 ≤ t.region.pend.length → t'.region.pend = t.region.pend ∧ t'.region.lost = true))
  ∧ ∀ (s : State) (t : Team) (p : Pend), s.team? t.tid = some t → dueTrap t = some p → t.trap.hvec.getLsbD 0 = true → targetFault s t.agent (hvecPc t) = none →
    p.code < 256 →
    ∃ s' t', exec (.trapEntry ⟨t.tid⟩) s = .next s' ∧ s'.team? t.tid = some t' ∧ t'.regs = t.regs ∧ t'.flow.pc = hvecPc t ∧ t'.flow.mask = t.liveRows
      ∧ t'.flow.rs = t.flow.rs ∧ t'.flow.cs = t.flow.cs ∧ t'.flow.did = t.flow.did
      ∧ t'.trap.inHandler = true ∧ t'.trap.hflt.extractLsb' 0 8 = BitVec.ofNat 8 p.code ∧ t'.trap.hflt.getLsbD 8 = true
      ∧ t'.trap.hflt.getLsbD 9 = decide (1 < t.region.pend.length) ∧ t'.trap.hflt.extractLsb' 16 16 = BitVec.ofNat 16 p.src
      ∧ t'.trap.hpc = t.flow.pc.bits ∧ t'.trap.hmask = t.flow.mask ∧ t'.trap.hfrow = 0 ∧ t'.trap.faddr = (if p.code = 0x12 then p.addr else t.trap.faddr)
      ∧ t'.trap.dcause = (if p.code = 0x31 then p.dcause else t.trap.dcause)
      ∧ t'.region.pend = t.region.pend.drop 1 ∧ s'.mem = s.mem ∧ OtherTeams t.tid s s'

namespace Sys2Proof.Claims

/-- Why the next element of a copy does not land: the code and the address of a failure of its source, of the translation or the link of its global destination, or of its scratchpad destination; none where it lands or waits (R215, R224, R363). -/
def landFault (s : State) (core : Nat) (c : Copy) : Option (Nat × Nat) := match sourceOf s core c c.next with
  | .fail e a => some (freezeCause e, a)
  | .wait => none
  | .got _ =>
    if c.toQueue then none
    else if c.toGlobal then match globalDest s core c c.next with
      | .fail e a => some (freezeCause e, a)
      | .got (some a) => match translate s (c.agent core) .write a 2 with
        | .error e => some (freezeCause e, a)
        | .ok (pa, _) => if linkLost s core c.dom pa then some (4, a) else none
      | _ => none
    else (destFails s core c c.next).map fun e => (freezeCause e, c.spOf c.next)
/-- The bytes of an element stand where it landed: in stack memory and nowhere else of it, in the metadata queue, or in scratchpad (R215, R217 to R221, R246). -/
def Landed (s s' : State) (core : Nat) (c : Copy) (bs : List Byte) (p : Bool) : Prop :=
  (c.toQueue = true → core < s.cores.length → s'.mem = s.mem ∧
    (s'.core core).mx.mq[c.mq]? = ((s.core core).mx.mq[c.mq]?).map (· ++ bs.map fun b => .byte b p))
  ∧ (c.toQueue = false → c.toGlobal = true → ∀ a pa pol, globalDest s core c c.next = .got (some a) → translate s (c.agent core) .write a 2 = .ok (pa, pol) → isAperture pa = false →
    (∀ i b, bs[i]? = some b → cellGet s'.mem.cells (pa + i) = b) ∧ ∀ x, x < pa ∨ pa + bs.length ≤ x → cellGet s'.mem.cells x = cellGet s.mem.cells x)
  ∧ (c.toQueue = false → c.toGlobal = true → globalDest s core c c.next = .got none → s'.mem = s.mem)
  ∧ (c.toQueue = false → c.toGlobal = false → s'.mem = s.mem ∧
    ∀ h o, (∀ i, i < c.esize → spPlace s (c.spAgent core) (c.spOf c.next + i) = .ok ⟨h, o + i⟩ ∧ placeStands s (clusterOf core) ⟨h, o + i⟩) →
      ∀ i b, i < c.esize → bs[i]? = some b → spByte s' (clusterOf core) h (o + i) = b)

end Sys2Proof.Claims

/-- R203, R211, R222, R224 to R228: the oldest copy of a channel starts; lands one element in order, its bytes then standing at its place of memory, scratchpad or metadata queue, or freezes with the cause and address of what fails, reported as fault 0x12, or ends as faulted where its team has ended; and completes: it leaves its channel and the scoreboard, DONE counts it, LAST tells its outcome and its operation is done. A failed copy writes its marks and then completes with its outcome; the mark of a metadata queue waits for the queue to be its domain's. The channels of a plot being saved are stopped. That a failure of the scratchpad side freezes a copy with the causes and the fault 0x12 which R224 gives for the global side is the model's reading (assumption log 32). -/
def Obligations.CopyEvents : Prop :=
  (∀ (x : ChanArg) (s : State) (c : Copy), headCopy s x.core x.chan = some c →
    (c.st = .queued → (s.chan x.core x.chan).quiesced = false → sbStarts s x.core c.op = true →
      ∃ s', exec (.copyStart x) s = .next s' ∧ headCopy s' x.core x.chan = some { c with st := .running } ∧ s'.mem = s.mem)
    ∧ (c.st = .running → (s.chan x.core x.chan).quiesced = false → c.next < c.total → (landOne s x.core x.chan c).isSome = true →
      ∃ s' c', exec (.copyElementLand x) s = .next s' ∧ headCopy s' x.core x.chan = some c'
        ∧ (Claims.landFault s x.core c = none → c' = { c with next := c.next + 1, hurt := c'.hurt, fresh := false }
            ∧ ∀ bs p, sourceOf s x.core c c.next = .got (bs, p) → Claims.Landed s s' x.core c bs p)
        ∧ ∀ cause a, Claims.landFault s x.core c = some (cause, a) → s'.mem = s.mem
            ∧ if c.faultOnFreeze = true then c' = cancelCopy 2 c ∧ s'.reports = s.reports
              else c' = { c with st := .frozen, cause := cause, faddr := BitVec.ofNat 64 a } ∧ 1 ≤ cause ∧ cause ≤ 4
                ∧ s'.reports = s.reports ++ [⟨c.tid, 0x12, x.chan, BitVec.ofNat 64 a, 0⟩])
    ∧ (c.st = .running → c.total ≤ c.next →
      ∃ s', exec (.copyComplete x) s = .next s' ∧ (s'.chan x.core x.chan).q = (s.chan x.core x.chan).q.drop 1 ∧ (s'.chan x.core x.chan).last = 0
        ∧ (s'.chan x.core x.chan).done = ((s.chan x.core x.chan).done + 1) % 2 ^ 32
        ∧ (s'.core x.core).sb = (s.core x.core).sb.filter (fun e => e.op != c.op) ∧ s'.mem = s.mem
        ∧ ∀ t, s.team? c.tid = some t → ∃ t', s'.team? c.tid = some t' ∧ t'.regs = t.regs
            ∧ t'.ops = t.ops.map fun o => if o.uid == c.op then { o with done := true } else o)
    ∧ (c.st = .marking → sbStarts s x.core c.op = true → (c.toQueue = false → c.mark < c.total → markHeld s x.core c c.mark = false) →
      ∃ s', exec (.poisonMarks x) s = .next s' ∧
        ((∃ m, c.mark ≤ m ∧ m < c.total ∧ headCopy s' x.core x.chan = some { c with mark := m })
          ∨ (s'.chan x.core x.chan).q = (s.chan x.core x.chan).q.drop 1 ∧ (s'.chan x.core x.chan).last = c.outcome
          ∨ c.toQueue = true ∧ mqMarks (s.core x.core).mx c = false ∧ s' = s)))
  ∧ ∀ (s : State) (p : Plot), s.plot? p.uid = some p → p.st = .saving →
    ∃ s', exec (.channelQuiesce ⟨p.uid⟩) s = .next s' ∧ s'.plot? p.uid = some { p with quiesced := true }
      ∧ ∀ b ∈ p.beds, ∀ ch, b.chans.getLsbD ch = true → b.core < s.cores.length → ch < (s.core b.core).chans.length → (s'.chan b.core ch).quiesced = true

/-- R98, R237 to R240, R245, R248, R252, R256, R257: a free unit goes to a waiting team of the last holder's domain while its lease lasts, and the time counted against the lease goes on (that the last domain is favoured only while its lease lasts, and that a regrant to it starts no new lease, is the model's choice: assumption log 55); the head command starts; a K-step adds the exact products to each word of its region and to no other; MZERO completes with a zeroed accumulator and MLOOP with its status; an expired lease or a halted holder freezes the unit; a frozen unit scanned out leaves its whole state in an image and is free, and a granted holder's intact image comes back, with the unit free again where the holder had given it up and its list is empty. -/
def Obligations.MatrixEvents : Prop :=
  ∀ (x : CoreArg) (s : State) (m : Matrix), m = s.mx x.core →
    (∀ r ∈ m.reqs, m.holder = none → r.dom = m.lastDom → reqWaits s r = true → leaseTime s m < leaseOf s x.core m.lastDom →
      ∃ s' tid, exec (.matrixGrant x) s = .next s' ∧ (s'.mx x.core).holder = some tid ∧ (s'.mx x.core).leaseUsed = m.leaseUsed ∧ (s'.mx x.core).leaseHeld = m.leaseHeld ∧ (s'.mx x.core).lastDom = m.lastDom
        ∧ ((∃ i ∈ m.images, i.tid = tid ∧ i.dom = m.lastDom ∧ imageWaits s i = true) ∨ ∃ u ∈ m.reqs, u.tid = tid ∧ u.dom = m.lastDom ∧ reqWaits s u = true))
    ∧ (leaseOut s x.core = true → ∃ s', exec (.matrixLeaseExpiry x) s = .next s' ∧ s'.mx x.core = { m with frozen := true })
    ∧ ((holderStopped s x.core).1 = true ∨ (holderStopped s x.core).2 = true → m.holder.isSome = true →
      ∃ s', exec (.matrixFreeze x) s = .next s' ∧ s'.mx x.core = { m with frozen := true })
    ∧ (∀ tid, m.holder = some tid → scanOutDue s x.core = true → mDisplaced m tid = false →
      ∃ s' i, exec (.matrixScanOut x) s = .next s' ∧ (s'.mx x.core).images = m.images ++ [i] ∧ i.tid = tid ∧ i.acc = m.acc ∧ i.mq = m.mq ∧ i.q = m.q
        ∧ (s'.mx x.core).holder = none ∧ (s'.mx x.core).frozen = false ∧ (s'.mx x.core).acc = [[], []] ∧ (s'.mx x.core).mq = [[], [], [], []])
    ∧ (∀ tid i, m.holder = some tid → m.images.find? (fun k => k.tid == tid) = some i → partIntact s i.base mImageSize i.seed i.emerg = true →
      ∃ s' m', exec (.matrixScanIn x) s = .next s' ∧ m' = s'.mx x.core ∧ m'.acc = i.acc ∧ m'.mq = i.mq ∧ m'.qowner = i.qowner ∧ m'.q = i.q
        ∧ m'.images = m.images.filter (fun k => k.tid != i.tid) ∧ m'.holder = if i.releasing = true ∧ i.q = [] then none else some tid)
    ∧ ∀ c rest, m.q = c :: rest → mRuns m = true →
      (c.started = false → c.doomed = false → sbStarts s x.core c.op = true → (c.kind ≠ 0 ∨ mMeta c.wds ≠ 2) → cmdLost s x.core c = false → cmdDoomed s x.core c = false →
        ∃ s', exec (.matrixCommandStart x) s = .next s' ∧ (s'.mx x.core).q = { c with started := true } :: rest ∧ (s'.mx x.core).acc = m.acc)
      ∧ (c.started = true → c.kind = 0 → c.finished = false → c.doomed = false → c.kdone < mKs c.wds → mMeta c.wds ≠ 1 → c.acc < m.acc.length →
        (kReads c c.kdone).any (mReadHeld s x.core c) = false → cmdLost s x.core c = false → cmdDoomed s x.core c = false →
        ∃ s' c', exec (.matrixKStep x) s = .next s' ∧ (s'.mx x.core).q = c' :: rest ∧ c'.kdone = c.kdone + 1
          ∧ (∀ k, k ≠ c.acc → (s'.mx x.core).acc[k]? = m.acc[k]?)
          ∧ ∀ r n, n < 256 → ∀ old, old = accGet (m.acc.getD c.acc []) r n →
            if r < mM c.wds ∧ n < mN c.wds then
              (accGet ((s'.mx x.core).acc.getD c.acc []) r n).bits = kWord c (c.kdone == 0 && mZero c.wds) old (mRow s x.core c false c.kdone r).1
                (if mSparse c.wds = 0 then List.range (mKstep (fmtField c.fmt 0)) else
                  sparsePlaces (mSparse c.wds) (mKstep (fmtField c.fmt 0)) ((c.regMeta.map fun l => l.getD c.kdone 0).getD r 0))
                (mRow s x.core c true c.kdone n).1
            else accGet ((s'.mx x.core).acc.getD c.acc []) r n = old)
      ∧ (c.started = true → c.kind = 1 → c.acc < m.acc.length →
        ∃ s', exec (.matrixCommandComplete x) s = .next s' ∧ (s'.mx x.core).q = rest ∧ (s'.mx x.core).acc[c.acc]? = some []
          ∧ ∀ k, k ≠ c.acc → (s'.mx x.core).acc[k]? = m.acc[k]?)
      ∧ (c.started = true → c.kind = 0 → c.doomed = false → mKs c.wds ≤ c.kdone →
        ∃ s', exec (.matrixCommandComplete x) s = .next s' ∧ (s'.mx x.core).q = rest ∧ (s'.mx x.core).acc = m.acc
          ∧ ∀ t, s.team? c.tid = some t → ∃ t', s'.team? c.tid = some t' ∧ t'.mat.last = c.status ∧ t'.regs = t.regs
              ∧ t'.ops = t.ops.map fun o => if o.uid == c.op then { o with done := true } else o)

/-- R330, R332, R336, R338, R341, R345 to R347: a complete GROUP instance gives each team that arrived its result, OUTN the number of classes, and is gone. A complete JOIN instance gives each team a result that retires nothing, with OUTN the number of pairs of rows of opposite role with equal keys, and MCNT of each of its rows is the number of such rows that match it. A COMBN whose slots have all returned or failed writes each row's outputs: +0.0 where no slot has returned, poisoned where one has failed, and where one alone has returned, with a finite logit, its own results. A result is applied to a running team at once: it is open no more, its rows retire and its operation is done; the ring takes one row more, each register of which then stands in its slot; a token leaves ingress when its tiles take it; a tile that is due leaves its die, or keeps the packet read for it until a launch more may run; and a tile's launch that has ended is gone. That a due tile keeps the packet read for it while the launch limit is met is the model's choice (assumption log 82; the limit itself: log 56). -/
def Obligations.GraftEvents : Prop :=
  (∀ (x : ClusterArg) (s : State) (i : Instance), nextInst s x.cluster = some i → i.kind = 0 → i.overflow = false → (i.deposits.map (·.tid)).Nodup →
    ∃ s', exec (.instanceComplete x) s = .next s' ∧ (∀ y ∈ (s'.cluster x.cluster).insts, y.uid ≠ i.uid) ∧ s'.mem = s.mem
      ∧ ∀ d ∈ i.deposits, ∀ t, s.team? d.tid = some t → ∃ t' r, s'.team? d.tid = some t' ∧ { t' with graft := t.graft } = t ∧ t'.graft.result = some r
          ∧ r.op = d.op ∧ r.faulted = false ∧ r.outn = (gClasses (graftKty i.mod8) (gRows i)).length)
  ∧ (∀ (x : ClusterArg) (s : State) (i : Instance) (pairs : GRow → Nat), nextInst s x.cluster = some i → i.kind = 1 → i.overflow = false → (i.deposits.map (·.tid)).Nodup →
    (∀ y, pairs y = (gRows i).countP fun z => z.roleB != y.roleB && graftKeyEq (graftKty i.mod8) y.key z.key) →
    ∃ s', exec (.instanceComplete x) s = .next s' ∧ (∀ y ∈ (s'.cluster x.cluster).insts, y.uid ≠ i.uid) ∧ s'.mem = s.mem
      ∧ ∀ d ∈ i.deposits, ∀ t, s.team? d.tid = some t → ∃ t' r, s'.team? d.tid = some t' ∧ { t' with graft := t.graft } = t ∧ t'.graft.result = some r
          ∧ r.op = d.op ∧ r.faulted = false ∧ r.retire = 0 ∧ r.outn = (((gRows i).filter fun y => !y.roleB).map pairs).sum
          ∧ ∀ k row e, (k, row, e) ∈ r.writes ↔ jMcnt i.wds ≠ 255 ∧ k = jMcnt i.wds ∧ ∃ y ∈ gRows i, y.tid = d.tid ∧ y.row = row ∧ e = Elem.clean (BitVec.ofNat 32 (pairs y)))
  ∧ (∀ (x : ClusterArg) (s : State) (i : Instance) (d : Deposit) (t : Team), nextInst s x.cluster = some i → i.kind = 3 → i.overflow = false → i.deposits = [d] →
    s.team? d.tid = some t →
    ∃ s' t' r, exec (.instanceComplete x) s = .next s' ∧ s'.team? d.tid = some t' ∧ { t' with graft := t.graft } = t ∧ t'.graft.result = some r
      ∧ r.op = d.op ∧ r.faulted = false ∧ r.retire = 0 ∧ r.outn = d.rows.length
      ∧ ∀ q ∈ d.rows, ∀ sl, sl = readSlots s (graftAgent i.dom i.priv (instCore s i)) i.wds (rowToken q) → ∀ k, k < rDom i.wds →
        ∃ e, (i.vop + k, q.1, e) ∈ r.writes
          ∧ ((∀ y ∈ sl, y.1 ≠ 2) → e = ⟨0, sl.any fun y => y.1 == 3⟩)
          ∧ ∀ y v w, (sl.filter fun y => y.1 == 2) = [y] → Claims.ratOf (numOf fp32 y.2.1.toNat) = some w →
              Claims.ratOf (numOf fp32 (y.2.2.getD k Elem.zero).bits.toNat) = some v → Claims.codeRat fp32 e.bits.toNat = some v)
  ∧ (∀ (s : State) (t : Team) (r : GraftResult), s.team? t.tid = some t → t.graft.result = some r → graftReady s t = true → t.graft.kind ≠ 1 →
    t.sched.status = .running →
    ∃ s' t', exec (.graftApplication ⟨t.tid⟩) s = .next s' ∧ s'.team? t.tid = some t' ∧ t'.graft.pending = none ∧ t'.graft.result = none ∧ t'.graft.outn = r.outn
      ∧ t'.graft.last = (if r.faulted then 1 else 0) ∧ t'.flow.retired = t.flow.retired ||| r.retire ∧ t'.regs.s = t.regs.s
      ∧ (∀ k row, (∀ y ∈ r.writes, y.1 ≠ k ∨ y.2.1 ≠ row) → t'.vget k row = t.vget k row)
      ∧ t'.ops = t.ops.map fun o => if o.uid == r.op then { o with done := true } else o)
  ∧ (∀ (x : ClusterArg) (s : State) (p : Spill), (s.cluster x.cluster).spills.find? (fun p => decide (p.next < p.rows.length)) = some p →
    ((s.cluster x.cluster).spills.map (·.inst)).Nodup → p.next + 1 < p.rows.length →
    firstFail (graftTrans s (graftAgent p.dom p.priv p.core) .write) (ringAddr p p.next) (slotBytesOf p (p.rows.getD p.next [])).length = none →
    lineStalls s (graftAgent p.dom p.priv p.core) .write (ringAddr p p.next) (slotBytesOf p (p.rows.getD p.next [])).length = false →
    ∃ s', exec (.spillRingWrite x) s = .next s' ∧ (∃ p' ∈ (s'.cluster x.cluster).spills, p' = { p with next := p.next + 1 })
      ∧ ∀ pa pol, (∀ q ∈ (s.cluster x.cluster).spills, q.next < q.rows.length) →
        (∀ k, k < (slotBytesOf p (p.rows.getD p.next [])).length →
          graftTrans s (graftAgent p.dom p.priv p.core) .write (ringAddr p p.next + k) = .ok (pa + k, pol) ∧ isAperture (pa + k) = false) →
        ∀ i e, (p.rows.getD p.next [])[i]? = some e → s'.mem.read (pa + 4 * i) 4 = natBytes 4 e.bits.toNat)
  ∧ (∀ (x : DieArg) (s : State) (k : Token) (rest : List Token), (s.die x.die).ingress = k :: rest → tokenFits s x.die k = true →
    slotsStall s (graftAgent k.dom k.priv (match s.team? k.tid with | some t => t.place.core | none => 64 * x.die)) .write k.wds
      ((List.range (rK k.wds)).map fun q => (k.t, k.rank * rK k.wds + q)) 16 = false →
    ∃ s', exec (.ingressSelect x) s = .next s' ∧ (s'.die x.die).ingress = rest)
  ∧ (∀ (x : TileArg) (s : State) (t : Tile), (s.die x.die).tiles.find? (fun y => y.key == x.tile) = some t → tileDue s t = true →
    (s.gov.launches.length < 1024 → ∃ s', exec (.tileClose x) s = .next s' ∧ (∀ y ∈ (s'.die x.die).tiles, y.key ≠ x.tile)
      ∧ (s'.gov.launches = s.gov.launches ∨ ∃ l, s'.gov.launches = s.gov.launches ++ [l] ∧ l.dom = t.dom ∧ l.tokens = t.tokens ∧ l.nest = (t.tokens.map (·.nest)).foldl max 0 + 1
          ∧ l.pkt.rows = t.tokens.length))
    ∧ (1024 ≤ s.gov.launches.length → x.die < s.dies.length → ∃ s', exec (.tileClose x) s = .next s' ∧ s'.gov.launches = s.gov.launches ∧ s'.mem = s.mem
      ∧ (s'.die x.die).tiles.find? (fun y => y.key == x.tile) = some { t with packet := some (t.packet.getD (tilePacket s t)) }))
  ∧ ∀ (s : State) (l : Launch), s.launch? l.uid = some l → launchDone s l = true → tileOrigin l = true →
    ∃ s', exec (.tileStatusWrite ⟨l.uid⟩) s = .next s' ∧ s'.launch? l.uid = none

/-- R271 to R273, R276, R287: a drawn packet becomes a launch of its queue's owner, with code 1 when it is malformed; a launch whose counter has fallen to zero waits no more; a launch all of whose teams are freed is gone and its record stands at CREC; a due entry of the time-triggered table launches its packet, skips, or is held. -/
def Obligations.LaunchEvents : Prop :=
  (∀ (s : State) (q : Queue) (d : List (Nat × Int)) (e : QEntry), s.queue? q.id = some q → nextDraw s = some (q.owner, d) → drawable s q = true →
    s.gov.launches.length < 1024 → oldestEntry s q = some e →
    ∃ s' l, exec (.launchDraw ⟨q.id⟩) s = .next s' ∧ s'.gov.launches = s.gov.launches ++ [l] ∧ l.uid = s.uid ∧ s'.uid = s.uid + 1 ∧ l.dom = q.owner ∧ l.nest = 0
      ∧ l.priv = q.privileged ∧ l.pkt = packetOf (bytesWords 32 e.1) ∧ l.addr = packetAddrOf (bytesWords 32 e.1)
      ∧ (packetBad (bytesWords 32 e.1) false = true → l.code = 1 ∧ l.next = l.pkt.plots)
      ∧ (packetBad (bytesWords 32 e.1) false = false → capFor q l.addr.cap 18 = false → l.code = 2 ∧ l.next = l.pkt.plots) ∧ s'.mem = s.mem)
  ∧ (∀ (s : State) (l : Launch), s.launch? l.uid = some l → l.wait = true → (depCounter s l.dom (l.pkt.dep.toNat % 64)).toInt ≤ 0 →
    ∃ s', exec (.depWaitRelease ⟨l.uid⟩) s = .next s' ∧ s'.launch? l.uid = some { l with wait := false } ∧ s'.mem = s.mem)
  ∧ (∀ (s : State) (l : Launch), s.launch? l.uid = some l → launchDone s l = true → tileOrigin l = false → l.uid < s.uid →
    ∃ s', exec (.completionRecord ⟨l.uid⟩) s = .next s' ∧ s'.launch? l.uid = none
      ∧ ∀ pa pol, l.addr.crec ≠ 0 → l.addr.crec.toNat % 32 = 0 → domTranslate s l.dom true .write l.addr.crec.toNat = .ok (pa, pol) → isAperture pa = false →
        s'.mem.read pa 32 = recordBytes (launchCode l) l.fcode l.ended l.pending l.fhflt l.fpc l.addr.tag)
  ∧ ∀ (s : State) (e : TableEntry), s.gov.table.find? (fun y => y.id == e.id) = some e → entryDue s e = true →
    (∀ n, e.prev = some n → entryDefer e = false →
      ∃ s', exec (.tableFiring ⟨e.id⟩) s = .next s' ∧ s'.gov.launches = s.gov.launches
        ∧ s'.gov.table.find? (fun y => y.id == e.id) = some { e with nextK := e.nextK + 1, words := e.words.modify 6 (· + 1) })
    ∧ (∀ n, e.prev = some n → entryDefer e = true → e.held = false →
      ∃ s', exec (.tableFiring ⟨e.id⟩) s = .next s' ∧ s'.gov.launches = s.gov.launches
        ∧ s'.gov.table.find? (fun y => y.id == e.id) = some { e with nextK := e.nextK + 1, words := e.words.modify 7 (· + 1), held := true })
    ∧ (∀ bs, e.prev = none → s.gov.launches.length < 1024 →
      readVa s (domTranslate s ((e.words.getD 5 0).toNat % 64) true .read) ((e.words.getD 1 0) ++ (e.words.getD 0 0)).toNat 128 = .ok bs →
      ∃ s' l, exec (.tableFiring ⟨e.id⟩) s = .next s' ∧ s'.gov.launches = s.gov.launches ++ [l] ∧ l.uid = s.uid ∧ l.dom = (e.words.getD 5 0).toNat % 64
        ∧ l.origin = .table e.id ∧ l.priv = false ∧ l.nest = 0)

/-- R279, R280, R282, R288, R291, R292: the controller serves one waiting operation, and a dequeue of an empty queue writes status 1; a store with room takes the ring's oldest entry; a peer's answer gives a put its status with the offset, and a put whose capability opens nothing is answered 4 and changes no memory; a stage evaluation moves one team to the starved role and counts the move. The kind by which the list of sent messages tells the answer of a put apart is the model's choice (assumption log 9). -/
def Obligations.QueueEvents : Prop :=
  (∀ (s : State) (o : QOp) (d : List (Nat × Int)), nextQop s = some (o, d) →
    ∃ s', exec (.queueOperation ⟨⟩) s = .next s' ∧ s'.gov.waiting = s.gov.waiting.filter (fun p => p.op != o.op)
      ∧ ∀ q t, o.kind = 2 → s.queue? o.queue = some q → oldestEntry s q = none → s.team? o.tid = some t → t.gate = none → o.rbase + 7 < t.regs.s.length →
        ∃ t', s'.team? o.tid = some t' ∧ t'.sget (o.rbase + 7) = Elem.clean 1 ∧ t'.regs.v = t.regs.v ∧ s'.mem = s.mem)
  ∧ (∀ (s : State) (q : Queue), s.queue? q.id = some q → hostFilled q = false → 0 < ringCount q → q.store.length < 8 →
    ∃ s', exec (.storeRefill ⟨q.id⟩) s = .next s' ∧ s'.queue? q.id = some { q with store := q.store ++ [ringRead s q q.head], head := q.head + 1 } ∧ s'.mem = s.mem)
  ∧ (∀ (x : QputArg) (s : State) (o : QOp) (rest : List QOp) (t : Team), x.die < Config.dies → x.port < 3 → portOpen s x.die x.port = true → x.remote = true → s.gov.sent = o :: rest → x.code.toNat ∈ [0, 2, 3, 4] →
    s.team? o.tid = some t → t.gate = none → o.rbase + 7 < t.regs.s.length →
    ∃ s' t', exec (.qputTarget x) s = .next s' ∧ s'.gov.sent = rest ∧ s'.team? o.tid = some t' ∧ s'.mem = s.mem
      ∧ t'.sget (o.rbase + 7) = Elem.clean (BitVec.ofNat 32 (if x.code = 3 then 65536 * x.offset.toNat + 3 else x.code.toNat)))
  ∧ (∀ (x : QputArg) (s : State), x.die < Config.dies → x.port < 3 → portOpen s x.die x.port = true → x.remote = false → x.data.length % 16 = 0 → x.data ≠ [] → x.data.length ≤ 65536 → x.dest.toNat % 16 = 0 → capQueue s x.cap 18 = none →
    ∃ s', exec (.qputTarget x) s = .next s' ∧ s'.mem = s.mem ∧ s'.log = s.log ++ [⟨0, 4, x.sender.toNat, natBytes 4 4⟩] ∧ s'.gov = s.gov)
  ∧ ∀ (s : State) (p : Plot) (l : Launch) (tid role : Nat) (t : Team), s.plot? p.uid = some p → s.launch? p.launch = some l → l.pkt.nstage ≠ 0 →
    p.evalAt + 1024 ≤ plotRun s p → stageMove s { p with evalAt := p.evalAt + 1024 } p.stages = some (tid, role) → s.team? tid = some t →
    ∃ s', exec (.stageEvaluation ⟨p.uid⟩) s = .next s' ∧ s'.team? tid = some { t with stamp := { t.stamp with role := role } }
      ∧ s'.plot? p.uid = some { p with evalAt := p.evalAt + 1024, moves := (p.moves + 1) % 2 ^ 32 } ∧ OtherTeams tid s s'

/-- R283, R284, R309, R312, R315: the choice for a plot is that of R283's table over its progress and remainder; a plot near its end drains; one that is to be restarted is gone with its teams, and its index waits in its launch to be placed afresh, when that still places plots; one that is neither, or whose drain has taken 18,800 ac, is being saved and none of its teams runs; a slice whose time is over ends with its slot's STATE 3, or 2 while a recall runs, and its domain's teams halted; a recall sets the owner's STATE to 2; and a gate whose budget has run out is aborted, unless a quiesced segment holds the write back that this needs: the caller takes 0x30 at its CGATE with cause 6. -/
def Obligations.PreemptionEvents : Prop :=
  (∀ (run work : Nat) (idem : Bool) (progress : Rat) (remainder : Int), progress = (if work = 0 then 0 else (run : Rat) / (16 * work : Nat)) →
    remainder = (16 * work : Nat) - (run : Int) →
    preemptChoice run work idem = (if 7 / 8 ≤ progress ∧ remainder ≤ 18800 then 0 else if idem = true ∧ progress < 1 / 4 then 1 else 2))
  ∧ (∀ (s : State) (p : Plot) (l : Launch), s.plot? p.uid = some p → p.st = .resident → s.launch? p.launch = some l → p.beds.any (fun b => l1Stalls s b.core) = false →
    (preemptChoice (plotRun s p) l.pkt.work l.pkt.idem = 0 →
      ∃ s', exec (.preemptDecision ⟨p.uid⟩) s = .next s' ∧ s'.plot? p.uid = some { p with st := .draining s.clock.ac } ∧ s'.teams = s.teams)
    ∧ (preemptChoice (plotRun s p) l.pkt.work l.pkt.idem = 1 →
      ∃ s', exec (.preemptDecision ⟨p.uid⟩) s = .next s' ∧ s'.plot? p.uid = none ∧ (∀ t ∈ s'.teams, t.place.plot ≠ p.uid)
        ∧ ((∀ c, (s.cluster c).spills = []) → ∃ l', s'.launch? p.launch = some l' ∧ l'.pkt = l.pkt ∧ (l.code = 0 → p.index ∈ l'.again)))
    ∧ (preemptChoice (plotRun s p) l.pkt.work l.pkt.idem = 2 → (s.teams.map (·.tid)).Nodup →
      ∃ s' p', exec (.preemptDecision ⟨p.uid⟩) s = .next s' ∧ s'.plot? p.uid = some p' ∧ p'.st = .saving ∧ p'.haltAt = s'.clock.ac
        ∧ ∀ t ∈ s'.teams, t.place.plot = p.uid → t.sched.status ≠ .running))
  ∧ (∀ (s : State) (p : Plot) (a : Nat), s.plot? p.uid = some p → p.st = .draining a → a + 18800 ≤ s.clock.ac → (s.teams.map (·.tid)).Nodup →
    ∃ s' p', exec (.drainTimeout ⟨p.uid⟩) s = .next s' ∧ s'.plot? p.uid = some p' ∧ p'.st = .saving ∧ p'.haltAt = s'.clock.ac
      ∧ ∀ t ∈ s'.teams, t.place.plot = p.uid → t.sched.status ≠ .running)
  ∧ (∀ (x : CoreArg) (s : State) (i : Nat), (s.core x.core).slice.current = some i → (s.core x.core).slice.endsAt ≤ s.clock.ns → i < (s.core x.core).slots.length →
    (slotOfCore s x.core i).length = 16 →
    ∃ s', exec (.sliceEnd x) s = .next s' ∧ (s'.core x.core).slice.current = none ∧ (s'.core x.core).slice.last = i ∧ (slotOfCore s' x.core i)[10]? = some (if slotState (slotOfCore s x.core i) = 2 then (slotOfCore s x.core i).getD 10 0 else 3)
      ∧ ∀ t, s.team? t.tid = some t → t.place.core = x.core → t.stamp.home = slotDomain (slotOfCore s x.core i) → t.sched.status = .running →
        t.atRest = true → ∃ t', s'.team? t.tid = some t' ∧ t'.sched.status = .haltSlice ∧ t'.regs = t.regs ∧ t'.flow = t.flow)
  ∧ (∀ (x : RecallArg) (s : State), x.core < Config.cores → x.slot < 8 → x.owner < 8 → x.core < s.cores.length → slotValid (slotOfCore s x.core x.owner) = true →
    slotValid (slotOfCore s x.core x.slot) = true → x.slot ≠ x.owner → (x.slot, x.owner) ∉ (s.core x.core).slice.recalling → recallsOn s (dieOf x.core) < 20 →
    x.owner < (s.core x.core).slots.length → (slotOfCore s x.core x.owner).length = 16 →
    ∃ s', exec (.recall x) s = .next s' ∧ (slotOfCore s' x.core x.owner)[10]? = some 2
      ∧ (s'.core x.core).slice.recalling = (s.core x.core).slice.recalling ++ [(x.slot, x.owner)])
  ∧ ∀ (s : State) (t : Team) (g : GateCtx), s.team? t.tid = some t → t.gate = some g → g.deadline ≤ s.clock.ac → t.sched.status = .running → t.sched.burst = [] → abortStalls s t g = false →
    t.trap.hvec.getLsbD 0 = true → t.trap.inHandler = false → targetFault (carveChange s { leaveGate t g true with gcause := 6 }) ⟨g.did, t.stamp.priv, t.place.core, false⟩ (hvecPc t) = none →
    ∃ s' t', exec (.gateBudgetExpiry ⟨t.tid⟩) s = .next s' ∧ s'.team? t.tid = some t' ∧ t'.gate = none ∧ t'.gcause = 6 ∧ t'.flow.did = g.did
      ∧ t'.flow.pc = hvecPc t ∧ t'.trap.hpc = g.at_.bits ∧ t'.trap.hflt.extractLsb' 0 8 = 0x30 ∧ t'.trap.inHandler = true
      ∧ t'.foot.vregs = g.vregs ∧ t'.foot.sregs = g.sregs ∧ t'.regs.v.drop 8 = g.regs.v.drop 8 ∧ t'.regs.s.drop 16 = g.regs.s.drop 16

/-- R3, R172, R299 to R304, R320, R361, R364: counts fold into the meters; a droop stretches a die's clock and is counted, recovery ends it; a bank-owner write that changes owner or mode leaves the bank empty with both, a cache segment in it too; a legal cluster slot, window or firewall value is written and a locked firewall keeps its own; an unpinned page that changes owner reads zero and stands in no L1, a pinned one keeps its owner; settings without an event of their own are written and read-only ones are not. That a firewall value is legal when its range begins a block is the model's choice (assumption log 39). -/
def Obligations.DomainEvents : Prop :=
  ∀ (s : State),
    (∀ (x : CoreArg) (d n m : Nat), (s.core x.core).issue = [(d, n)] → d ≠ 0 → (s.domain d).meters[0]? = some m →
      ∃ s', exec (.meterFold x) s = .next s' ∧ (s'.core x.core).issue = [] ∧ (s'.domain d).meters[0]? = some ((m + n) % 2 ^ 64) ∧ s'.mgmt.foldNs = s.clock.ns
        ∧ s'.teams = s.teams ∧ s'.mem = s.mem)
    ∧ (∀ (x : DieArg), x.die < Config.dies → x.die < s.dies.length →
      (∃ s', exec (.droop x) s = .next s' ∧ (s'.die x.die).stretched = true
        ∧ (s'.die x.die).droops = (if (s.die x.die).stretched then (s.die x.die).droops else (s.die x.die).droops + 1) ∧ s'.teams = s.teams ∧ s'.mem = s.mem)
      ∧ ∃ s', exec (.droopRecovery x) s = .next s' ∧ s'.die x.die = { s.die x.die with stretched := false } ∧ s'.teams = s.teams ∧ s'.mem = s.mem)
    ∧ (∀ (x : BankArg) (b : Bank), x.cluster < Config.clusters → x.bank < 64 → x.cluster < s.clusters.length → (s.cluster x.cluster).banks[x.bank]? = some b →
      x.value &&& 0xFFFFFCC0 = 0 → x.value.extractLsb' 8 2 ≠ 3 → ((x.value.extractLsb' 0 6).toNat ≠ b.owner ∨ bownMode x.value ≠ b.mode) →
      ∃ s' b', exec (.bankOwnerWrite x) s = .next s' ∧ (s'.cluster x.cluster).banks[x.bank]? = some b' ∧ b'.owner = (x.value.extractLsb' 0 6).toNat
        ∧ b'.mode = bownMode x.value ∧ b'.mem = Scratch.empty ∧ b'.fifo = [] ∧ b'.seg = [] ∧ b'.quiesced = none ∧ s'.mem = s.mem)
    ∧ (∀ (x : ClusterSlotArg), x.cluster < Config.clusters → x.slot < 8 → x.cluster < s.clusters.length →
      cslotBad (((List.range 8).filter (· != x.slot)).map fun k => (s.cluster x.cluster).slots.getD k []) x.words = false →
      ((x.words.getD 0 0).getLsbD 31 = true → estateBad s (x.cluster / 16) (cslotDomain x.words) = false) →
      ∃ s', exec (.clusterSlotWrite x) s = .next s' ∧ (s'.cluster x.cluster).slots = (s.cluster x.cluster).slots.set x.slot x.words
        ∧ agetD (s'.cluster x.cluster).hits (cslotDomain x.words) 0 = 0 ∧ agetD (s'.cluster x.cluster).misses (cslotDomain x.words) 0 = 0
        ∧ (s'.cluster x.cluster).banks = (s.cluster x.cluster).banks ∧ s'.mem = s.mem)
    ∧ (∀ (x : RotArg), x.page < 2 ^ 24 → (rotEntry s x.page).extractLsb' 0 6 ≠ (x.entry &&& 0x803F).extractLsb' 0 6 →
      ((rotEntry s x.page).getLsbD 15 = true → ∃ s', exec (.rotOwnerChange x) s = .next s' ∧ rotEntry s' x.page = rotEntry s x.page ∧ s'.mem = s.mem)
      ∧ ((rotEntry s x.page).getLsbD 15 = false →
        ∃ s', exec (.rotOwnerChange x) s = .next s' ∧ rotEntry s' x.page = x.entry &&& 0x803F
          ∧ (∀ a, x.page * 65536 ≤ a → a < x.page * 65536 + 65536 → cellGet s'.mem.cells a = 0)
          ∧ (∀ a, a < x.page * 65536 ∨ x.page * 65536 + 65536 ≤ a → cellGet s'.mem.cells a = cellGet s.mem.cells a)
          ∧ ∀ c ∈ s'.cores, ∀ l ∈ c.l1, l.line / 512 ≠ x.page))
    ∧ (∀ (x : FirewallArg), x.die < Config.dies → x.die < s.dies.length →
      ((s.die x.die).firewall.getLsbD 31 = true → ∃ s', exec (.firewallWrite x) s = .next s' ∧ s'.die x.die = s.die x.die)
      ∧ ((s.die x.die).firewall.getLsbD 31 = false → x.value &&& 0x7FF8FFF8 = 0 → firewallBad s x.die x.value = false → firewallSplits s x.die x.value = false → (∀ t ∈ s.teams, dieOf t.place.core ≠ x.die ∨ teamPlaced s t = false) →
        ∃ s', exec (.firewallWrite x) s = .next s' ∧ s'.die x.die = { s.die x.die with firewall := x.value } ∧ ∀ d, d ≠ x.die → s'.die d = s.die d))
    ∧ (∀ (x : WindowArg), x.domain < 64 → x.window < 16 →
      windowBad (((List.range 16).filter (· != x.window)).map fun k => (s.domain x.domain).windows.getD k []) true x.words = false → (s.domain x.domain).id = x.domain →
      ∃ s', exec (.apertureWindowWrite x) s = .next s' ∧ (s'.domain x.domain).windows = (s.domain x.domain).windows.set x.window x.words
        ∧ ∀ d, d ≠ x.domain → s'.domain d = s.domain d)
    ∧ ∀ (v : DWord) (d a : Nat), d < 64 → (s.domain d).id = d →
      (∃ s', exec (.mgmtRegisterWrite ⟨.tableRoot d, v⟩) s = .next s' ∧ (s'.domain d).root = (v &&& 0x000FFFFFFFFF0000).toNat ∧ s'.mem = s.mem)
      ∧ (d ≠ 0 → ∃ s', exec (.mgmtRegisterWrite ⟨.ownerWeight d, v⟩) s = .next s' ∧ ownerWeight s' d = v.toNat % 256 ∧ s'.mem = s.mem)
      ∧ exec (.mgmtRegisterWrite ⟨.readOnly a, v⟩) s = .next s

namespace Sys2Proof.Claims
/-- It is the function's turn, and the oldest command of its ring is c, well formed and of operation op. -/
abbrev headIs (s : State) (fn : Nat) (op : BitVec 16) (c : HostCmd) : Prop := mailboxTurn s = some fn ∧ headCmd s fn = some c ∧ c.op = op ∧ cmdBad c = false
/-- The requests by which n bytes at a are asked for, none across a multiple of 4,096 (R354, R355). -/
def asked (fn a n : Nat) : List BusMsg :=
  (unitsOf 4096 a n).map fun u => ⟨fn, 11, max a (4096 * u), natBytes 4 (min (a + n) (4096 * u + 4096) - max a (4096 * u))⟩
/-- The writes in which bytes go out to a, none across a multiple of 512 (R354, R355). -/
def pieces (fn a : Nat) (bs : List Byte) : List BusMsg :=
  (unitsOf 512 a bs.length).map fun u => ⟨fn, 1, max a (512 * u), (bs.drop (max a (512 * u) - a)).take (min (a + bs.length) (512 * u + 512) - max a (512 * u))⟩
/-- Where the function's next ring entry lies in the host (R356). -/
def entryAt (s : State) (fn : Nat) : Nat := ((s.mailbox fn).ringHi ++ (s.mailbox fn).ringLo).toNat + 64 * (s.mailbox fn).cons.toNat
/-- The state once the engine has asked for the ring entry, in the function's turn (R355, R368). -/
def taken (s : State) (fn : Nat) : State := hostAsk (s.modMgmt fun m => { m with mbTurn := fn }) fn (ringEntryAt (s.mailbox fn)) 64
/-- The command has ended with a status (R358): its ring entry was asked for, and after the effect's own messages the status word is written into it and the consumer index passes it. -/
def Answered (s s' : State) (fn : Nat) (c : HostCmd) (msgs : List BusMsg) (status : Nat) : Prop :=
  s'.log = s.log ++ asked fn (entryAt s fn) 64 ++ msgs ++ [⟨fn, 1, entryAt s fn + 32, natBytes 4 status⟩]
      ++ (if c.flags.getLsbD 0 then [⟨fn, 5, (c.flags.extractLsb' 8 8).toNat, []⟩] else [])
    ∧ (s'.mailbox fn).pending = (s.mailbox fn).pending.drop 1
    ∧ (s'.mailbox fn).cons = BitVec.ofNat 32 (((s.mailbox fn).cons.toNat + 1) % mbSize (s.mailbox fn))
    ∧ (status ≠ 0 → (s'.mailbox fn).err = (s.mailbox fn).cons)
end Sys2Proof.Claims

/-- R320, R321, R354 to R359, R362, R368: published entries are read field by field from their 64 bytes and wait in their function's ring; a doorbell with nothing before it moves its queue's tail, and one behind published commands waits for them; in its function's turn a command's entry is asked for, WRITE and FILL store their bytes, READ, METERS, REPORT and MGMTRD send theirs in pieces of the bus's sizes, and each ends with status 0; MGMTWR takes effect for function 0, and it and MGMTRD end with status 5 for another; an inbound access that no rule of the window admits changes no memory and is answered as unsupported, and so is one larger than the link's requests (log 100). The model's choices in it: where the pieces are cut (log 81); LEN is not checked for METERS, RESUME, MGMTWR and MGMTRD (assumption log 37); the management map, in which an address that names no register reads zero and takes no write, with status 0 (log 36); and the kinds by which the list of sent messages tells them apart (log 9). -/
def Obligations.HostCommandEvents : Prop :=
  (∀ (x : MbprodArg) (s : State), x.fn < 64 → (s.mailbox x.fn).fn = x.fn → (∀ e ∈ x.entries, e.bytes.length = 64) →
    x.entries.length = (x.value.toNat % mbSize (s.mailbox x.fn) + mbSize (s.mailbox x.fn) - (s.mailbox x.fn).prod.toNat % mbSize (s.mailbox x.fn)) % mbSize (s.mailbox x.fn) →
    ∃ s', exec (.mbprodWrite x) s = .next s' ∧ s'.mailbox x.fn = { s.mailbox x.fn with
      prod := BitVec.ofNat 32 (x.value.toNat % mbSize (s.mailbox x.fn)), pending := (s.mailbox x.fn).pending ++ x.entries.map cmdOf } ∧ s'.mem = s.mem ∧ s'.log = s.log)
  ∧ (∀ (e : MbEntry) (b : Nat → Byte), e.bytes.length = 64 → (b = fun k => e.bytes.getD k 0) →
    (∀ k, k < 2 → (cmdOf e).op.extractLsb' (8 * k) 8 = b k ∧ (cmdOf e).flags.extractLsb' (8 * k) 8 = b (2 + k))
    ∧ (∀ k, k < 4 → (cmdOf e).len.extractLsb' (8 * k) 8 = b (4 + k))
    ∧ (∀ k, k < 8 → (cmdOf e).haddr.extractLsb' (8 * k) 8 = b (8 + k) ∧ (cmdOf e).daddr.extractLsb' (8 * k) 8 = b (16 + k) ∧ (cmdOf e).aux.extractLsb' (8 * k) 8 = b (24 + k))
    ∧ ((cmdOf e).zeroOk = true ↔ ∀ k, 36 ≤ k → k < 64 → b k = 0))
  ∧ (∀ (x : QdbArg) (s : State) (q : Queue), (s.mailbox x.fn).pending = [] → (s.mailbox x.fn).doors = [] → s.gov.queues.find? (fun q => q.fn == x.fn && q.qdb == x.q && decide (x.q < 64)) = some q →
    s.queue? q.id = some q →
    ∃ s', exec (.qdbWrite x) s = .next s' ∧ s'.queue? q.id = some { q with hostTail := x.value.toNat % max 1 q.cap } ∧ s'.mem = s.mem)
  ∧ (∀ (x : QdbArg) (s : State), (s.mailbox x.fn).pending ≠ [] → (∀ d ∈ (s.mailbox x.fn).doors, d.2.2 ≠ 0) →
    ∃ s', exec (.qdbWrite x) s = .next s' ∧ s'.gov = s.gov
      ∧ s'.mailbox x.fn = { s.mailbox x.fn with doors := (s.mailbox x.fn).doors ++ [(x.q, x.value.toNat, (s.mailbox x.fn).pending.length)] })
  ∧ (∀ (s : State) (fn : Nat) (c : HostCmd), (s.mailbox fn).fn = fn →
    (Claims.headIs s fn 1 c → firstFail (domTranslate s fn true .write) c.daddr.toNat c.len.toNat = none → c.hostBytes.length = c.len.toNat →
      ∃ s' msgs, exec (.write ⟨fn⟩) s = .next s' ∧ Claims.Answered s s' fn c msgs 0
        ∧ s'.mem = (writeClean s fn (domTranslate s fn true .write) c.daddr.toNat c.hostBytes).1.mem)
    ∧ (∀ bs, Claims.headIs s fn 2 c → readVa s (domTranslate s fn true .read) c.daddr.toNat c.len.toNat = .ok bs →
      ∃ s' reads, exec (.read ⟨fn⟩) s = .next s' ∧ Claims.Answered s s' fn c (reads ++ Claims.pieces fn c.haddr.toNat bs.1) 0 ∧ s'.mem = s.mem
        ∧ ∀ m ∈ reads, m.kind = 11)
    ∧ (Claims.headIs s fn 3 c → firstFail (domTranslate s fn true .write) c.daddr.toNat c.len.toNat = none →
      ∃ s' msgs, exec (.fill ⟨fn⟩) s = .next s' ∧ Claims.Answered s s' fn c msgs 0 ∧ s'.mem =
        (writeClean s fn (domTranslate s fn true .write) c.daddr.toNat ((List.range (c.len.toNat / 4)).flatMap fun _ => natBytes 4 (c.aux.toNat % 2 ^ 32))).1.mem)
    ∧ (Claims.headIs s fn 4 c →
      ∃ s', exec (.meters ⟨fn⟩) s = .next s' ∧ Claims.Answered s s' fn c (Claims.pieces fn c.haddr.toNat (meterBytes s fn)) 0 ∧ s'.mem = s.mem)
    ∧ (Claims.headIs s fn 5 c → 32 ≤ c.hostBytes.length →
      ∃ s' b, exec (.report ⟨fn⟩) s = .next s' ∧ Claims.Answered s s' fn c (Claims.asked fn c.haddr.toNat 32 ++ Claims.pieces fn c.aux.toNat (b ++ signatureOf b)) 0 ∧ s'.mem = s.mem
        ∧ b.length = 128 ∧ b.take 16 = natBytes 4 1 ++ natBytes 4 fn ++ natBytes 8 s.mgmt.foldNs ∧ (b.drop 16).take 32 = c.hostBytes.take 32)
    ∧ (Claims.headIs s fn 0x40 c →
      ∃ s', exec (.mgmtwr ⟨fn⟩) s = .next s'
        ∧ (fn = 0 → ∀ s1, s1 = mgmtStore (Claims.taken s 0) c.daddr.toNat (c.aux.extractLsb' 0 32) → s'.dies = s1.dies ∧ s'.cores = s1.cores ∧ s'.clusters = s1.clusters
            ∧ ((s.mailbox 0).doors = [] → s'.gov = s1.gov)
            ∧ s'.mgmt.rot = s1.mgmt.rot ∧ s'.mgmt.gates = s1.mgmt.gates ∧ s'.mgmt.domains = s1.mgmt.domains ∧ s'.mem = s1.mem)
        ∧ (fn ≠ 0 → Claims.Answered s s' fn c [] 5 ∧ s'.mem = s.mem ∧ s'.cores = s.cores))
    ∧ (Claims.headIs s fn 0x41 c →
      ∃ s', exec (.mgmtrd ⟨fn⟩) s = .next s' ∧ s'.mem = s.mem
        ∧ (fn = 0 → Claims.Answered s s' fn c (Claims.pieces 0 c.haddr.toNat (natBytes 4 (mgmtLoad s c.daddr.toNat).toNat)) 0)
        ∧ (fn ≠ 0 → Claims.Answered s s' fn c [] 5)))
  ∧ ∀ (x : Bar2Arg) (s : State), x.fn < 64 →
    ((x.requester ∉ (s.domain x.fn).bar2Admit ∨ (s.domain x.fn).bar2Size < x.offset + (if x.write then x.data.length else x.len)
        ∨ x.write = true ∧ 512 < x.data.length ∨ x.write = false ∧ 4096 < x.len) →
      ∃ s', exec (.bar2Inbound x) s = .next s' ∧ s'.mem = s.mem ∧ s'.log = s.log ++ [⟨x.fn, 7, x.offset, []⟩])
    ∧ (x.requester ∈ (s.domain x.fn).bar2Admit → x.write = true → x.offset + x.data.length ≤ (s.domain x.fn).bar2Size → x.data.length ≤ 512 →
      firstFail (domTranslate s x.fn true .write) ((s.domain x.fn).bar2Base + x.offset) x.data.length = none →
      ∃ s', exec (.bar2Inbound x) s = .next s'
        ∧ s'.mem = (writeClean s x.fn (domTranslate s x.fn true .write) ((s.domain x.fn).bar2Base + x.offset) x.data).1.mem)

/-- R131, R195, R363, R366, R369: a lost port is down and a recovered one up; a peer's write over an open port stores its bytes, checked with the bit of the team that issued it, and one over a port of another estate than the domain's stores nothing; the launch clock is slewed toward the host's; a halt request halts the domain's teams that stand in no handler or gate; a cold reset leaves the state of bring-up, held at its first step when the signature fails; a function-level reset clears its function's mailbox registers, doorbells and consumer indices; configuration requests are retried until the device is ready; and attestation answers with signed measurements once both algorithms are agreed. The model's choices in it: a cold reset takes bring-up as done in one step (assumption log 12); what the messages and the measurements hold beyond the spec's list, and that an exchange before the agreement is answered with nothing (log 38); that the key exchange of the PF sets up link IDE (log 76); and the kinds by which the list of sent messages tells them apart (log 9). -/
def Obligations.OutsideEvents : Prop :=
  ∀ (s : State),
    (∀ (x : PortArg), x.die < Config.dies → x.port < 3 → x.die < s.dies.length → x.port < (s.die x.die).portUp.length →
      (∃ s', exec (.linkFailure x) s = .next s' ∧ (s'.die x.die).portUp = (s.die x.die).portUp.set x.port false ∧ ∀ d, d ≠ x.die → s'.die d = s.die d)
      ∧ ∃ s', exec (.linkRecovery x) s = .next s' ∧ s'.die x.die = { s.die x.die with portUp := (s.die x.die).portUp.set x.port true } ∧ s'.mem = s.mem)
    ∧ (∀ (x : RemoteArg), x.die < Config.dies → x.port < 3 → portOpen s x.die x.port = true →
      (firstFail (domTranslate s x.domain x.priv .write) x.va.toNat x.data.length = none → sameEstate s x.die (domainDie s x.domain) = true →
        ∃ s', exec (.remoteCopyWrite x) s = .next s' ∧ s'.mem = (writeClean s x.domain (domTranslate s x.domain x.priv .write) x.va.toNat x.data).1.mem)
      ∧ (firstFail (domTranslate s x.domain x.priv .write) x.va.toNat x.data.length ≠ none ∨ sameEstate s x.die (domainDie s x.domain) = false → ∃ s', exec (.remoteCopyWrite x) s = .next s' ∧ s'.mem = s.mem))
    ∧ (∀ n, ∃ s', exec (.precisionTimeMeasurement ⟨n⟩) s = .next s' ∧ s'.clock.slew = (n : Int) - (s.clock.ns : Int) ∧ s'.clock.ns = s.clock.ns ∧ s'.clock.ac = s.clock.ac)
    ∧ (∀ (d : Nat), ∃ s', exec (.haltRequest ⟨d⟩) s = .next s' ∧ s'.mem = s.mem ∧ ∀ t, s.team? t.tid = some t → t.stamp.home = d → t.sched.status = .running →
        t.atRest = true → ∃ t', s'.team? t.tid = some t' ∧ t'.sched.status = .haltDebug ∧ t'.regs = t.regs ∧ t'.flow = t.flow)
    ∧ (∀ ok, ∃ s', exec (.coldReset ⟨ok⟩) s = .next s' ∧ s'.teams = [] ∧ s'.mem = ⟨[], []⟩ ∧ s'.cores = State.reset.cores ∧ s'.clusters = State.reset.clusters
        ∧ s'.dies = State.reset.dies ∧ s'.gov = State.reset.gov ∧ s'.focus = none ∧ s'.mgmt.coldResets = s.mgmt.coldResets + 1 ∧ s'.mgmt.ready = ok
        ∧ s'.mgmt.boot = (if ok then 5 else 1) ∧ s'.mgmt.rot = [])
    ∧ (∀ fn, fn ≠ 0 → fn < 64 → ∃ s', exec (.functionLevelReset ⟨fn⟩) s = .next s' ∧ (s'.mailbox fn).ringLo = 0 ∧ (s'.mailbox fn).ringHi = 0
        ∧ (s'.mailbox fn).ctl = 0 ∧ (s'.mailbox fn).prod = 0 ∧ (s'.mailbox fn).cons = 0 ∧ (s'.mailbox fn).err = 0 ∧ (s'.mailbox fn).pending = []
        ∧ (s'.mailbox fn).doors = [] ∧ (∀ q ∈ s'.gov.queues, q.fn = fn → q.qdb < 64 → q.hostTail = 0 ∧ q.hostHead = 0)
        ∧ ∀ off, bar0Read s' fn off = 0)
    ∧ (∀ (x : ConfigArg), ∃ s' bs, exec (.configurationRequest x) s = .next s' ∧ s'.log = s.log ++ [⟨x.fn, if s.mgmt.ready then 6 else 8, x.offset, bs⟩] ∧ s'.mem = s.mem)
    ∧ (∀ (x : AlgArg), (s.mailbox x.fn).fn = x.fn → ∃ s', exec (.algorithmNegotiation x) s = .next s' ∧ (s'.mailbox x.fn).negotiated = (x.falcon && x.shake)
        ∧ s'.log = s.log ++ [⟨x.fn, 10, 0, [if x.falcon && x.shake then 1 else 0]⟩])
    ∧ (∀ fn, (s.mailbox fn).fn = fn → (s.mailbox fn).negotiated = true → ∃ s', exec (.keyExchange ⟨fn⟩) s = .next s' ∧ (s'.mailbox fn).ide = true ∧ (fn = 0 → s'.mgmt.linkIde = true)
        ∧ s'.log = s.log ++ [⟨fn, 10, 0, [1]⟩])
    ∧ ∀ (x : MeasArg) (m : List Byte), measurement s x.fn x.index = some m →
      ((s.mailbox x.fn).negotiated = true → ∃ s', exec (.getMeasurements x) s = .next s' ∧ s'.log = s.log ++ [⟨x.fn, 10, x.index, m ++ x.nonce ++ signatureOf (m ++ x.nonce)⟩])
      ∧ ((s.mailbox x.fn).negotiated = false → ∃ s', exec (.getMeasurements x) s = .next s' ∧ s'.log = s.log ++ [⟨x.fn, 10, 0, []⟩])

/-- R22, R125, R133, R273, R274, R284, R299, R312, R315: the next plot of a launch is placed where the choice fits; an ended team whose operations have retired is freed; a quiesced plot is saved, once none of its teams runs, and a saved one comes back resident in its cluster when it fits there, with its points and, of each of its teams, the phases it wants, its pc, mask, predicates and the bits of its registers as they were saved; the next slot with work begins its slice; a recall that ends recalls no more; a legal slot value is written, its read-only words apart; and RESUME leaves no team of its domain halted for debugging. -/
def Obligations.PlacementEvents : Prop :=
  ∀ (s : State),
    (∀ (x : PlaceArg) (l : Launch) (k : Nat), s.launch? x.what = some l → (∀ p ∈ s.gov.plots, p.uid < s.uid) → nextIndex s l = some k → stageStatus s l = 0 →
      chooseCluster s l (plotTeams l k) = some x.cluster → choiceFits s l.dom l.pkt (plotTeams l k) x = true → placeStalls s l x.cores = false →
      ∃ s', exec (if drawnOrigin l then .plotPlacement x else .spawnIntake x) s = .next s'
        ∧ ∃ p ∈ s'.gov.plots, p.launch = l.uid ∧ p.index = k ∧ p.cluster = x.cluster)
    ∧ (∀ (t : Team), s.team? t.tid = some t → t.sched.status = .exited → t.ops = [] → (∀ r ∈ s.reports, r.tid ≠ t.tid) →
      releaseStalls s t.place.core t.stamp.home 5 = false → l1Stalls s t.place.core = false →
      ∃ s', exec (.teamFree ⟨t.tid⟩) s = .next s' ∧ s'.team? t.tid = none)
    ∧ (∀ (p : Plot), s.plot? p.uid = some p → p.st = .saving → p.quiesced = true → matrixOut s p = true →
      (∀ t ∈ s.teams, t.place.plot = p.uid → t.sched.status ≠ .running) → p.beds.any (fun b => l1Stalls s b.core) = false →
      ∃ s' p', exec (.plotSave ⟨p.uid⟩) s = .next s' ∧ s'.plot? p.uid = some p' ∧ p'.st = .saved)
    ∧ (∀ (x : PlaceArg) (p : Plot) (l : Launch), s.plot? x.what = some p → s.launch? p.launch = some l → p.st = .saved → x.cluster = p.cluster → savedFits s p l = true →
      restoreChoice s p l x = true → restoreFirst s p l.dom = true → tableWaits s l.dom = false → x.cores.any (l1Stalls s) = false →
      ∃ s' p', exec (.plotRestore x) s = .next s' ∧ s'.plot? x.what = some p' ∧ p'.st = .resident ∧ p'.cluster = x.cluster ∧ p'.points = p.points
        ∧ ((s.teams.map (·.tid)).Nodup → ∀ t, s.team? t.tid = some t → t.place.plot = p.uid → ∃ t', s'.team? t.tid = some t' ∧ t'.sync.want = t.sync.want
          ∧ t'.regs.p = t.regs.p ∧ t'.regs.q = t.regs.q ∧ t'.flow.mask = t.flow.mask ∧ t'.flow.pc = t.flow.pc
          ∧ ∀ r row, (t'.vget r row).bits = (t.vget r row).bits ∧ (t'.sget r).bits = (t.sget r).bits))
    ∧ (∀ (x : CoreArg) (i : Nat) (passed : List Nat), x.core < s.cores.length → (s.core x.core).slice.current = none →
      nextSlice s x.core (turnOrder (s.core x.core).slice.last) [] = (some i, passed) →
      ∃ s', exec (.sliceStart x) s = .next s' ∧ (s'.core x.core).slice.current = some i)
    ∧ (∀ (x : RecallArg), (x.slot, x.owner) ∈ (s.core x.core).slice.recalling → (x.core, x.slot, x.owner) ∉ (s.die (dieOf x.core)).recalls →
      ∃ s', exec (.recallEnd x) s = .next s' ∧ (x.slot, x.owner) ∉ (s'.core x.core).slice.recalling)
    ∧ (∀ (x : CoreSlotArg), x.core < Config.cores → x.slot < 8 → x.core < s.cores.length → x.slot < (s.core x.core).slots.length →
      slotBad (((List.range 8).filter (· != x.slot)).map (slotOfCore s x.core)) x.words = false →
      (slotValid x.words = true → estateBad s (dieOf x.core) (slotDomain x.words) = false) →
      ∃ s', exec (.coreSlotWrite x) s = .next s' ∧ ∀ k, k ≠ 9 → k ≠ 10 → (slotOfCore s' x.core x.slot)[k]? = x.words[k]?)
    ∧ ∀ (fn : Nat) (c : HostCmd), Claims.headIs s fn 6 c → (s.teams.map (·.tid)).Nodup →
      (∀ t ∈ s.teams, t.stamp.home = fn → .haltDebug ∉ t.sched.wish) →
      ∃ s', exec (.resume ⟨fn⟩) s = .next s' ∧ ∀ t ∈ s'.teams, t.stamp.home = fn → t.sched.status ≠ .haltDebug

/-! ## Encoding, the step, the invariant and reset -/

/-- R33, R38 to R49, R58, R59: the word of every legal instruction decodes to that instruction again, every operand at every value that the format holds. -/
def Obligations.EncodeRoundTrip : Prop := ∀ (i : Instr) (w : Slot), i.wf = true → encode i = some w → decodeSlot (isPaired i) w = .ok i

/-- R33, R39: a slot that decodes is the word of what it decodes to, which is legal: no two words stand for one instruction. -/
def Obligations.DecodedWordIsItsEncoding : Prop :=
  ∀ (pt : Bool) (w : Slot) (i : Instr), decodeSlot pt w = .ok i → i.wf = true ∧ isPaired i = pt ∧ encode i = some w

/-- R41 to R48, R58: words written out from the field tables decode to the instructions that they stand for; an opcode that R58 leaves unassigned, a predicate of the wrong kind and a set reserved bit do not decode. -/
def Obligations.WordsDecode : Prop :=
  decodeSlot false 0x160380818200001200000000 = .ok (.vcmp ⟨0, ⟨false, false, 7⟩, 1, 3, 4, 0, 0, 0, .n32, false, false, 2, 0⟩)
  ∧ decodeSlot false 0x6007800010002000FFFFFFFE = .ok (.sadd ⟨0, false, 7, 0, 2, 0, .i32, true, 0, 0xFFFFFFFE⟩)
  ∧ decodeSlot false 0x800381030029200000000000 = .ok (.ld ⟨0, ⟨false, false, 7⟩, 2, 24, 1, .b32, .plot, .acq, .global, 0, 0⟩)
  ∧ decodeSlot false 0xA40780030000000000000000 = .ok (.loop ⟨0, false, 7, ⟨false, false, 0⟩, 24, 0, 0, 0⟩)
  ∧ decodeSlot false 0xD00780000000100000000000 = .ok (.fence ⟨0, false, 7, 0, 0, 0, 0, false, 2, 0⟩)
  ∧ decodeSlot false 0x1A0380000000000000000000 = .error .unassignedOp
  ∧ decodeSlot false 0x600380000000000000000000 = .error .predicateKind
  ∧ decodeSlot false 0xAC0790000000000000000000 = .error .reservedBits

/-- R33, R35, R36, R40, R197: with no input due and no soft error, the step of a selected team whose line is well formed and whose slot decodes to i is exec of i at the state in which the team keeps the line and, at a slot marked RE, counts its region entry once; then no team is selected. A malformed line, a slot that does not decode and a line that cannot be fetched raise their fault instead. The model's choices in it: an input due comes before the selected team and that before the device's own events (assumption log 1); the line that the team holds is the line executed (log 10); and no region entry is counted at a slot marked RE that does not decode (log 51). -/
def Obligations.StepRunsInstruction : Prop :=
  ∀ (s : State) (t : Team), s.soft = [] → s.agenda = [] → s.focus = some t.tid → s.team? t.tid = some t →
    (∀ (b : BitVec 512) (i : Instr), teamLine s t = .ok b → lineMalformed (lineWord b) = false → t.flow.pc.slot ≤ 4 →
      decodeSlot ((lineWord b).getLsbD (5 + t.flow.pc.slot)) (lineSlot b t.flow.pc.slot) = .ok i →
      ∃ s1 t1, step s = unselect (exec i s1) ∧ s1 = s.putTeam t1 ∧ s1.team? t.tid = some t1
        ∧ { t1 with line := t.line, region := t.region, flow := t.flow } = t ∧ { t1.flow with entered := t.flow.entered } = t.flow
        ∧ (∃ l, t1.line = some l ∧ l.addr = t.flow.pc.line ∧ l.did = t.flow.did ∧ l.bits = b) ∧ (lineHeld t = true → t1.line = t.line) ∧ t1.flow.entered = true
        ∧ t1.region = (if (lineWord b).getLsbD (10 + t.flow.pc.slot) = true ∧ t.flow.entered = false
            then { t.region with hrgn := t.region.hrgn + 1, regpc := t.flow.pc.bits, valid := true, rs := t.rsDepth, cs := t.csDepth } else t.region))
    ∧ (∀ (b : BitVec 512), teamLine s t = .ok b → (lineMalformed (lineWord b) = true ∨ 4 < t.flow.pc.slot) →
      step s = unselect (raiseAt s t ⟨0x01, false, 0, t.flow.mask, none, false⟩))
    ∧ (∀ (b : BitVec 512) (r : Reject), teamLine s t = .ok b → lineMalformed (lineWord b) = false → t.flow.pc.slot ≤ 4 →
      decodeSlot ((lineWord b).getLsbD (5 + t.flow.pc.slot)) (lineSlot b t.flow.pc.slot) = .error r →
      ∃ half, step s = unselect (raiseAt s t ⟨0x01, false, 0, t.flow.mask, none, half⟩))
    ∧ ∀ (c : Nat), teamLine s t = .error c → ∃ a, step s = unselect (raiseAt (fetchWalk s t a) t ⟨c, false, 0, t.flow.mask, a, false⟩)

namespace Sys2Proof.Claims
/-- The header predicate of an instruction (R38); a paired word and a device event have none. -/
def headerOf (i : Instr) : Option Prd := match i with
  | .vadd f | .vsub f | .vmul f | .vmulh f | .vmad f | .vmin f | .vmax f | .vand f | .vor f | .vxor f | .vandn f | .vshl f | .vshr f | .vsra f | .vrot f
  | .vclz f | .vpop f | .vbrev f | .vbfx f | .vbfi f | .vsel f | .vmov f | .vcmp f | .vlop3 f | .vidx f | .vdot4 f | .fadd f | .fsub f | .fmul f | .fma f
  | .fmin f | .fmax f | .fcmp f | .fclass f | .frcp f | .frsq f | .fsqrt f | .fdiv f | .fex2 f | .flg2 f | .fsin f | .fcos f | .ftnh f | .frnd f | .cvt f
  | .fscl f | .fdot2 f | .qblk f | .dqblk f | .shfl f | .vstep f | .ballot f | .vote f | .matchRows f | .pfx f | .spack f | .spexp f | .vsort f | .bsrch f => some f.prd
  | .ld f | .st f | .lds f | .sts f | .ldp f | .stp f | .ldc f | .atom f | .cas f | .atomagg f | .ldf f | .stf f | .pref f | .marm f | .mwait f | .cline f => some f.prd
  | .sadd f | .ssub f | .smul f | .smulh f | .smad f | .sdiv f | .srem f | .sand f | .sor f | .sxor f | .sshl f | .sshr f | .ssra f | .smin f | .smax f
  | .sclz f | .spop f | .sbfx f | .sbfi f | .ssel f | .smov f | .scmp f | .saddx f | .smadx f | .srdv f | .swrv f | .sfadd f | .sfma f | .sfcmp f | .scvt f => some (hdr f.neg f.pq)
  | .bra f | .brc f | .brd f | .rcv f | .loop f | .call f | .ret f | .calli f | .exit f | .trap f | .hret f | .yield f | .nop f | .cgate f | .cgret f => some (hdr f.neg f.pq)
  | .cpy f | .cpyg f | .cpys f | .cpyf f | .wmrd f | .cpyc f | .cpym f | .chst f | .mloop f | .mzero f | .mst f | .mlda f | .mstat f | .mqset f | .mrel f
  | .macq f | .group f | .join f | .route f | .combn f | .gstat f | .spawn f | .qenq f | .qdeq f | .qstl f | .qput f | .dcnt f | .govst f => some (hdr f.neg f.pq)
  | .fence f | .waitc f | .tryw f | .rvinit f | .rvarr f | .rvwait f | .setfmt f | .rdsr f | .wrsr f | .carve f | .tlbi f | .cctl f | .clk f | .rng f
  | .halt f | .bkpt f => some (hdr f.neg f.pq)
  | _ => none
/-- The operands that an instruction names exist: register numbers within the team's footprint, runs and pairs within it and aligned, predicates of the right kind, and immediates within their range (R38, R39, R43 to R48). -/
def operandsOk (i : Instr) (t : Team) : Bool := match i with
  | .vadd f | .vsub f | .vmul f | .vmulh f | .vmin f | .vmax f | .vand f | .vor f | .vxor f | .vandn f | .vshl f | .vshr f | .vsra f | .vrot f
  | .vbfx f | .fadd f | .fsub f | .fmul f | .fmin f | .fmax f | .fdiv f | .fscl f | .shfl f => vOperandsOk usesDAB false f t
  | .vmad f | .vbfi f | .vdot4 f | .fma f | .fdot2 f => vOperandsOk usesDABC false f t
  | .vclz f | .vpop f | .vbrev f | .vmov f | .fclass f | .frcp f | .frsq f | .fsqrt f | .fex2 f | .flg2 f | .fsin f | .fcos f | .ftnh f | .frnd f
  | .cvt f | .vstep f | .pfx f => vOperandsOk usesDA false f t
  | .vsel f => vOperandsOk ⟨.block, .block, .block, .anyPred⟩ false f t
  | .vcmp f | .fcmp f => vOperandsOk ⟨.rowPred, .block, .block, .unused⟩ false f t
  | .vlop3 f => vOperandsOk usesDABC true f t
  | .vidx f => vOperandsOk ⟨.block, .unused, .unused, .unused⟩ false f t
  | .qblk f => qblkOk f t
  | .dqblk f => dqblkOk f t
  | .ballot f => vOperandsOk ⟨.run 1, .anyPred, .unused, .unused⟩ false f t
  | .vote f => vOperandsOk ⟨.teamPred, .anyPred, .unused, .unused⟩ false f t
  | .matchRows f => fixedOk 1 1 0 f t
  | .spack f => fixedOk 6 8 0 f t
  | .spexp f => fixedOk 8 6 0 f t
  | .vsort f => fixedOk 2 1 0 f t
  | .bsrch f => fixedOk 1 1 1 f t
  | .pairedWord f => pairOk f t
  | .sadd f | .ssub f | .smul f | .smulh f | .smad f | .sdiv f | .srem f | .sand f | .sor f | .sxor f | .sshl f | .sshr f | .ssra f | .smin f
  | .smax f | .sbfx f | .sbfi f | .ssel f | .sfadd f | .sfma f => sDAB f t
  | .sclz f | .spop f | .scvt f => sDA f t
  | .smov f => qHeaderOk t f.pq && sOpOk t f f.d && (f.ib || sOpOk t f f.a)
  | .scmp f | .sfcmp f => sCmpOk f t
  | .saddx f => qHeaderOk t f.pq && xregOk t f.d.toNat && xregOk t f.a.toNat && (f.ib || sregOk t f.b.toNat)
  | .smadx f => qHeaderOk t f.pq && xregOk t f.d.toNat && sregOk t f.a.toNat && (f.ib || sregOk t f.b.toNat)
  | .srdv f => qHeaderOk t f.pq && sOpOk t f f.d && vMoveOk t f.ty f.a.toNat && (f.ib || sOpOk t f f.b)
  | .swrv f => qHeaderOk t f.pq && vMoveOk t f.ty f.d.toNat && sOpOk t f f.a
  | .ld f | .st f | .lds f | .sts f | .ldp f | .stp f | .ldc f | .atom f | .atomagg f | .ldf f | .stf f => mDataOk f t
  | .cas f => mOk (2 * widthRegs f.width) (if f.width == .b64 then 4 else 1) f t
  | .pref f | .marm f | .mwait f | .cline f => mOk 0 1 f t
  | .bra f | .brc f | .brd f | .rcv f | .call f | .ret f | .exit f | .trap f | .hret f | .yield f | .nop f | .cgate f | .cgret f => bOk f t
  | .loop f => bOk f t && sregOk t f.scalar.toNat
  | .calli f => bOk f t && xregOk t f.scalar.toNat
  | .cpy f | .cpyg f | .cpys f | .cpyf f | .wmrd f | .cpyc f | .cpym f | .chst f | .mstat f | .mqset f | .gstat f | .qenq f | .qdeq f | .qstl f
  | .qput f | .dcnt f | .govst f => eOk 8 f t
  | .mloop f | .mst f | .mlda f => eOk 16 f t
  | .mzero f | .mrel f | .macq f => qHeaderOk t f.pq
  | .group f | .join f | .route f | .combn f => eOk 16 f t && vregOk t f.vop.toNat
  | .spawn f => eOk 32 f t
  | .fence f => yOk f t && decide (fenceScope f ≤ 5)
  | .waitc f => yOk f t && decide (f.imm.toNat ≤ 255)
  | .tryw f => yOk f t && decide (f.sub.toNat ≤ 2) && qNumOk t f.d && sregOk t f.a.toNat && sregOk t f.b.toNat
  | .rvinit f => yOk f t && f.imm &&& 0xFFFF00E0 == 0 && decide (f.imm.toNat % 32 < 24)
  | .rvarr f => yOk f t && (f.sub == 0 || f.sub == 2) && rvIndexOk f
  | .rvwait f => yOk f t && qNumOk t f.d && rvIndexOk f
  | .setfmt f => yOk f t && (f.ib || sregOk t f.a.toNat)
  | .rdsr f => yOk f t && sregOk t f.d.toNat
  | .wrsr f => yOk f t && sregOk t f.a.toNat
  | .carve f => yOk f t && qNumOk t f.d && sregOk t f.a.toNat
  | .tlbi f => yOk f t && decide (f.imm.toNat ≤ 2) && (f.imm == 2 || xregOk t f.a.toNat)
  | .cctl f => yOk f t && decide (f.imm.toNat ≤ 4) && sregOk t f.a.toNat
  | .clk f => yOk f t && decide (f.imm.toNat ≤ 1) && xregOk t f.d.toNat
  | .rng f => yOk f t && (if f.ty = 4 then xregOk t f.d.toNat else sregOk t f.d.toNat)
  | .halt f | .bkpt f => yOk f t
  | _ => true
end Sys2Proof.Claims

/-- R38, R39, R40, R54, R307, R332: an illegal instruction raises 0x01, and one with an illegal operand 0x02, suppressed or not. A legal one that an unfinished graft operation does not allow is held. Else one that its header predicate suppresses only advances the pc. One that is not suppressed aborts the gate with cause 8 when the gate does not admit it, raises 0x02 when it names a register that the gate seals, and is held when it needs a register that an engine operation has still to write. A sealed header predicate raises 0x02 itself. A paired word has no header predicate: it raises 0x02 when a half names a sealed register. That an instruction which is not suppressed accesses every register that it names is the model's choice (assumption log 111). -/
def Obligations.IllegalAndSuppressed : Prop :=
  ∀ (i : Instr) (s : State) (t u : Team), i.isEvent = false → s.focus = some t.tid → s.team? t.tid = some t → u = t.unhold s.clock.ac →
    (i.wf = false → ∃ half, exec i s = raiseAt s u ⟨0x01, false, 0, t.flow.mask, none, half⟩)
    ∧ (i.wf = true → Claims.operandsOk i u.legal = false → ∃ half, exec i s = raiseAt s u ⟨0x02, false, 0, t.flow.mask, none, half⟩)
    ∧ (i.wf = true → Claims.operandsOk i u.legal = true →
      (t.gate = none → t.graft.pending.isSome = true → graftAllows i = false → exec i s = holdTeam s u .graft)
      ∧ ((t.gate = none → t.graft.pending.isSome = true → graftAllows i = true) →
        (∀ p, Claims.headerOf i = some p →
          (p.team = true → t.predOk p.index.toNat = false → exec i s = raiseAt s u ⟨0x02, false, 0, t.flow.mask, none, false⟩)
          ∧ ((p.team = true → t.predOk p.index.toNat = true) →
            (t.suppressed p = true → RunsTo i s t fun t' => FallsThrough t t' ∧ t'.regs = t.regs)
            ∧ (t.suppressed p = false →
              (∀ g, t.gate = some g → gateAllows i = false → exec i s = abortNow s u g 8)
              ∧ ((t.gate.isSome = true → gateAllows i = true) →
                (Claims.operandsOk i u = false → exec i s = raiseAt s u ⟨0x02, false, 0, t.flow.mask, none, false⟩)
                ∧ (Claims.operandsOk i u = true → interlocked s u i = true → exec i s = holdTeam s u .interlock)))))
        ∧ ∀ f : PairForm, i = .pairedWord f →
          Claims.operandsOk i u = false → exec i s = raiseAt s u ⟨0x02, false, 0, t.flow.mask, none, false⟩))

/-- R162, R173, R176, R303, R304, R366: the stacks' memory keeps its one canonical form, whatever the device does next. -/
def Obligations.StepKeepsMemory : Prop := ∀ (s s' : State), s.Inv → step s = .next s' → s'.Inv

/-- R298, R301, R303, R364, R366: after cold reset no team, plot or launch exists; every core slot and cluster slot is invalid; every bank is plot scratchpad of domain 0, zero; every page belongs to domain 0; every firewall register is zero; no queue is configured; every stack reads zero with no poison, in canonical form; and the device is ready with nothing sent. That State.reset stands right after bring-up is the model's choice (assumption log 12), and so is the empty list of sent messages (assumption log 9). -/
def Obligations.ResetState : Prop :=
  State.reset.Inv ∧ State.reset.teams = [] ∧ State.reset.gov.plots = [] ∧ State.reset.gov.launches = [] ∧ State.reset.gov.queues = []
  ∧ (∀ core i, slotValid (slotOfCore State.reset core i) = false) ∧ (∀ c i, (((State.reset.cluster c).slots.getD i []).getD 0 0).getLsbD 31 = false)
  ∧ (∀ c ∈ State.reset.clusters, ∀ b ∈ c.banks, b.mode = .plot ∧ b.owner = 0 ∧ b.mem = Scratch.empty ∧ b.fifo = [])
  ∧ (∀ page, rotEntry State.reset page = 0) ∧ (∀ d, (State.reset.die d).firewall = 0) ∧ (∀ a n, State.reset.mem.read a n = List.replicate n 0)
  ∧ (∀ a n, State.reset.mem.poisoned a n = false) ∧ State.reset.log = [] ∧ State.reset.mgmt.ready = true
end

