-- ==== Sys2Proof/Laws/State.lean ====
section
/-! SUPPORT. One lemma for each field and update of the state and of a team: the fields that an update leaves alone. -/

namespace Sys2Proof.Machine

@[simp] theorem State.putTeam_agenda (s : State) (t : Team) : (s.putTeam t).agenda = s.agenda := rfl
@[simp] theorem State.putTeam_soft (s : State) (t : Team) : (s.putTeam t).soft = s.soft := rfl
@[simp] theorem State.putTeam_focus (s : State) (t : Team) : (s.putTeam t).focus = s.focus := rfl
@[simp] theorem State.putTeam_free (s : State) (t : Team) : (s.putTeam t).free = s.free := rfl
@[simp] theorem State.putTeam_uid (s : State) (t : Team) : (s.putTeam t).uid = s.uid := rfl
@[simp] theorem State.putTeam_nextQuad (s : State) (t : Team) : (s.putTeam t).nextQuad = s.nextQuad := rfl
@[simp] theorem State.putTeam_log (s : State) (t : Team) : (s.putTeam t).log = s.log := rfl
@[simp] theorem State.putTeam_clock (s : State) (t : Team) : (s.putTeam t).clock = s.clock := rfl
@[simp] theorem State.putTeam_mem (s : State) (t : Team) : (s.putTeam t).mem = s.mem := rfl
@[simp] theorem State.putTeam_badPages (s : State) (t : Team) : (s.putTeam t).badPages = s.badPages := rfl
@[simp] theorem State.putTeam_cores (s : State) (t : Team) : (s.putTeam t).cores = s.cores := rfl
@[simp] theorem State.putTeam_clusters (s : State) (t : Team) : (s.putTeam t).clusters = s.clusters := rfl
@[simp] theorem State.putTeam_dies (s : State) (t : Team) : (s.putTeam t).dies = s.dies := rfl
@[simp] theorem State.putTeam_gov (s : State) (t : Team) : (s.putTeam t).gov = s.gov := rfl
@[simp] theorem State.putTeam_mgmt (s : State) (t : Team) : (s.putTeam t).mgmt = s.mgmt := rfl
@[simp] theorem State.putTeam_reports (s : State) (t : Team) : (s.putTeam t).reports = s.reports := rfl
@[simp] theorem State.modCore_agenda (s : State) (c : Nat) (f : Core → Core) : (s.modCore c f).agenda = s.agenda := rfl
@[simp] theorem State.modCore_soft (s : State) (c : Nat) (f : Core → Core) : (s.modCore c f).soft = s.soft := rfl
@[simp] theorem State.modCore_focus (s : State) (c : Nat) (f : Core → Core) : (s.modCore c f).focus = s.focus := rfl
@[simp] theorem State.modCore_free (s : State) (c : Nat) (f : Core → Core) : (s.modCore c f).free = s.free := rfl
@[simp] theorem State.modCore_uid (s : State) (c : Nat) (f : Core → Core) : (s.modCore c f).uid = s.uid := rfl
@[simp] theorem State.modCore_nextQuad (s : State) (c : Nat) (f : Core → Core) : (s.modCore c f).nextQuad = s.nextQuad := rfl
@[simp] theorem State.modCore_log (s : State) (c : Nat) (f : Core → Core) : (s.modCore c f).log = s.log := rfl
@[simp] theorem State.modCore_clock (s : State) (c : Nat) (f : Core → Core) : (s.modCore c f).clock = s.clock := rfl
@[simp] theorem State.modCore_mem (s : State) (c : Nat) (f : Core → Core) : (s.modCore c f).mem = s.mem := rfl
@[simp] theorem State.modCore_badPages (s : State) (c : Nat) (f : Core → Core) : (s.modCore c f).badPages = s.badPages := rfl
@[simp] theorem State.modCore_teams (s : State) (c : Nat) (f : Core → Core) : (s.modCore c f).teams = s.teams := rfl
@[simp] theorem State.modCore_clusters (s : State) (c : Nat) (f : Core → Core) : (s.modCore c f).clusters = s.clusters := rfl
@[simp] theorem State.modCore_dies (s : State) (c : Nat) (f : Core → Core) : (s.modCore c f).dies = s.dies := rfl
@[simp] theorem State.modCore_gov (s : State) (c : Nat) (f : Core → Core) : (s.modCore c f).gov = s.gov := rfl
@[simp] theorem State.modCore_mgmt (s : State) (c : Nat) (f : Core → Core) : (s.modCore c f).mgmt = s.mgmt := rfl
@[simp] theorem State.modCore_reports (s : State) (c : Nat) (f : Core → Core) : (s.modCore c f).reports = s.reports := rfl
@[simp] theorem State.modCluster_agenda (s : State) (c : Nat) (f : Cluster → Cluster) : (s.modCluster c f).agenda = s.agenda := rfl
@[simp] theorem State.modCluster_soft (s : State) (c : Nat) (f : Cluster → Cluster) : (s.modCluster c f).soft = s.soft := rfl
@[simp] theorem State.modCluster_focus (s : State) (c : Nat) (f : Cluster → Cluster) : (s.modCluster c f).focus = s.focus := rfl
@[simp] theorem State.modCluster_free (s : State) (c : Nat) (f : Cluster → Cluster) : (s.modCluster c f).free = s.free := rfl
@[simp] theorem State.modCluster_uid (s : State) (c : Nat) (f : Cluster → Cluster) : (s.modCluster c f).uid = s.uid := rfl
@[simp] theorem State.modCluster_nextQuad (s : State) (c : Nat) (f : Cluster → Cluster) : (s.modCluster c f).nextQuad = s.nextQuad := rfl
@[simp] theorem State.modCluster_log (s : State) (c : Nat) (f : Cluster → Cluster) : (s.modCluster c f).log = s.log := rfl
@[simp] theorem State.modCluster_clock (s : State) (c : Nat) (f : Cluster → Cluster) : (s.modCluster c f).clock = s.clock := rfl
@[simp] theorem State.modCluster_mem (s : State) (c : Nat) (f : Cluster → Cluster) : (s.modCluster c f).mem = s.mem := rfl
@[simp] theorem State.modCluster_badPages (s : State) (c : Nat) (f : Cluster → Cluster) : (s.modCluster c f).badPages = s.badPages := rfl
@[simp] theorem State.modCluster_teams (s : State) (c : Nat) (f : Cluster → Cluster) : (s.modCluster c f).teams = s.teams := rfl
@[simp] theorem State.modCluster_cores (s : State) (c : Nat) (f : Cluster → Cluster) : (s.modCluster c f).cores = s.cores := rfl
@[simp] theorem State.modCluster_dies (s : State) (c : Nat) (f : Cluster → Cluster) : (s.modCluster c f).dies = s.dies := rfl
@[simp] theorem State.modCluster_gov (s : State) (c : Nat) (f : Cluster → Cluster) : (s.modCluster c f).gov = s.gov := rfl
@[simp] theorem State.modCluster_mgmt (s : State) (c : Nat) (f : Cluster → Cluster) : (s.modCluster c f).mgmt = s.mgmt := rfl
@[simp] theorem State.modCluster_reports (s : State) (c : Nat) (f : Cluster → Cluster) : (s.modCluster c f).reports = s.reports := rfl
@[simp] theorem State.modDie_agenda (s : State) (d : Nat) (f : Die → Die) : (s.modDie d f).agenda = s.agenda := rfl
@[simp] theorem State.modDie_soft (s : State) (d : Nat) (f : Die → Die) : (s.modDie d f).soft = s.soft := rfl
@[simp] theorem State.modDie_focus (s : State) (d : Nat) (f : Die → Die) : (s.modDie d f).focus = s.focus := rfl
@[simp] theorem State.modDie_free (s : State) (d : Nat) (f : Die → Die) : (s.modDie d f).free = s.free := rfl
@[simp] theorem State.modDie_uid (s : State) (d : Nat) (f : Die → Die) : (s.modDie d f).uid = s.uid := rfl
@[simp] theorem State.modDie_nextQuad (s : State) (d : Nat) (f : Die → Die) : (s.modDie d f).nextQuad = s.nextQuad := rfl
@[simp] theorem State.modDie_log (s : State) (d : Nat) (f : Die → Die) : (s.modDie d f).log = s.log := rfl
@[simp] theorem State.modDie_clock (s : State) (d : Nat) (f : Die → Die) : (s.modDie d f).clock = s.clock := rfl
@[simp] theorem State.modDie_mem (s : State) (d : Nat) (f : Die → Die) : (s.modDie d f).mem = s.mem := rfl
@[simp] theorem State.modDie_badPages (s : State) (d : Nat) (f : Die → Die) : (s.modDie d f).badPages = s.badPages := rfl
@[simp] theorem State.modDie_teams (s : State) (d : Nat) (f : Die → Die) : (s.modDie d f).teams = s.teams := rfl
@[simp] theorem State.modDie_cores (s : State) (d : Nat) (f : Die → Die) : (s.modDie d f).cores = s.cores := rfl
@[simp] theorem State.modDie_clusters (s : State) (d : Nat) (f : Die → Die) : (s.modDie d f).clusters = s.clusters := rfl
@[simp] theorem State.modDie_gov (s : State) (d : Nat) (f : Die → Die) : (s.modDie d f).gov = s.gov := rfl
@[simp] theorem State.modDie_mgmt (s : State) (d : Nat) (f : Die → Die) : (s.modDie d f).mgmt = s.mgmt := rfl
@[simp] theorem State.modDie_reports (s : State) (d : Nat) (f : Die → Die) : (s.modDie d f).reports = s.reports := rfl
@[simp] theorem State.modGov_agenda (s : State) (f : Governor → Governor) : (s.modGov f).agenda = s.agenda := rfl
@[simp] theorem State.modGov_soft (s : State) (f : Governor → Governor) : (s.modGov f).soft = s.soft := rfl
@[simp] theorem State.modGov_focus (s : State) (f : Governor → Governor) : (s.modGov f).focus = s.focus := rfl
@[simp] theorem State.modGov_free (s : State) (f : Governor → Governor) : (s.modGov f).free = s.free := rfl
@[simp] theorem State.modGov_uid (s : State) (f : Governor → Governor) : (s.modGov f).uid = s.uid := rfl
@[simp] theorem State.modGov_nextQuad (s : State) (f : Governor → Governor) : (s.modGov f).nextQuad = s.nextQuad := rfl
@[simp] theorem State.modGov_log (s : State) (f : Governor → Governor) : (s.modGov f).log = s.log := rfl
@[simp] theorem State.modGov_clock (s : State) (f : Governor → Governor) : (s.modGov f).clock = s.clock := rfl
@[simp] theorem State.modGov_mem (s : State) (f : Governor → Governor) : (s.modGov f).mem = s.mem := rfl
@[simp] theorem State.modGov_badPages (s : State) (f : Governor → Governor) : (s.modGov f).badPages = s.badPages := rfl
@[simp] theorem State.modGov_teams (s : State) (f : Governor → Governor) : (s.modGov f).teams = s.teams := rfl
@[simp] theorem State.modGov_cores (s : State) (f : Governor → Governor) : (s.modGov f).cores = s.cores := rfl
@[simp] theorem State.modGov_clusters (s : State) (f : Governor → Governor) : (s.modGov f).clusters = s.clusters := rfl
@[simp] theorem State.modGov_dies (s : State) (f : Governor → Governor) : (s.modGov f).dies = s.dies := rfl
@[simp] theorem State.modGov_mgmt (s : State) (f : Governor → Governor) : (s.modGov f).mgmt = s.mgmt := rfl
@[simp] theorem State.modGov_reports (s : State) (f : Governor → Governor) : (s.modGov f).reports = s.reports := rfl
@[simp] theorem State.putPlot_agenda (s : State) (p : Plot) : (s.putPlot p).agenda = s.agenda := rfl
@[simp] theorem State.putPlot_soft (s : State) (p : Plot) : (s.putPlot p).soft = s.soft := rfl
@[simp] theorem State.putPlot_focus (s : State) (p : Plot) : (s.putPlot p).focus = s.focus := rfl
@[simp] theorem State.putPlot_free (s : State) (p : Plot) : (s.putPlot p).free = s.free := rfl
@[simp] theorem State.putPlot_uid (s : State) (p : Plot) : (s.putPlot p).uid = s.uid := rfl
@[simp] theorem State.putPlot_nextQuad (s : State) (p : Plot) : (s.putPlot p).nextQuad = s.nextQuad := rfl
@[simp] theorem State.putPlot_log (s : State) (p : Plot) : (s.putPlot p).log = s.log := rfl
@[simp] theorem State.putPlot_clock (s : State) (p : Plot) : (s.putPlot p).clock = s.clock := rfl
@[simp] theorem State.putPlot_mem (s : State) (p : Plot) : (s.putPlot p).mem = s.mem := rfl
@[simp] theorem State.putPlot_badPages (s : State) (p : Plot) : (s.putPlot p).badPages = s.badPages := rfl
@[simp] theorem State.putPlot_teams (s : State) (p : Plot) : (s.putPlot p).teams = s.teams := rfl
@[simp] theorem State.putPlot_cores (s : State) (p : Plot) : (s.putPlot p).cores = s.cores := rfl
@[simp] theorem State.putPlot_clusters (s : State) (p : Plot) : (s.putPlot p).clusters = s.clusters := rfl
@[simp] theorem State.putPlot_dies (s : State) (p : Plot) : (s.putPlot p).dies = s.dies := rfl
@[simp] theorem State.putPlot_mgmt (s : State) (p : Plot) : (s.putPlot p).mgmt = s.mgmt := rfl
@[simp] theorem State.putPlot_reports (s : State) (p : Plot) : (s.putPlot p).reports = s.reports := rfl
@[simp] theorem State.putLaunch_agenda (s : State) (l : Launch) : (s.putLaunch l).agenda = s.agenda := rfl
@[simp] theorem State.putLaunch_soft (s : State) (l : Launch) : (s.putLaunch l).soft = s.soft := rfl
@[simp] theorem State.putLaunch_focus (s : State) (l : Launch) : (s.putLaunch l).focus = s.focus := rfl
@[simp] theorem State.putLaunch_free (s : State) (l : Launch) : (s.putLaunch l).free = s.free := rfl
@[simp] theorem State.putLaunch_uid (s : State) (l : Launch) : (s.putLaunch l).uid = s.uid := rfl
@[simp] theorem State.putLaunch_nextQuad (s : State) (l : Launch) : (s.putLaunch l).nextQuad = s.nextQuad := rfl
@[simp] theorem State.putLaunch_log (s : State) (l : Launch) : (s.putLaunch l).log = s.log := rfl
@[simp] theorem State.putLaunch_clock (s : State) (l : Launch) : (s.putLaunch l).clock = s.clock := rfl
@[simp] theorem State.putLaunch_mem (s : State) (l : Launch) : (s.putLaunch l).mem = s.mem := rfl
@[simp] theorem State.putLaunch_badPages (s : State) (l : Launch) : (s.putLaunch l).badPages = s.badPages := rfl
@[simp] theorem State.putLaunch_teams (s : State) (l : Launch) : (s.putLaunch l).teams = s.teams := rfl
@[simp] theorem State.putLaunch_cores (s : State) (l : Launch) : (s.putLaunch l).cores = s.cores := rfl
@[simp] theorem State.putLaunch_clusters (s : State) (l : Launch) : (s.putLaunch l).clusters = s.clusters := rfl
@[simp] theorem State.putLaunch_dies (s : State) (l : Launch) : (s.putLaunch l).dies = s.dies := rfl
@[simp] theorem State.putLaunch_mgmt (s : State) (l : Launch) : (s.putLaunch l).mgmt = s.mgmt := rfl
@[simp] theorem State.putLaunch_reports (s : State) (l : Launch) : (s.putLaunch l).reports = s.reports := rfl
@[simp] theorem State.modMgmt_agenda (s : State) (f : Manage → Manage) : (s.modMgmt f).agenda = s.agenda := rfl
@[simp] theorem State.modMgmt_soft (s : State) (f : Manage → Manage) : (s.modMgmt f).soft = s.soft := rfl
@[simp] theorem State.modMgmt_focus (s : State) (f : Manage → Manage) : (s.modMgmt f).focus = s.focus := rfl
@[simp] theorem State.modMgmt_free (s : State) (f : Manage → Manage) : (s.modMgmt f).free = s.free := rfl
@[simp] theorem State.modMgmt_uid (s : State) (f : Manage → Manage) : (s.modMgmt f).uid = s.uid := rfl
@[simp] theorem State.modMgmt_nextQuad (s : State) (f : Manage → Manage) : (s.modMgmt f).nextQuad = s.nextQuad := rfl
@[simp] theorem State.modMgmt_log (s : State) (f : Manage → Manage) : (s.modMgmt f).log = s.log := rfl
@[simp] theorem State.modMgmt_clock (s : State) (f : Manage → Manage) : (s.modMgmt f).clock = s.clock := rfl
@[simp] theorem State.modMgmt_mem (s : State) (f : Manage → Manage) : (s.modMgmt f).mem = s.mem := rfl
@[simp] theorem State.modMgmt_badPages (s : State) (f : Manage → Manage) : (s.modMgmt f).badPages = s.badPages := rfl
@[simp] theorem State.modMgmt_teams (s : State) (f : Manage → Manage) : (s.modMgmt f).teams = s.teams := rfl
@[simp] theorem State.modMgmt_cores (s : State) (f : Manage → Manage) : (s.modMgmt f).cores = s.cores := rfl
@[simp] theorem State.modMgmt_clusters (s : State) (f : Manage → Manage) : (s.modMgmt f).clusters = s.clusters := rfl
@[simp] theorem State.modMgmt_dies (s : State) (f : Manage → Manage) : (s.modMgmt f).dies = s.dies := rfl
@[simp] theorem State.modMgmt_gov (s : State) (f : Manage → Manage) : (s.modMgmt f).gov = s.gov := rfl
@[simp] theorem State.modMgmt_reports (s : State) (f : Manage → Manage) : (s.modMgmt f).reports = s.reports := rfl
@[simp] theorem State.putDomain_agenda (s : State) (d : Domain) : (s.putDomain d).agenda = s.agenda := rfl
@[simp] theorem State.putDomain_soft (s : State) (d : Domain) : (s.putDomain d).soft = s.soft := rfl
@[simp] theorem State.putDomain_focus (s : State) (d : Domain) : (s.putDomain d).focus = s.focus := rfl
@[simp] theorem State.putDomain_free (s : State) (d : Domain) : (s.putDomain d).free = s.free := rfl
@[simp] theorem State.putDomain_uid (s : State) (d : Domain) : (s.putDomain d).uid = s.uid := rfl
@[simp] theorem State.putDomain_nextQuad (s : State) (d : Domain) : (s.putDomain d).nextQuad = s.nextQuad := rfl
@[simp] theorem State.putDomain_log (s : State) (d : Domain) : (s.putDomain d).log = s.log := rfl
@[simp] theorem State.putDomain_clock (s : State) (d : Domain) : (s.putDomain d).clock = s.clock := rfl
@[simp] theorem State.putDomain_mem (s : State) (d : Domain) : (s.putDomain d).mem = s.mem := rfl
@[simp] theorem State.putDomain_badPages (s : State) (d : Domain) : (s.putDomain d).badPages = s.badPages := rfl
@[simp] theorem State.putDomain_teams (s : State) (d : Domain) : (s.putDomain d).teams = s.teams := rfl
@[simp] theorem State.putDomain_cores (s : State) (d : Domain) : (s.putDomain d).cores = s.cores := rfl
@[simp] theorem State.putDomain_clusters (s : State) (d : Domain) : (s.putDomain d).clusters = s.clusters := rfl
@[simp] theorem State.putDomain_dies (s : State) (d : Domain) : (s.putDomain d).dies = s.dies := rfl
@[simp] theorem State.putDomain_gov (s : State) (d : Domain) : (s.putDomain d).gov = s.gov := rfl
@[simp] theorem State.putDomain_reports (s : State) (d : Domain) : (s.putDomain d).reports = s.reports := rfl
@[simp] theorem State.drawn_agenda (s : State) (n : Nat) : (s.drawn n).agenda = s.agenda := rfl
@[simp] theorem State.drawn_soft (s : State) (n : Nat) : (s.drawn n).soft = s.soft := rfl
@[simp] theorem State.drawn_focus (s : State) (n : Nat) : (s.drawn n).focus = s.focus := rfl
@[simp] theorem State.drawn_uid (s : State) (n : Nat) : (s.drawn n).uid = s.uid := rfl
@[simp] theorem State.drawn_nextQuad (s : State) (n : Nat) : (s.drawn n).nextQuad = s.nextQuad := rfl
@[simp] theorem State.drawn_log (s : State) (n : Nat) : (s.drawn n).log = s.log := rfl
@[simp] theorem State.drawn_clock (s : State) (n : Nat) : (s.drawn n).clock = s.clock := rfl
@[simp] theorem State.drawn_mem (s : State) (n : Nat) : (s.drawn n).mem = s.mem := rfl
@[simp] theorem State.drawn_badPages (s : State) (n : Nat) : (s.drawn n).badPages = s.badPages := rfl
@[simp] theorem State.drawn_teams (s : State) (n : Nat) : (s.drawn n).teams = s.teams := rfl
@[simp] theorem State.drawn_cores (s : State) (n : Nat) : (s.drawn n).cores = s.cores := rfl
@[simp] theorem State.drawn_clusters (s : State) (n : Nat) : (s.drawn n).clusters = s.clusters := rfl
@[simp] theorem State.drawn_dies (s : State) (n : Nat) : (s.drawn n).dies = s.dies := rfl
@[simp] theorem State.drawn_gov (s : State) (n : Nat) : (s.drawn n).gov = s.gov := rfl
@[simp] theorem State.drawn_mgmt (s : State) (n : Nat) : (s.drawn n).mgmt = s.mgmt := rfl
@[simp] theorem State.drawn_reports (s : State) (n : Nat) : (s.drawn n).reports = s.reports := rfl
@[simp] theorem State.send_agenda (s : State) (m : BusMsg) : (s.send m).agenda = s.agenda := rfl
@[simp] theorem State.send_soft (s : State) (m : BusMsg) : (s.send m).soft = s.soft := rfl
@[simp] theorem State.send_focus (s : State) (m : BusMsg) : (s.send m).focus = s.focus := rfl
@[simp] theorem State.send_free (s : State) (m : BusMsg) : (s.send m).free = s.free := rfl
@[simp] theorem State.send_uid (s : State) (m : BusMsg) : (s.send m).uid = s.uid := rfl
@[simp] theorem State.send_nextQuad (s : State) (m : BusMsg) : (s.send m).nextQuad = s.nextQuad := rfl
@[simp] theorem State.send_clock (s : State) (m : BusMsg) : (s.send m).clock = s.clock := rfl
@[simp] theorem State.send_mem (s : State) (m : BusMsg) : (s.send m).mem = s.mem := rfl
@[simp] theorem State.send_badPages (s : State) (m : BusMsg) : (s.send m).badPages = s.badPages := rfl
@[simp] theorem State.send_teams (s : State) (m : BusMsg) : (s.send m).teams = s.teams := rfl
@[simp] theorem State.send_cores (s : State) (m : BusMsg) : (s.send m).cores = s.cores := rfl
@[simp] theorem State.send_clusters (s : State) (m : BusMsg) : (s.send m).clusters = s.clusters := rfl
@[simp] theorem State.send_dies (s : State) (m : BusMsg) : (s.send m).dies = s.dies := rfl
@[simp] theorem State.send_gov (s : State) (m : BusMsg) : (s.send m).gov = s.gov := rfl
@[simp] theorem State.send_mgmt (s : State) (m : BusMsg) : (s.send m).mgmt = s.mgmt := rfl
@[simp] theorem State.send_reports (s : State) (m : BusMsg) : (s.send m).reports = s.reports := rfl
@[simp] theorem State.meter_agenda (s : State) (d k n : Nat) : (s.meter d k n).agenda = s.agenda := by unfold State.meter; split <;> rfl
@[simp] theorem State.meter_soft (s : State) (d k n : Nat) : (s.meter d k n).soft = s.soft := by unfold State.meter; split <;> rfl
@[simp] theorem State.meter_focus (s : State) (d k n : Nat) : (s.meter d k n).focus = s.focus := by unfold State.meter; split <;> rfl
@[simp] theorem State.meter_free (s : State) (d k n : Nat) : (s.meter d k n).free = s.free := by unfold State.meter; split <;> rfl
@[simp] theorem State.meter_uid (s : State) (d k n : Nat) : (s.meter d k n).uid = s.uid := by unfold State.meter; split <;> rfl
@[simp] theorem State.meter_nextQuad (s : State) (d k n : Nat) : (s.meter d k n).nextQuad = s.nextQuad := by unfold State.meter; split <;> rfl
@[simp] theorem State.meter_log (s : State) (d k n : Nat) : (s.meter d k n).log = s.log := by unfold State.meter; split <;> rfl
@[simp] theorem State.meter_clock (s : State) (d k n : Nat) : (s.meter d k n).clock = s.clock := by unfold State.meter; split <;> rfl
@[simp] theorem State.meter_mem (s : State) (d k n : Nat) : (s.meter d k n).mem = s.mem := by unfold State.meter; split <;> rfl
@[simp] theorem State.meter_badPages (s : State) (d k n : Nat) : (s.meter d k n).badPages = s.badPages := by unfold State.meter; split <;> rfl
@[simp] theorem State.meter_teams (s : State) (d k n : Nat) : (s.meter d k n).teams = s.teams := by unfold State.meter; split <;> rfl
@[simp] theorem State.meter_cores (s : State) (d k n : Nat) : (s.meter d k n).cores = s.cores := by unfold State.meter; split <;> rfl
@[simp] theorem State.meter_clusters (s : State) (d k n : Nat) : (s.meter d k n).clusters = s.clusters := by unfold State.meter; split <;> rfl
@[simp] theorem State.meter_dies (s : State) (d k n : Nat) : (s.meter d k n).dies = s.dies := by unfold State.meter; split <;> rfl
@[simp] theorem State.meter_gov (s : State) (d k n : Nat) : (s.meter d k n).gov = s.gov := by unfold State.meter; split <;> rfl
@[simp] theorem State.meter_reports (s : State) (d k n : Nat) : (s.meter d k n).reports = s.reports := by unfold State.meter; split <;> rfl
@[simp] theorem State.charge_agenda (s : State) (c d n : Nat) : (s.charge c d n).agenda = s.agenda := rfl
@[simp] theorem State.charge_soft (s : State) (c d n : Nat) : (s.charge c d n).soft = s.soft := rfl
@[simp] theorem State.charge_focus (s : State) (c d n : Nat) : (s.charge c d n).focus = s.focus := rfl
@[simp] theorem State.charge_free (s : State) (c d n : Nat) : (s.charge c d n).free = s.free := rfl
@[simp] theorem State.charge_uid (s : State) (c d n : Nat) : (s.charge c d n).uid = s.uid := rfl
@[simp] theorem State.charge_nextQuad (s : State) (c d n : Nat) : (s.charge c d n).nextQuad = s.nextQuad := rfl
@[simp] theorem State.charge_log (s : State) (c d n : Nat) : (s.charge c d n).log = s.log := rfl
@[simp] theorem State.charge_clock (s : State) (c d n : Nat) : (s.charge c d n).clock = s.clock := rfl
@[simp] theorem State.charge_mem (s : State) (c d n : Nat) : (s.charge c d n).mem = s.mem := rfl
@[simp] theorem State.charge_badPages (s : State) (c d n : Nat) : (s.charge c d n).badPages = s.badPages := rfl
@[simp] theorem State.charge_teams (s : State) (c d n : Nat) : (s.charge c d n).teams = s.teams := rfl
@[simp] theorem State.charge_clusters (s : State) (c d n : Nat) : (s.charge c d n).clusters = s.clusters := rfl
@[simp] theorem State.charge_dies (s : State) (c d n : Nat) : (s.charge c d n).dies = s.dies := rfl
@[simp] theorem State.charge_gov (s : State) (c d n : Nat) : (s.charge c d n).gov = s.gov := rfl
@[simp] theorem State.charge_mgmt (s : State) (c d n : Nat) : (s.charge c d n).mgmt = s.mgmt := rfl
@[simp] theorem State.charge_reports (s : State) (c d n : Nat) : (s.charge c d n).reports = s.reports := rfl
@[simp] theorem State.tick_agenda (s : State) (n : Nat) : (s.tick n).agenda = s.agenda := rfl
@[simp] theorem State.tick_soft (s : State) (n : Nat) : (s.tick n).soft = s.soft := rfl
@[simp] theorem State.tick_focus (s : State) (n : Nat) : (s.tick n).focus = s.focus := rfl
@[simp] theorem State.tick_uid (s : State) (n : Nat) : (s.tick n).uid = s.uid := rfl
@[simp] theorem State.tick_nextQuad (s : State) (n : Nat) : (s.tick n).nextQuad = s.nextQuad := rfl
@[simp] theorem State.tick_log (s : State) (n : Nat) : (s.tick n).log = s.log := rfl
@[simp] theorem State.tick_mem (s : State) (n : Nat) : (s.tick n).mem = s.mem := rfl
@[simp] theorem State.tick_badPages (s : State) (n : Nat) : (s.tick n).badPages = s.badPages := rfl
@[simp] theorem State.tick_teams (s : State) (n : Nat) : (s.tick n).teams = s.teams := rfl
@[simp] theorem State.tick_cores (s : State) (n : Nat) : (s.tick n).cores = s.cores := rfl
@[simp] theorem State.tick_clusters (s : State) (n : Nat) : (s.tick n).clusters = s.clusters := rfl
@[simp] theorem State.tick_dies (s : State) (n : Nat) : (s.tick n).dies = s.dies := rfl
@[simp] theorem State.tick_gov (s : State) (n : Nat) : (s.tick n).gov = s.gov := rfl
@[simp] theorem State.tick_mgmt (s : State) (n : Nat) : (s.tick n).mgmt = s.mgmt := rfl
@[simp] theorem State.tick_reports (s : State) (n : Nat) : (s.tick n).reports = s.reports := rfl
@[simp] theorem State.burstTime_agenda (s : State) (t : Team) (ac gap : Nat) : (burstTime s t ac gap).agenda = s.agenda := rfl
@[simp] theorem State.burstTime_soft (s : State) (t : Team) (ac gap : Nat) : (burstTime s t ac gap).soft = s.soft := rfl
@[simp] theorem State.burstTime_focus (s : State) (t : Team) (ac gap : Nat) : (burstTime s t ac gap).focus = s.focus := rfl
@[simp] theorem State.burstTime_uid (s : State) (t : Team) (ac gap : Nat) : (burstTime s t ac gap).uid = s.uid := rfl
@[simp] theorem State.burstTime_nextQuad (s : State) (t : Team) (ac gap : Nat) : (burstTime s t ac gap).nextQuad = s.nextQuad := rfl
@[simp] theorem State.burstTime_log (s : State) (t : Team) (ac gap : Nat) : (burstTime s t ac gap).log = s.log := rfl
@[simp] theorem State.burstTime_mem (s : State) (t : Team) (ac gap : Nat) : (burstTime s t ac gap).mem = s.mem := rfl
@[simp] theorem State.burstTime_badPages (s : State) (t : Team) (ac gap : Nat) : (burstTime s t ac gap).badPages = s.badPages := rfl
@[simp] theorem State.burstTime_clusters (s : State) (t : Team) (ac gap : Nat) : (burstTime s t ac gap).clusters = s.clusters := rfl
@[simp] theorem State.burstTime_dies (s : State) (t : Team) (ac gap : Nat) : (burstTime s t ac gap).dies = s.dies := rfl
@[simp] theorem State.burstTime_gov (s : State) (t : Team) (ac gap : Nat) : (burstTime s t ac gap).gov = s.gov := rfl
@[simp] theorem State.burstTime_mgmt (s : State) (t : Team) (ac gap : Nat) : (burstTime s t ac gap).mgmt = s.mgmt := rfl
@[simp] theorem State.burstTime_reports (s : State) (t : Team) (ac gap : Nat) : (burstTime s t ac gap).reports = s.reports := rfl
@[simp] theorem State.report_agenda (s : State) (tid code src : Nat) (a : DWord) (dc : Nat) : (s.report tid code src a dc).agenda = s.agenda := rfl
@[simp] theorem State.report_soft (s : State) (tid code src : Nat) (a : DWord) (dc : Nat) : (s.report tid code src a dc).soft = s.soft := rfl
@[simp] theorem State.report_focus (s : State) (tid code src : Nat) (a : DWord) (dc : Nat) : (s.report tid code src a dc).focus = s.focus := rfl
@[simp] theorem State.report_free (s : State) (tid code src : Nat) (a : DWord) (dc : Nat) : (s.report tid code src a dc).free = s.free := rfl
@[simp] theorem State.report_uid (s : State) (tid code src : Nat) (a : DWord) (dc : Nat) : (s.report tid code src a dc).uid = s.uid := rfl
@[simp] theorem State.report_nextQuad (s : State) (tid code src : Nat) (a : DWord) (dc : Nat) : (s.report tid code src a dc).nextQuad = s.nextQuad := rfl
@[simp] theorem State.report_log (s : State) (tid code src : Nat) (a : DWord) (dc : Nat) : (s.report tid code src a dc).log = s.log := rfl
@[simp] theorem State.report_clock (s : State) (tid code src : Nat) (a : DWord) (dc : Nat) : (s.report tid code src a dc).clock = s.clock := rfl
@[simp] theorem State.report_mem (s : State) (tid code src : Nat) (a : DWord) (dc : Nat) : (s.report tid code src a dc).mem = s.mem := rfl
@[simp] theorem State.report_badPages (s : State) (tid code src : Nat) (a : DWord) (dc : Nat) : (s.report tid code src a dc).badPages = s.badPages := rfl
@[simp] theorem State.report_teams (s : State) (tid code src : Nat) (a : DWord) (dc : Nat) : (s.report tid code src a dc).teams = s.teams := rfl
@[simp] theorem State.report_cores (s : State) (tid code src : Nat) (a : DWord) (dc : Nat) : (s.report tid code src a dc).cores = s.cores := rfl
@[simp] theorem State.report_clusters (s : State) (tid code src : Nat) (a : DWord) (dc : Nat) : (s.report tid code src a dc).clusters = s.clusters := rfl
@[simp] theorem State.report_dies (s : State) (tid code src : Nat) (a : DWord) (dc : Nat) : (s.report tid code src a dc).dies = s.dies := rfl
@[simp] theorem State.report_gov (s : State) (tid code src : Nat) (a : DWord) (dc : Nat) : (s.report tid code src a dc).gov = s.gov := rfl
@[simp] theorem State.report_mgmt (s : State) (tid code src : Nat) (a : DWord) (dc : Nat) : (s.report tid code src a dc).mgmt = s.mgmt := rfl
@[simp] theorem State.wakeIf_agenda (s : State) (sp line cause : Nat) (p : Team → Bool) : (wakeIf s sp line cause p).agenda = s.agenda := rfl
@[simp] theorem State.wakeIf_soft (s : State) (sp line cause : Nat) (p : Team → Bool) : (wakeIf s sp line cause p).soft = s.soft := rfl
@[simp] theorem State.wakeIf_focus (s : State) (sp line cause : Nat) (p : Team → Bool) : (wakeIf s sp line cause p).focus = s.focus := rfl
@[simp] theorem State.wakeIf_free (s : State) (sp line cause : Nat) (p : Team → Bool) : (wakeIf s sp line cause p).free = s.free := rfl
@[simp] theorem State.wakeIf_uid (s : State) (sp line cause : Nat) (p : Team → Bool) : (wakeIf s sp line cause p).uid = s.uid := rfl
@[simp] theorem State.wakeIf_nextQuad (s : State) (sp line cause : Nat) (p : Team → Bool) : (wakeIf s sp line cause p).nextQuad = s.nextQuad := rfl
@[simp] theorem State.wakeIf_log (s : State) (sp line cause : Nat) (p : Team → Bool) : (wakeIf s sp line cause p).log = s.log := rfl
@[simp] theorem State.wakeIf_clock (s : State) (sp line cause : Nat) (p : Team → Bool) : (wakeIf s sp line cause p).clock = s.clock := rfl
@[simp] theorem State.wakeIf_mem (s : State) (sp line cause : Nat) (p : Team → Bool) : (wakeIf s sp line cause p).mem = s.mem := rfl
@[simp] theorem State.wakeIf_badPages (s : State) (sp line cause : Nat) (p : Team → Bool) : (wakeIf s sp line cause p).badPages = s.badPages := rfl
@[simp] theorem State.wakeIf_cores (s : State) (sp line cause : Nat) (p : Team → Bool) : (wakeIf s sp line cause p).cores = s.cores := rfl
@[simp] theorem State.wakeIf_clusters (s : State) (sp line cause : Nat) (p : Team → Bool) : (wakeIf s sp line cause p).clusters = s.clusters := rfl
@[simp] theorem State.wakeIf_dies (s : State) (sp line cause : Nat) (p : Team → Bool) : (wakeIf s sp line cause p).dies = s.dies := rfl
@[simp] theorem State.wakeIf_gov (s : State) (sp line cause : Nat) (p : Team → Bool) : (wakeIf s sp line cause p).gov = s.gov := rfl
@[simp] theorem State.wakeIf_mgmt (s : State) (sp line cause : Nat) (p : Team → Bool) : (wakeIf s sp line cause p).mgmt = s.mgmt := rfl
@[simp] theorem State.wakeIf_reports (s : State) (sp line cause : Nat) (p : Team → Bool) : (wakeIf s sp line cause p).reports = s.reports := rfl
@[simp] theorem State.opDone_agenda (s : State) (tid uid : Nat) : (s.opDone tid uid).agenda = s.agenda := by unfold State.opDone; split <;> rfl
@[simp] theorem State.opDone_soft (s : State) (tid uid : Nat) : (s.opDone tid uid).soft = s.soft := by unfold State.opDone; split <;> rfl
@[simp] theorem State.opDone_focus (s : State) (tid uid : Nat) : (s.opDone tid uid).focus = s.focus := by unfold State.opDone; split <;> rfl
@[simp] theorem State.opDone_free (s : State) (tid uid : Nat) : (s.opDone tid uid).free = s.free := by unfold State.opDone; split <;> rfl
@[simp] theorem State.opDone_uid (s : State) (tid uid : Nat) : (s.opDone tid uid).uid = s.uid := by unfold State.opDone; split <;> rfl
@[simp] theorem State.opDone_nextQuad (s : State) (tid uid : Nat) : (s.opDone tid uid).nextQuad = s.nextQuad := by unfold State.opDone; split <;> rfl
@[simp] theorem State.opDone_log (s : State) (tid uid : Nat) : (s.opDone tid uid).log = s.log := by unfold State.opDone; split <;> rfl
@[simp] theorem State.opDone_clock (s : State) (tid uid : Nat) : (s.opDone tid uid).clock = s.clock := by unfold State.opDone; split <;> rfl
@[simp] theorem State.opDone_mem (s : State) (tid uid : Nat) : (s.opDone tid uid).mem = s.mem := by unfold State.opDone; split <;> rfl
@[simp] theorem State.opDone_badPages (s : State) (tid uid : Nat) : (s.opDone tid uid).badPages = s.badPages := by unfold State.opDone; split <;> rfl
@[simp] theorem State.opDone_cores (s : State) (tid uid : Nat) : (s.opDone tid uid).cores = s.cores := by unfold State.opDone; split <;> rfl
@[simp] theorem State.opDone_clusters (s : State) (tid uid : Nat) : (s.opDone tid uid).clusters = s.clusters := by unfold State.opDone; split <;> rfl
@[simp] theorem State.opDone_dies (s : State) (tid uid : Nat) : (s.opDone tid uid).dies = s.dies := by unfold State.opDone; split <;> rfl
@[simp] theorem State.opDone_gov (s : State) (tid uid : Nat) : (s.opDone tid uid).gov = s.gov := by unfold State.opDone; split <;> rfl
@[simp] theorem State.opDone_mgmt (s : State) (tid uid : Nat) : (s.opDone tid uid).mgmt = s.mgmt := by unfold State.opDone; split <;> rfl
@[simp] theorem State.opDone_reports (s : State) (tid uid : Nat) : (s.opDone tid uid).reports = s.reports := by unfold State.opDone; split <;> rfl
@[simp] theorem State.mapCopies_agenda (s : State) (c : Nat) (f : Copy → Copy) : (mapCopies s c f).agenda = s.agenda := rfl
@[simp] theorem State.mapCopies_soft (s : State) (c : Nat) (f : Copy → Copy) : (mapCopies s c f).soft = s.soft := rfl
@[simp] theorem State.mapCopies_focus (s : State) (c : Nat) (f : Copy → Copy) : (mapCopies s c f).focus = s.focus := rfl
@[simp] theorem State.mapCopies_free (s : State) (c : Nat) (f : Copy → Copy) : (mapCopies s c f).free = s.free := rfl
@[simp] theorem State.mapCopies_uid (s : State) (c : Nat) (f : Copy → Copy) : (mapCopies s c f).uid = s.uid := rfl
@[simp] theorem State.mapCopies_nextQuad (s : State) (c : Nat) (f : Copy → Copy) : (mapCopies s c f).nextQuad = s.nextQuad := rfl
@[simp] theorem State.mapCopies_log (s : State) (c : Nat) (f : Copy → Copy) : (mapCopies s c f).log = s.log := rfl
@[simp] theorem State.mapCopies_clock (s : State) (c : Nat) (f : Copy → Copy) : (mapCopies s c f).clock = s.clock := rfl
@[simp] theorem State.mapCopies_mem (s : State) (c : Nat) (f : Copy → Copy) : (mapCopies s c f).mem = s.mem := rfl
@[simp] theorem State.mapCopies_badPages (s : State) (c : Nat) (f : Copy → Copy) : (mapCopies s c f).badPages = s.badPages := rfl
@[simp] theorem State.mapCopies_teams (s : State) (c : Nat) (f : Copy → Copy) : (mapCopies s c f).teams = s.teams := rfl
@[simp] theorem State.mapCopies_clusters (s : State) (c : Nat) (f : Copy → Copy) : (mapCopies s c f).clusters = s.clusters := rfl
@[simp] theorem State.mapCopies_dies (s : State) (c : Nat) (f : Copy → Copy) : (mapCopies s c f).dies = s.dies := rfl
@[simp] theorem State.mapCopies_gov (s : State) (c : Nat) (f : Copy → Copy) : (mapCopies s c f).gov = s.gov := rfl
@[simp] theorem State.mapCopies_mgmt (s : State) (c : Nat) (f : Copy → Copy) : (mapCopies s c f).mgmt = s.mgmt := rfl
@[simp] theorem State.mapCopies_reports (s : State) (c : Nat) (f : Copy → Copy) : (mapCopies s c f).reports = s.reports := rfl
@[simp] theorem State.cancelAtEnd_agenda (s : State) (t : Team) : (cancelAtEnd s t).agenda = s.agenda := rfl
@[simp] theorem State.cancelAtEnd_soft (s : State) (t : Team) : (cancelAtEnd s t).soft = s.soft := rfl
@[simp] theorem State.cancelAtEnd_focus (s : State) (t : Team) : (cancelAtEnd s t).focus = s.focus := rfl
@[simp] theorem State.cancelAtEnd_free (s : State) (t : Team) : (cancelAtEnd s t).free = s.free := rfl
@[simp] theorem State.cancelAtEnd_uid (s : State) (t : Team) : (cancelAtEnd s t).uid = s.uid := rfl
@[simp] theorem State.cancelAtEnd_nextQuad (s : State) (t : Team) : (cancelAtEnd s t).nextQuad = s.nextQuad := rfl
@[simp] theorem State.cancelAtEnd_log (s : State) (t : Team) : (cancelAtEnd s t).log = s.log := rfl
@[simp] theorem State.cancelAtEnd_clock (s : State) (t : Team) : (cancelAtEnd s t).clock = s.clock := rfl
@[simp] theorem State.cancelAtEnd_mem (s : State) (t : Team) : (cancelAtEnd s t).mem = s.mem := rfl
@[simp] theorem State.cancelAtEnd_badPages (s : State) (t : Team) : (cancelAtEnd s t).badPages = s.badPages := rfl
@[simp] theorem State.cancelAtEnd_teams (s : State) (t : Team) : (cancelAtEnd s t).teams = s.teams := rfl
@[simp] theorem State.cancelAtEnd_clusters (s : State) (t : Team) : (cancelAtEnd s t).clusters = s.clusters := rfl
@[simp] theorem State.cancelAtEnd_dies (s : State) (t : Team) : (cancelAtEnd s t).dies = s.dies := rfl
@[simp] theorem State.cancelAtEnd_gov (s : State) (t : Team) : (cancelAtEnd s t).gov = s.gov := rfl
@[simp] theorem State.cancelAtEnd_mgmt (s : State) (t : Team) : (cancelAtEnd s t).mgmt = s.mgmt := rfl
@[simp] theorem State.cancelAtEnd_reports (s : State) (t : Team) : (cancelAtEnd s t).reports = s.reports := rfl
@[simp] theorem Team.sset_tid (t : Team) (r : Nat) (e : Elem) : (t.sset r e).tid = t.tid := rfl
@[simp] theorem Team.sset_place (t : Team) (r : Nat) (e : Elem) : (t.sset r e).place = t.place := rfl
@[simp] theorem Team.sset_foot (t : Team) (r : Nat) (e : Elem) : (t.sset r e).foot = t.foot := rfl
@[simp] theorem Team.sset_grans (t : Team) (r : Nat) (e : Elem) : (t.sset r e).grans = t.grans := rfl
@[simp] theorem Team.sset_stamp (t : Team) (r : Nat) (e : Elem) : (t.sset r e).stamp = t.stamp := rfl
@[simp] theorem Team.sset_flow (t : Team) (r : Nat) (e : Elem) : (t.sset r e).flow = t.flow := rfl
@[simp] theorem Team.sset_schk (t : Team) (r : Nat) (e : Elem) : (t.sset r e).schk = t.schk := rfl
@[simp] theorem Team.sset_trap (t : Team) (r : Nat) (e : Elem) : (t.sset r e).trap = t.trap := rfl
@[simp] theorem Team.sset_region (t : Team) (r : Nat) (e : Elem) : (t.sset r e).region = t.region := rfl
@[simp] theorem Team.sset_gate (t : Team) (r : Nat) (e : Elem) : (t.sset r e).gate = t.gate := rfl
@[simp] theorem Team.sset_gcause (t : Team) (r : Nat) (e : Elem) : (t.sset r e).gcause = t.gcause := rfl
@[simp] theorem Team.sset_ops (t : Team) (r : Nat) (e : Elem) : (t.sset r e).ops = t.ops := rfl
@[simp] theorem Team.sset_sync (t : Team) (r : Nat) (e : Elem) : (t.sset r e).sync = t.sync := rfl
@[simp] theorem Team.sset_sched (t : Team) (r : Nat) (e : Elem) : (t.sset r e).sched = t.sched := rfl
@[simp] theorem Team.sset_graft (t : Team) (r : Nat) (e : Elem) : (t.sset r e).graft = t.graft := rfl
@[simp] theorem Team.sset_mat (t : Team) (r : Nat) (e : Elem) : (t.sset r e).mat = t.mat := rfl
@[simp] theorem Team.sset_line (t : Team) (r : Nat) (e : Elem) : (t.sset r e).line = t.line := rfl
@[simp] theorem Team.xset_tid (t : Team) (r : Nat) (x : DWord) (p : Bool) : (t.xset r x p).tid = t.tid := rfl
@[simp] theorem Team.xset_place (t : Team) (r : Nat) (x : DWord) (p : Bool) : (t.xset r x p).place = t.place := rfl
@[simp] theorem Team.xset_foot (t : Team) (r : Nat) (x : DWord) (p : Bool) : (t.xset r x p).foot = t.foot := rfl
@[simp] theorem Team.xset_grans (t : Team) (r : Nat) (x : DWord) (p : Bool) : (t.xset r x p).grans = t.grans := rfl
@[simp] theorem Team.xset_stamp (t : Team) (r : Nat) (x : DWord) (p : Bool) : (t.xset r x p).stamp = t.stamp := rfl
@[simp] theorem Team.xset_flow (t : Team) (r : Nat) (x : DWord) (p : Bool) : (t.xset r x p).flow = t.flow := rfl
@[simp] theorem Team.xset_schk (t : Team) (r : Nat) (x : DWord) (p : Bool) : (t.xset r x p).schk = t.schk := rfl
@[simp] theorem Team.xset_trap (t : Team) (r : Nat) (x : DWord) (p : Bool) : (t.xset r x p).trap = t.trap := rfl
@[simp] theorem Team.xset_region (t : Team) (r : Nat) (x : DWord) (p : Bool) : (t.xset r x p).region = t.region := rfl
@[simp] theorem Team.xset_gate (t : Team) (r : Nat) (x : DWord) (p : Bool) : (t.xset r x p).gate = t.gate := rfl
@[simp] theorem Team.xset_gcause (t : Team) (r : Nat) (x : DWord) (p : Bool) : (t.xset r x p).gcause = t.gcause := rfl
@[simp] theorem Team.xset_ops (t : Team) (r : Nat) (x : DWord) (p : Bool) : (t.xset r x p).ops = t.ops := rfl
@[simp] theorem Team.xset_sync (t : Team) (r : Nat) (x : DWord) (p : Bool) : (t.xset r x p).sync = t.sync := rfl
@[simp] theorem Team.xset_sched (t : Team) (r : Nat) (x : DWord) (p : Bool) : (t.xset r x p).sched = t.sched := rfl
@[simp] theorem Team.xset_graft (t : Team) (r : Nat) (x : DWord) (p : Bool) : (t.xset r x p).graft = t.graft := rfl
@[simp] theorem Team.xset_mat (t : Team) (r : Nat) (x : DWord) (p : Bool) : (t.xset r x p).mat = t.mat := rfl
@[simp] theorem Team.xset_line (t : Team) (r : Nat) (x : DWord) (p : Bool) : (t.xset r x p).line = t.line := rfl
@[simp] theorem Team.vset_tid (t : Team) (r row : Nat) (e : Elem) : (t.vset r row e).tid = t.tid := rfl
@[simp] theorem Team.vset_place (t : Team) (r row : Nat) (e : Elem) : (t.vset r row e).place = t.place := rfl
@[simp] theorem Team.vset_foot (t : Team) (r row : Nat) (e : Elem) : (t.vset r row e).foot = t.foot := rfl
@[simp] theorem Team.vset_grans (t : Team) (r row : Nat) (e : Elem) : (t.vset r row e).grans = t.grans := rfl
@[simp] theorem Team.vset_stamp (t : Team) (r row : Nat) (e : Elem) : (t.vset r row e).stamp = t.stamp := rfl
@[simp] theorem Team.vset_flow (t : Team) (r row : Nat) (e : Elem) : (t.vset r row e).flow = t.flow := rfl
@[simp] theorem Team.vset_schk (t : Team) (r row : Nat) (e : Elem) : (t.vset r row e).schk = t.schk := rfl
@[simp] theorem Team.vset_trap (t : Team) (r row : Nat) (e : Elem) : (t.vset r row e).trap = t.trap := rfl
@[simp] theorem Team.vset_region (t : Team) (r row : Nat) (e : Elem) : (t.vset r row e).region = t.region := rfl
@[simp] theorem Team.vset_gate (t : Team) (r row : Nat) (e : Elem) : (t.vset r row e).gate = t.gate := rfl
@[simp] theorem Team.vset_gcause (t : Team) (r row : Nat) (e : Elem) : (t.vset r row e).gcause = t.gcause := rfl
@[simp] theorem Team.vset_ops (t : Team) (r row : Nat) (e : Elem) : (t.vset r row e).ops = t.ops := rfl
@[simp] theorem Team.vset_sync (t : Team) (r row : Nat) (e : Elem) : (t.vset r row e).sync = t.sync := rfl
@[simp] theorem Team.vset_sched (t : Team) (r row : Nat) (e : Elem) : (t.vset r row e).sched = t.sched := rfl
@[simp] theorem Team.vset_graft (t : Team) (r row : Nat) (e : Elem) : (t.vset r row e).graft = t.graft := rfl
@[simp] theorem Team.vset_mat (t : Team) (r row : Nat) (e : Elem) : (t.vset r row e).mat = t.mat := rfl
@[simp] theorem Team.vset_line (t : Team) (r row : Nat) (e : Elem) : (t.vset r row e).line = t.line := rfl
@[simp] theorem Team.qset_tid (t : Team) (i : Nat) (b : Bool) : (t.qset i b).tid = t.tid := by unfold Team.qset; split <;> rfl
@[simp] theorem Team.qset_place (t : Team) (i : Nat) (b : Bool) : (t.qset i b).place = t.place := by unfold Team.qset; split <;> rfl
@[simp] theorem Team.qset_foot (t : Team) (i : Nat) (b : Bool) : (t.qset i b).foot = t.foot := by unfold Team.qset; split <;> rfl
@[simp] theorem Team.qset_grans (t : Team) (i : Nat) (b : Bool) : (t.qset i b).grans = t.grans := by unfold Team.qset; split <;> rfl
@[simp] theorem Team.qset_stamp (t : Team) (i : Nat) (b : Bool) : (t.qset i b).stamp = t.stamp := by unfold Team.qset; split <;> rfl
@[simp] theorem Team.qset_flow (t : Team) (i : Nat) (b : Bool) : (t.qset i b).flow = t.flow := by unfold Team.qset; split <;> rfl
@[simp] theorem Team.qset_schk (t : Team) (i : Nat) (b : Bool) : (t.qset i b).schk = t.schk := by unfold Team.qset; split <;> rfl
@[simp] theorem Team.qset_trap (t : Team) (i : Nat) (b : Bool) : (t.qset i b).trap = t.trap := by unfold Team.qset; split <;> rfl
@[simp] theorem Team.qset_region (t : Team) (i : Nat) (b : Bool) : (t.qset i b).region = t.region := by unfold Team.qset; split <;> rfl
@[simp] theorem Team.qset_gate (t : Team) (i : Nat) (b : Bool) : (t.qset i b).gate = t.gate := by unfold Team.qset; split <;> rfl
@[simp] theorem Team.qset_gcause (t : Team) (i : Nat) (b : Bool) : (t.qset i b).gcause = t.gcause := by unfold Team.qset; split <;> rfl
@[simp] theorem Team.qset_ops (t : Team) (i : Nat) (b : Bool) : (t.qset i b).ops = t.ops := by unfold Team.qset; split <;> rfl
@[simp] theorem Team.qset_sync (t : Team) (i : Nat) (b : Bool) : (t.qset i b).sync = t.sync := by unfold Team.qset; split <;> rfl
@[simp] theorem Team.qset_sched (t : Team) (i : Nat) (b : Bool) : (t.qset i b).sched = t.sched := by unfold Team.qset; split <;> rfl
@[simp] theorem Team.qset_graft (t : Team) (i : Nat) (b : Bool) : (t.qset i b).graft = t.graft := by unfold Team.qset; split <;> rfl
@[simp] theorem Team.qset_mat (t : Team) (i : Nat) (b : Bool) : (t.qset i b).mat = t.mat := by unfold Team.qset; split <;> rfl
@[simp] theorem Team.qset_line (t : Team) (i : Nat) (b : Bool) : (t.qset i b).line = t.line := by unfold Team.qset; split <;> rfl
@[simp] theorem Team.pset_tid (t : Team) (i : Nat) (m v : RowMask) : (t.pset i m v).tid = t.tid := by unfold Team.pset; split <;> rfl
@[simp] theorem Team.pset_place (t : Team) (i : Nat) (m v : RowMask) : (t.pset i m v).place = t.place := by unfold Team.pset; split <;> rfl
@[simp] theorem Team.pset_foot (t : Team) (i : Nat) (m v : RowMask) : (t.pset i m v).foot = t.foot := by unfold Team.pset; split <;> rfl
@[simp] theorem Team.pset_grans (t : Team) (i : Nat) (m v : RowMask) : (t.pset i m v).grans = t.grans := by unfold Team.pset; split <;> rfl
@[simp] theorem Team.pset_stamp (t : Team) (i : Nat) (m v : RowMask) : (t.pset i m v).stamp = t.stamp := by unfold Team.pset; split <;> rfl
@[simp] theorem Team.pset_flow (t : Team) (i : Nat) (m v : RowMask) : (t.pset i m v).flow = t.flow := by unfold Team.pset; split <;> rfl
@[simp] theorem Team.pset_schk (t : Team) (i : Nat) (m v : RowMask) : (t.pset i m v).schk = t.schk := by unfold Team.pset; split <;> rfl
@[simp] theorem Team.pset_trap (t : Team) (i : Nat) (m v : RowMask) : (t.pset i m v).trap = t.trap := by unfold Team.pset; split <;> rfl
@[simp] theorem Team.pset_region (t : Team) (i : Nat) (m v : RowMask) : (t.pset i m v).region = t.region := by unfold Team.pset; split <;> rfl
@[simp] theorem Team.pset_gate (t : Team) (i : Nat) (m v : RowMask) : (t.pset i m v).gate = t.gate := by unfold Team.pset; split <;> rfl
@[simp] theorem Team.pset_gcause (t : Team) (i : Nat) (m v : RowMask) : (t.pset i m v).gcause = t.gcause := by unfold Team.pset; split <;> rfl
@[simp] theorem Team.pset_ops (t : Team) (i : Nat) (m v : RowMask) : (t.pset i m v).ops = t.ops := by unfold Team.pset; split <;> rfl
@[simp] theorem Team.pset_sync (t : Team) (i : Nat) (m v : RowMask) : (t.pset i m v).sync = t.sync := by unfold Team.pset; split <;> rfl
@[simp] theorem Team.pset_sched (t : Team) (i : Nat) (m v : RowMask) : (t.pset i m v).sched = t.sched := by unfold Team.pset; split <;> rfl
@[simp] theorem Team.pset_graft (t : Team) (i : Nat) (m v : RowMask) : (t.pset i m v).graft = t.graft := by unfold Team.pset; split <;> rfl
@[simp] theorem Team.pset_mat (t : Team) (i : Nat) (m v : RowMask) : (t.pset i m v).mat = t.mat := by unfold Team.pset; split <;> rfl
@[simp] theorem Team.pset_line (t : Team) (i : Nat) (m v : RowMask) : (t.pset i m v).line = t.line := by unfold Team.pset; split <;> rfl
@[simp] theorem Team.setPc_tid (t : Team) (p : Pc) : (t.setPc p).tid = t.tid := rfl
@[simp] theorem Team.setPc_place (t : Team) (p : Pc) : (t.setPc p).place = t.place := rfl
@[simp] theorem Team.setPc_foot (t : Team) (p : Pc) : (t.setPc p).foot = t.foot := rfl
@[simp] theorem Team.setPc_grans (t : Team) (p : Pc) : (t.setPc p).grans = t.grans := rfl
@[simp] theorem Team.setPc_stamp (t : Team) (p : Pc) : (t.setPc p).stamp = t.stamp := rfl
@[simp] theorem Team.setPc_regs (t : Team) (p : Pc) : (t.setPc p).regs = t.regs := rfl
@[simp] theorem Team.setPc_schk (t : Team) (p : Pc) : (t.setPc p).schk = t.schk := rfl
@[simp] theorem Team.setPc_trap (t : Team) (p : Pc) : (t.setPc p).trap = t.trap := rfl
@[simp] theorem Team.setPc_region (t : Team) (p : Pc) : (t.setPc p).region = t.region := rfl
@[simp] theorem Team.setPc_gate (t : Team) (p : Pc) : (t.setPc p).gate = t.gate := rfl
@[simp] theorem Team.setPc_gcause (t : Team) (p : Pc) : (t.setPc p).gcause = t.gcause := rfl
@[simp] theorem Team.setPc_ops (t : Team) (p : Pc) : (t.setPc p).ops = t.ops := rfl
@[simp] theorem Team.setPc_sync (t : Team) (p : Pc) : (t.setPc p).sync = t.sync := rfl
@[simp] theorem Team.setPc_sched (t : Team) (p : Pc) : (t.setPc p).sched = t.sched := rfl
@[simp] theorem Team.setPc_graft (t : Team) (p : Pc) : (t.setPc p).graft = t.graft := rfl
@[simp] theorem Team.setPc_mat (t : Team) (p : Pc) : (t.setPc p).mat = t.mat := rfl
@[simp] theorem Team.setPc_line (t : Team) (p : Pc) : (t.setPc p).line = t.line := rfl
@[simp] theorem Team.settle_tid (t : Team) : (t.settle).tid = t.tid := rfl
@[simp] theorem Team.settle_place (t : Team) : (t.settle).place = t.place := rfl
@[simp] theorem Team.settle_foot (t : Team) : (t.settle).foot = t.foot := rfl
@[simp] theorem Team.settle_grans (t : Team) : (t.settle).grans = t.grans := rfl
@[simp] theorem Team.settle_stamp (t : Team) : (t.settle).stamp = t.stamp := rfl
@[simp] theorem Team.settle_regs (t : Team) : (t.settle).regs = t.regs := rfl
@[simp] theorem Team.settle_flow (t : Team) : (t.settle).flow = t.flow := rfl
@[simp] theorem Team.settle_schk (t : Team) : (t.settle).schk = t.schk := rfl
@[simp] theorem Team.settle_trap (t : Team) : (t.settle).trap = t.trap := rfl
@[simp] theorem Team.settle_region (t : Team) : (t.settle).region = t.region := rfl
@[simp] theorem Team.settle_gate (t : Team) : (t.settle).gate = t.gate := rfl
@[simp] theorem Team.settle_gcause (t : Team) : (t.settle).gcause = t.gcause := rfl
@[simp] theorem Team.settle_ops (t : Team) : (t.settle).ops = t.ops := rfl
@[simp] theorem Team.settle_sync (t : Team) : (t.settle).sync = t.sync := rfl
@[simp] theorem Team.settle_graft (t : Team) : (t.settle).graft = t.graft := rfl
@[simp] theorem Team.settle_mat (t : Team) : (t.settle).mat = t.mat := rfl
@[simp] theorem Team.settle_line (t : Team) : (t.settle).line = t.line := rfl
@[simp] theorem Team.drainWrites_tid (t : Team) : (t.drainWrites).tid = t.tid := rfl
@[simp] theorem Team.drainWrites_place (t : Team) : (t.drainWrites).place = t.place := rfl
@[simp] theorem Team.drainWrites_foot (t : Team) : (t.drainWrites).foot = t.foot := rfl
@[simp] theorem Team.drainWrites_grans (t : Team) : (t.drainWrites).grans = t.grans := rfl
@[simp] theorem Team.drainWrites_stamp (t : Team) : (t.drainWrites).stamp = t.stamp := rfl
@[simp] theorem Team.drainWrites_regs (t : Team) : (t.drainWrites).regs = t.regs := rfl
@[simp] theorem Team.drainWrites_flow (t : Team) : (t.drainWrites).flow = t.flow := rfl
@[simp] theorem Team.drainWrites_schk (t : Team) : (t.drainWrites).schk = t.schk := rfl
@[simp] theorem Team.drainWrites_trap (t : Team) : (t.drainWrites).trap = t.trap := rfl
@[simp] theorem Team.drainWrites_region (t : Team) : (t.drainWrites).region = t.region := rfl
@[simp] theorem Team.drainWrites_gate (t : Team) : (t.drainWrites).gate = t.gate := rfl
@[simp] theorem Team.drainWrites_gcause (t : Team) : (t.drainWrites).gcause = t.gcause := rfl
@[simp] theorem Team.drainWrites_ops (t : Team) : (t.drainWrites).ops = t.ops := rfl
@[simp] theorem Team.drainWrites_sync (t : Team) : (t.drainWrites).sync = t.sync := rfl
@[simp] theorem Team.drainWrites_graft (t : Team) : (t.drainWrites).graft = t.graft := rfl
@[simp] theorem Team.drainWrites_mat (t : Team) : (t.drainWrites).mat = t.mat := rfl
@[simp] theorem Team.drainWrites_line (t : Team) : (t.drainWrites).line = t.line := rfl
@[simp] theorem Team.awaitRegs_tid (t : Team) (l : List Nat) : (t.awaitRegs l).tid = t.tid := rfl
@[simp] theorem Team.awaitRegs_place (t : Team) (l : List Nat) : (t.awaitRegs l).place = t.place := rfl
@[simp] theorem Team.awaitRegs_foot (t : Team) (l : List Nat) : (t.awaitRegs l).foot = t.foot := rfl
@[simp] theorem Team.awaitRegs_grans (t : Team) (l : List Nat) : (t.awaitRegs l).grans = t.grans := rfl
@[simp] theorem Team.awaitRegs_stamp (t : Team) (l : List Nat) : (t.awaitRegs l).stamp = t.stamp := rfl
@[simp] theorem Team.awaitRegs_regs (t : Team) (l : List Nat) : (t.awaitRegs l).regs = t.regs := rfl
@[simp] theorem Team.awaitRegs_flow (t : Team) (l : List Nat) : (t.awaitRegs l).flow = t.flow := rfl
@[simp] theorem Team.awaitRegs_schk (t : Team) (l : List Nat) : (t.awaitRegs l).schk = t.schk := rfl
@[simp] theorem Team.awaitRegs_trap (t : Team) (l : List Nat) : (t.awaitRegs l).trap = t.trap := rfl
@[simp] theorem Team.awaitRegs_region (t : Team) (l : List Nat) : (t.awaitRegs l).region = t.region := rfl
@[simp] theorem Team.awaitRegs_gate (t : Team) (l : List Nat) : (t.awaitRegs l).gate = t.gate := rfl
@[simp] theorem Team.awaitRegs_gcause (t : Team) (l : List Nat) : (t.awaitRegs l).gcause = t.gcause := rfl
@[simp] theorem Team.awaitRegs_ops (t : Team) (l : List Nat) : (t.awaitRegs l).ops = t.ops := rfl
@[simp] theorem Team.awaitRegs_sync (t : Team) (l : List Nat) : (t.awaitRegs l).sync = t.sync := rfl
@[simp] theorem Team.awaitRegs_graft (t : Team) (l : List Nat) : (t.awaitRegs l).graft = t.graft := rfl
@[simp] theorem Team.awaitRegs_mat (t : Team) (l : List Nat) : (t.awaitRegs l).mat = t.mat := rfl
@[simp] theorem Team.awaitRegs_line (t : Team) (l : List Nat) : (t.awaitRegs l).line = t.line := rfl
@[simp] theorem Team.unhold_tid (t : Team) (ac : Nat) : (t.unhold ac).tid = t.tid := rfl
@[simp] theorem Team.unhold_place (t : Team) (ac : Nat) : (t.unhold ac).place = t.place := rfl
@[simp] theorem Team.unhold_foot (t : Team) (ac : Nat) : (t.unhold ac).foot = t.foot := rfl
@[simp] theorem Team.unhold_grans (t : Team) (ac : Nat) : (t.unhold ac).grans = t.grans := rfl
@[simp] theorem Team.unhold_stamp (t : Team) (ac : Nat) : (t.unhold ac).stamp = t.stamp := rfl
@[simp] theorem Team.unhold_regs (t : Team) (ac : Nat) : (t.unhold ac).regs = t.regs := rfl
@[simp] theorem Team.unhold_flow (t : Team) (ac : Nat) : (t.unhold ac).flow = t.flow := rfl
@[simp] theorem Team.unhold_schk (t : Team) (ac : Nat) : (t.unhold ac).schk = t.schk := rfl
@[simp] theorem Team.unhold_trap (t : Team) (ac : Nat) : (t.unhold ac).trap = t.trap := rfl
@[simp] theorem Team.unhold_region (t : Team) (ac : Nat) : (t.unhold ac).region = t.region := rfl
@[simp] theorem Team.unhold_gate (t : Team) (ac : Nat) : (t.unhold ac).gate = t.gate := rfl
@[simp] theorem Team.unhold_gcause (t : Team) (ac : Nat) : (t.unhold ac).gcause = t.gcause := rfl
@[simp] theorem Team.unhold_ops (t : Team) (ac : Nat) : (t.unhold ac).ops = t.ops := rfl
@[simp] theorem Team.unhold_sync (t : Team) (ac : Nat) : (t.unhold ac).sync = t.sync := rfl
@[simp] theorem Team.unhold_graft (t : Team) (ac : Nat) : (t.unhold ac).graft = t.graft := rfl
@[simp] theorem Team.unhold_mat (t : Team) (ac : Nat) : (t.unhold ac).mat = t.mat := rfl
@[simp] theorem Team.unhold_line (t : Team) (ac : Nat) : (t.unhold ac).line = t.line := rfl
@[simp] theorem Team.overwrite_tid (t : Team) (l : List Nat) : (overwrite t l).tid = t.tid := rfl
@[simp] theorem Team.overwrite_place (t : Team) (l : List Nat) : (overwrite t l).place = t.place := rfl
@[simp] theorem Team.overwrite_foot (t : Team) (l : List Nat) : (overwrite t l).foot = t.foot := rfl
@[simp] theorem Team.overwrite_grans (t : Team) (l : List Nat) : (overwrite t l).grans = t.grans := rfl
@[simp] theorem Team.overwrite_stamp (t : Team) (l : List Nat) : (overwrite t l).stamp = t.stamp := rfl
@[simp] theorem Team.overwrite_regs (t : Team) (l : List Nat) : (overwrite t l).regs = t.regs := rfl
@[simp] theorem Team.overwrite_flow (t : Team) (l : List Nat) : (overwrite t l).flow = t.flow := rfl
@[simp] theorem Team.overwrite_schk (t : Team) (l : List Nat) : (overwrite t l).schk = t.schk := rfl
@[simp] theorem Team.overwrite_trap (t : Team) (l : List Nat) : (overwrite t l).trap = t.trap := rfl
@[simp] theorem Team.overwrite_region (t : Team) (l : List Nat) : (overwrite t l).region = t.region := rfl
@[simp] theorem Team.overwrite_gate (t : Team) (l : List Nat) : (overwrite t l).gate = t.gate := rfl
@[simp] theorem Team.overwrite_gcause (t : Team) (l : List Nat) : (overwrite t l).gcause = t.gcause := rfl
@[simp] theorem Team.overwrite_ops (t : Team) (l : List Nat) : (overwrite t l).ops = t.ops := rfl
@[simp] theorem Team.overwrite_sync (t : Team) (l : List Nat) : (overwrite t l).sync = t.sync := rfl
@[simp] theorem Team.overwrite_graft (t : Team) (l : List Nat) : (overwrite t l).graft = t.graft := rfl
@[simp] theorem Team.overwrite_mat (t : Team) (l : List Nat) : (overwrite t l).mat = t.mat := rfl
@[simp] theorem Team.overwrite_line (t : Team) (l : List Nat) : (overwrite t l).line = t.line := rfl
@[simp] theorem Team.runs_tid (t : Team) (clock ac gap : Nat) : (t.runs clock ac gap).tid = t.tid := rfl
@[simp] theorem Team.runs_place (t : Team) (clock ac gap : Nat) : (t.runs clock ac gap).place = t.place := rfl
@[simp] theorem Team.runs_foot (t : Team) (clock ac gap : Nat) : (t.runs clock ac gap).foot = t.foot := rfl
@[simp] theorem Team.runs_grans (t : Team) (clock ac gap : Nat) : (t.runs clock ac gap).grans = t.grans := rfl
@[simp] theorem Team.runs_stamp (t : Team) (clock ac gap : Nat) : (t.runs clock ac gap).stamp = t.stamp := rfl
@[simp] theorem Team.runs_regs (t : Team) (clock ac gap : Nat) : (t.runs clock ac gap).regs = t.regs := rfl
@[simp] theorem Team.runs_flow (t : Team) (clock ac gap : Nat) : (t.runs clock ac gap).flow = t.flow := rfl
@[simp] theorem Team.runs_schk (t : Team) (clock ac gap : Nat) : (t.runs clock ac gap).schk = t.schk := rfl
@[simp] theorem Team.runs_trap (t : Team) (clock ac gap : Nat) : (t.runs clock ac gap).trap = t.trap := rfl
@[simp] theorem Team.runs_region (t : Team) (clock ac gap : Nat) : (t.runs clock ac gap).region = t.region := rfl
@[simp] theorem Team.runs_gate (t : Team) (clock ac gap : Nat) : (t.runs clock ac gap).gate = t.gate := rfl
@[simp] theorem Team.runs_gcause (t : Team) (clock ac gap : Nat) : (t.runs clock ac gap).gcause = t.gcause := rfl
@[simp] theorem Team.runs_ops (t : Team) (clock ac gap : Nat) : (t.runs clock ac gap).ops = t.ops := rfl
@[simp] theorem Team.runs_sync (t : Team) (clock ac gap : Nat) : (t.runs clock ac gap).sync = t.sync := rfl
@[simp] theorem Team.runs_graft (t : Team) (clock ac gap : Nat) : (t.runs clock ac gap).graft = t.graft := rfl
@[simp] theorem Team.runs_mat (t : Team) (clock ac gap : Nat) : (t.runs clock ac gap).mat = t.mat := rfl
@[simp] theorem Team.runs_line (t : Team) (clock ac gap : Nat) : (t.runs clock ac gap).line = t.line := rfl

end Sys2Proof.Machine
end

