-- ==== Sys2Proof/Laws/Memory.lean ====
section
/-! SUPPORT. The canonical form of memory: every operation keeps it, a read gives what was written last, a write leaves every other byte alone, and equal contents are equal data. -/

namespace Sys2Proof.Machine

/-! ## Rising lists -/

theorem rising_iff : ∀ l : List Nat, rising l = true ↔ l.Pairwise (· < ·)
  | [] => by simp [rising]
  | [a] => by simp [rising]
  | a :: b :: r => by
    simp only [rising, Bool.and_eq_true, decide_eq_true_eq, rising_iff (b :: r), List.pairwise_cons]
    constructor
    · rintro ⟨h, h2, h3⟩
      exact ⟨fun x hx => by rcases List.mem_cons.mp hx with rfl | hx; exacts [h, h.trans (h2 x hx)], h2, h3⟩
    · rintro ⟨h, h2, h3⟩
      exact ⟨h b (by simp), h2, h3⟩
theorem mem_setIns {k x : Nat} : ∀ {l : List Nat}, x ∈ setIns l k ↔ x = k ∨ x ∈ l
  | [] => by simp [setIns]
  | a :: r => by
    simp only [setIns]
    split
    · simp
    · split
      · next h => subst h; simp
      · simp only [List.mem_cons, mem_setIns (l := r)]; constructor <;> rintro (h | h | h) <;> simp [h]
theorem rising_setIns (k : Nat) : ∀ l : List Nat, rising l = true → rising (setIns l k) = true := by
  simp only [rising_iff]
  intro l
  induction l with
  | nil => intro _; simp [setIns]
  | cons a r ih =>
    intro h
    rw [List.pairwise_cons] at h
    simp only [setIns]
    split
    · next hk =>
      refine List.pairwise_cons.mpr ⟨fun x hx => ?_, List.pairwise_cons.mpr h⟩
      rcases List.mem_cons.mp hx with rfl | hx
      · exact hk
      · exact hk.trans (h.1 x hx)
    · split
      · exact List.pairwise_cons.mpr h
      · refine List.pairwise_cons.mpr ⟨fun x hx => ?_, ih h.2⟩
        rcases mem_setIns.mp hx with rfl | hx
        · omega
        · exact h.1 x hx
theorem rising_setDel (l : List Nat) (k : Nat) (h : rising l = true) : rising (setDel l k) = true := by
  rw [rising_iff] at *; exact h.filter _
theorem rising_setTo (l : List Nat) (k : Nat) (b : Bool) (h : rising l = true) : rising (setTo l k b) = true := by
  unfold setTo; split; exacts [rising_setIns k l h, rising_setDel l k h]
theorem rising_filter (l : List Nat) (p : Nat → Bool) (h : rising l = true) : rising (l.filter p) = true := by
  rw [rising_iff] at *; exact h.filter _
theorem rising_foldl_setIns : ∀ (ks l : List Nat), rising l = true → rising (ks.foldl setIns l) = true
  | [], _, h => h
  | k :: ks, l, h => rising_foldl_setIns ks _ (rising_setIns k l h)
theorem rising_foldl_setDel : ∀ (ks l : List Nat), rising l = true → rising (ks.foldl setDel l) = true
  | [], _, h => h
  | k :: ks, l, h => rising_foldl_setDel ks _ (rising_setDel l k h)
theorem mem_foldl_setIns {x : Nat} : ∀ {ks l : List Nat}, x ∈ ks.foldl setIns l ↔ x ∈ ks ∨ x ∈ l
  | [], l => by simp
  | k :: ks, l => by
    rw [List.foldl_cons, mem_foldl_setIns (ks := ks), mem_setIns, List.mem_cons]
    tauto
theorem mem_setDel {x k : Nat} {l : List Nat} : x ∈ setDel l k ↔ x ∈ l ∧ x ≠ k := by simp [setDel]
theorem mem_foldl_setDel {x : Nat} : ∀ {ks l : List Nat}, x ∈ ks.foldl setDel l ↔ x ∈ l ∧ x ∉ ks
  | [], l => by simp
  | k :: ks, l => by
    rw [List.foldl_cons, mem_foldl_setDel (ks := ks), mem_setDel, List.mem_cons, not_or, and_assoc]

/-! ## Cells -/

theorem cellsWf_iff : ∀ l : List Host.Cell, cellsWf l = true ↔ (∀ c ∈ l, c.2 ≠ 0) ∧ l.Pairwise fun c d => c.1 < d.1
  | [] => by simp [cellsWf]
  | [c] => by simp [cellsWf]
  | c :: d :: r => by
    simp only [cellsWf, Bool.and_eq_true, bne_iff_ne, decide_eq_true_eq, cellsWf_iff (d :: r), List.pairwise_cons (a := c)]
    constructor
    · rintro ⟨⟨h, h1⟩, h2, h3⟩
      refine ⟨fun x hx => ?_, fun x hx => ?_, h3⟩
      · rcases List.mem_cons.mp hx with rfl | hx
        exacts [h, h2 x hx]
      · rcases List.mem_cons.mp hx with rfl | hx
        exacts [h1, h1.trans ((List.pairwise_cons.mp h3).1 x hx)]
    · rintro ⟨h, h1, h3⟩
      exact ⟨⟨h c (by simp), h1 d (by simp)⟩, fun x hx => h x (List.mem_cons_of_mem _ hx), h3⟩

/-- An address below every listed one reads as an unlisted one. -/
theorem cellGet_below {a : Nat} : ∀ {l : List Host.Cell}, (∀ c ∈ l, a < c.1) → cellGet l a = unlisted
  | [], _ => rfl
  | c :: r, h => by
    have h1 := h c (by simp)
    simp only [cellGet, if_neg (show ¬c.1 = a by omega)]
    exact cellGet_below fun x hx => h x (List.mem_cons_of_mem _ hx)
theorem mem_cellIns {x c : Host.Cell} : ∀ {l : List Host.Cell}, c ∈ cellIns l x ↔ c = x ∨ c ∈ l
  | [] => by simp [cellIns]
  | d :: r => by
    simp only [cellIns]
    split
    · simp
    · simp only [List.mem_cons, mem_cellIns (l := r)]
      constructor <;> rintro (h | h | h) <;> simp [h]
/-- Inserting a cell at an address that is not listed keeps addresses rising. -/
theorem pairwise_cellIns (x : Host.Cell) : ∀ l : List Host.Cell, (∀ c ∈ l, c.1 ≠ x.1) → (l.Pairwise fun c d => c.1 < d.1) →
    (cellIns l x).Pairwise fun c d => c.1 < d.1
  | [], _, _ => by simp [cellIns]
  | d :: r, hn, hp => by
    rw [List.pairwise_cons] at hp
    simp only [cellIns]
    split
    · next h =>
      refine List.pairwise_cons.mpr ⟨fun c hc => ?_, List.pairwise_cons.mpr hp⟩
      rcases List.mem_cons.mp hc with rfl | hc
      exacts [h, h.trans (hp.1 c hc)]
    · next h =>
      refine List.pairwise_cons.mpr ⟨fun c hc => ?_, pairwise_cellIns x r (fun c hc => hn c (List.mem_cons_of_mem _ hc)) hp.2⟩
      rcases mem_cellIns.mp hc with rfl | hc
      · have := hn d (by simp); omega
      · exact hp.1 c hc
/-- Writing a byte keeps the list canonical. -/
theorem cellPut_wf (a : Nat) (b : Byte) (l : List Host.Cell) (h : cellsWf l = true) : cellsWf (cellPut l a b) = true := by
  rw [cellsWf_iff] at *
  have hf : (∀ c ∈ l.filter fun c => c.1 != a, c.2 ≠ 0) ∧ (l.filter fun c => c.1 != a).Pairwise fun c d => c.1 < d.1 :=
    ⟨fun c hc => h.1 c (List.mem_of_mem_filter hc), h.2.filter _⟩
  unfold cellPut
  dsimp only
  split
  · exact hf
  · next hb =>
    refine ⟨fun c hc => ?_, pairwise_cellIns _ _ (fun c hc => by simpa using (List.mem_filter.mp hc).2) hf.2⟩
    rcases mem_cellIns.mp hc with rfl | hc
    exacts [hb, hf.1 c hc]
/-- An inserted cell is found at its address when no other cell is; every other address reads as before. -/
theorem cellGet_cellIns (x : Host.Cell) (a : Nat) : ∀ l : List Host.Cell, (∀ c ∈ l, c.1 ≠ x.1) →
    cellGet (cellIns l x) a = if a = x.1 then x.2 else cellGet l a
  | [], _ => by
    simp only [cellIns, cellGet]
    by_cases h : a = x.1
    · simp [h]
    · simp [h, Ne.symm h]
  | d :: r, hn => by
    have hd := hn d (by simp)
    have ih := cellGet_cellIns x a r fun c hc => hn c (List.mem_cons_of_mem _ hc)
    simp only [cellIns]
    split
    · by_cases h : a = x.1
      · simp [cellGet, h]
      · simp only [cellGet, if_neg h, if_neg (Ne.symm h)]
    · by_cases h : a = x.1
      · simp only [cellGet, if_pos h, if_neg (show ¬d.1 = a from fun e => hd (e.trans h)), ih]
      · simp only [cellGet, ih, if_neg h]
/-- Taking an address out of a list leaves it unlisted and every other address as it was. -/
theorem cellGet_without (a x : Nat) : ∀ l : List Host.Cell, cellGet (l.filter fun c => c.1 != a) x = if x = a then unlisted else cellGet l x
  | [] => by simp [cellGet]
  | c :: r => by
    have ih := cellGet_without a x r
    by_cases hc : c.1 = a
    · simp only [List.filter_cons, hc, bne_self_eq_false, Bool.false_eq_true, if_false, ih, cellGet]
      by_cases hx : x = a
      · simp [hx]
      · simp [hx, Ne.symm hx]
    · simp only [List.filter_cons, show (c.1 != a) = true by simpa using hc, if_true, cellGet, ih]
      by_cases hx : x = a
      · simp [hx, hc]
      · simp [hx]
/-- A byte reads as it was written last. -/
theorem cellGet_cellPut (a : Nat) (b : Byte) (x : Nat) (l : List Host.Cell) : cellGet (cellPut l a b) x = if x = a then b else cellGet l x := by
  unfold cellPut
  dsimp only
  split
  · next h => rw [cellGet_without, h]
  · rw [cellGet_cellIns _ _ _ fun c hc => by simpa using (List.mem_filter.mp hc).2, cellGet_without]
    by_cases hx : x = a <;> simp [hx]
theorem cellWrite_wf : ∀ (bs : List Byte) (l : List Host.Cell) (a : Nat), cellsWf l = true → cellsWf (cellWrite l a bs) = true
  | [], _, _, h => h
  | b :: r, l, a, h => cellWrite_wf r _ _ (cellPut_wf a b l h)
/-- A byte of a range that was written reads as written, any other byte as before. -/
theorem cellGet_cellWrite : ∀ (bs : List Byte) (l : List Host.Cell) (a x : Nat),
    cellGet (cellWrite l a bs) x = if a ≤ x ∧ x < a + bs.length then bs.getD (x - a) 0 else cellGet l x
  | [], l, a, x => by
    have : ¬(a ≤ x ∧ x < a + ([] : List Byte).length) := by simp
    simp only [cellWrite, if_neg this]
  | b :: r, l, a, x => by
    rw [cellWrite, cellGet_cellWrite r _ (a + 1) x, cellGet_cellPut a b x l]
    simp only [List.length_cons]
    by_cases h1 : a + 1 ≤ x ∧ x < a + 1 + r.length
    · have h2 : a ≤ x ∧ x < a + (r.length + 1) := by omega
      have h3 : x - a = (x - (a + 1)) + 1 := by omega
      simp [h1, h2, h3]
    · rw [if_neg h1]
      by_cases hx : x = a
      · subst hx; simp
      · have h2 : ¬(a ≤ x ∧ x < a + (r.length + 1)) := by omega
        rw [if_neg hx, if_neg h2]
theorem cellZero_wf (l : List Host.Cell) (lo n : Nat) (h : cellsWf l = true) : cellsWf (cellZero l lo n) = true := by
  rw [cellsWf_iff] at *
  exact ⟨fun c hc => h.1 c (List.mem_of_mem_filter hc), h.2.filter _⟩
/-- A zeroed range reads zero, any other byte as before. -/
theorem cellGet_cellZero (lo n x : Nat) : ∀ l : List Host.Cell, cellGet (cellZero l lo n) x = if lo ≤ x ∧ x < lo + n then 0 else cellGet l x
  | [] => by simp [cellZero, cellGet, unlisted]
  | c :: r => by
    have ih := cellGet_cellZero lo n x r
    simp only [cellZero] at ih ⊢
    simp only [List.filter_cons, cellGet]
    by_cases hc : c.1 = x
    · subst hc
      by_cases hr : lo ≤ c.1 ∧ c.1 < lo + n
      · have : ¬((decide (c.1 < lo) || decide (lo + n ≤ c.1)) = true) := by simp; omega
        rw [if_neg this, ih, if_pos hr, if_pos hr]
      · have : ((decide (c.1 < lo) || decide (lo + n ≤ c.1)) = true) := by simp; omega
        rw [if_pos this, if_neg hr]
        simp [cellGet]
    · by_cases hk : (decide (c.1 < lo) || decide (lo + n ≤ c.1)) = true
      · rw [if_pos hk, if_neg hc]
        simp only [cellGet, if_neg hc]
        exact ih
      · rw [if_neg hk, if_neg hc]; exact ih
/-- Equal contents in canonical form are equal data. -/
theorem cells_ext : ∀ l k : List Host.Cell, cellsWf l = true → cellsWf k = true → (∀ a, cellGet l a = cellGet k a) → l = k := by
  intro l
  induction l with
  | nil =>
    intro k _ hk h
    cases k with
    | nil => rfl
    | cons d r =>
      have := h d.1
      simp only [cellGet, if_true] at this
      exact absurd this.symm (((cellsWf_iff _).mp hk).1 d (by simp))
  | cons c r ih =>
    intro k hl hk h
    have hl2 := (cellsWf_iff _).mp hl
    have hlp := List.pairwise_cons.mp hl2.2
    cases k with
    | nil =>
      have := h c.1
      simp only [cellGet, if_true] at this
      exact absurd this (hl2.1 c (by simp))
    | cons d q =>
      have hk2 := (cellsWf_iff _).mp hk
      have hkp := List.pairwise_cons.mp hk2.2
      have hcd : c.1 = d.1 := by
        rcases Nat.lt_trichotomy c.1 d.1 with hlt | he | hgt
        · have := h c.1
          rw [cellGet_below (l := d :: q) (by
            intro x hx; rcases List.mem_cons.mp hx with rfl | hx; exacts [hlt, hlt.trans (hkp.1 x hx)])] at this
          simp only [cellGet, if_true] at this
          exact absurd this (hl2.1 c (by simp))
        · exact he
        · have := h d.1
          rw [cellGet_below (l := c :: r) (by
            intro x hx; rcases List.mem_cons.mp hx with rfl | hx; exacts [hgt, hgt.trans (hlp.1 x hx)])] at this
          simp only [cellGet, if_true] at this
          exact absurd this.symm (hk2.1 d (by simp))
      have hb : c.2 = d.2 := by have := h c.1; simpa [cellGet, hcd] using this
      have hrq : r = q := by
        refine ih q ((cellsWf_iff r).mpr ⟨fun x hx => hl2.1 x (List.mem_cons_of_mem _ hx), hlp.2⟩)
          ((cellsWf_iff q).mpr ⟨fun x hx => hk2.1 x (List.mem_cons_of_mem _ hx), hkp.2⟩) fun a => ?_
        by_cases ha : a = c.1
        · subst ha
          rw [cellGet_below (fun x hx => hlp.1 x hx), cellGet_below (fun x hx => hcd ▸ hkp.1 x hx)]
        · have := h a
          simpa [cellGet, Ne.symm ha, hcd ▸ Ne.symm ha] using this
      rw [hrq]
      exact congrArg (· :: q) (Prod.ext hcd hb)

/-! ## Memory and scratchpad -/

theorem Memory.wf_iff (m : Memory) : m.wf = true ↔ cellsWf m.cells = true ∧ rising m.pois = true := by simp [Memory.wf]
theorem Memory.write_wf (m : Memory) (a : Nat) (bs : List Byte) (p : Bool) (h : m.wf = true) : (m.write a bs p).wf = true := by
  rw [Memory.wf_iff] at *
  refine ⟨cellWrite_wf bs _ a h.1, ?_⟩
  simp only [Memory.write]
  split
  exacts [rising_foldl_setIns _ _ h.2, rising_foldl_setDel _ _ h.2]
theorem Memory.mark_wf (m : Memory) (k : Nat) (b : Bool) (h : m.wf = true) : (m.mark k b).wf = true := by
  rw [Memory.wf_iff] at *; exact ⟨h.1, rising_setTo _ _ _ h.2⟩
theorem Memory.zero_wf (m : Memory) (lo n : Nat) (h : m.wf = true) : (m.zero lo n).wf = true := by
  rw [Memory.wf_iff] at *; exact ⟨cellZero_wf _ _ _ h.1, rising_filter _ _ h.2⟩
theorem Memory.put_wf (m : Memory) (a : Nat) (b : Byte) (h : m.wf = true) : ({ m with cells := cellPut m.cells a b } : Memory).wf = true := by
  rw [Memory.wf_iff] at *; exact ⟨cellPut_wf a b _ h.1, h.2⟩
theorem cellRead_eq (l : List Host.Cell) (a n : Nat) (bs : List Byte) (hn : bs.length = n) (h : ∀ k, k < n → cellGet l (a + k) = bs.getD k 0) :
    cellRead l a n = bs := by
  apply List.ext_getElem
  · simp [cellRead, hn]
  · intro k h1 h2
    simp only [cellRead, List.getElem_map, List.getElem_range]
    rw [h k (by omega), List.getD_eq_getElem?_getD, List.getElem?_eq_getElem h2, Option.getD_some]
/-- A range reads as it was written last. -/
theorem Memory.read_write_same (m : Memory) (a : Nat) (bs : List Byte) (p : Bool) : (m.write a bs p).read a bs.length = bs := by
  refine cellRead_eq _ a bs.length bs rfl fun k hk => ?_
  simp only [Memory.write]
  rw [cellGet_cellWrite bs _ a _, if_pos ⟨by omega, by omega⟩]
  simp
/-- A write leaves every byte outside its range alone. -/
theorem Memory.read_write_other (m : Memory) (a x n : Nat) (bs : List Byte) (p : Bool) (ho : x + n ≤ a ∨ a + bs.length ≤ x) :
    (m.write a bs p).read x n = m.read x n := by
  simp only [Memory.read, Memory.write, cellRead]
  refine List.map_congr_left fun k hk => ?_
  have := List.mem_range.mp hk
  rw [cellGet_cellWrite bs _ a _, if_neg (by omega)]
theorem Scratch.wf_iff (m : Scratch) : m.wf = true ↔ cellsWf m.cells = true ∧ rising m.pois = true ∧ rising m.full = true := by
  simp [Scratch.wf, and_assoc]
theorem Scratch.write_wf (m : Scratch) (a : Nat) (bs : List Byte) (p : Bool) (h : m.wf = true) : (m.write a bs p).wf = true := by
  rw [Scratch.wf_iff] at *
  refine ⟨cellWrite_wf bs _ a h.1, ?_, h.2.2⟩
  simp only [Scratch.write]
  split
  exacts [rising_foldl_setIns _ _ h.2.1, rising_foldl_setDel _ _ h.2.1]
theorem Scratch.setFull_wf (m : Scratch) (g : Nat) (b : Bool) (h : m.wf = true) : (m.setFull g b).wf = true := by
  rw [Scratch.wf_iff] at *; exact ⟨h.1, h.2.1, rising_setTo _ _ _ h.2.2⟩
theorem Scratch.zero_wf (m : Scratch) (lo n : Nat) (h : m.wf = true) : (m.zero lo n).wf = true := by
  rw [Scratch.wf_iff] at *
  exact ⟨cellZero_wf _ _ _ h.1, rising_filter _ _ h.2.1, rising_filter _ _ h.2.2⟩
theorem Scratch.read_write_same (m : Scratch) (a : Nat) (bs : List Byte) (p : Bool) : (m.write a bs p).read a bs.length = bs := by
  refine cellRead_eq _ a bs.length bs rfl fun k hk => ?_
  simp only [Scratch.write]
  rw [cellGet_cellWrite bs _ a _, if_pos ⟨by omega, by omega⟩]
  simp
theorem Scratch.read_write_other (m : Scratch) (a x n : Nat) (bs : List Byte) (p : Bool) (ho : x + n ≤ a ∨ a + bs.length ≤ x) :
    (m.write a bs p).read x n = m.read x n := by
  simp only [Scratch.read, Scratch.write, cellRead]
  refine List.map_congr_left fun k hk => ?_
  have := List.mem_range.mp hk
  rw [cellGet_cellWrite bs _ a _, if_neg (by omega)]
theorem Scratch.empty_wf : Scratch.empty.wf = true := rfl
/-- Reset memory is canonical. -/
theorem reset_mem_wf : State.reset.mem.wf = true := rfl

/-! ## Operations of the device on memory -/

@[simp] theorem wakeIf_mem (s : State) (a b c : Nat) (p : Team → Bool) : (wakeIf s a b c p).mem = s.mem := rfl
@[simp] theorem putDomain_mem (s : State) (d : Domain) : (s.putDomain d).mem = s.mem := rfl
@[simp] theorem meter_mem (s : State) (d k n : Nat) : (s.meter d k n).mem = s.mem := by unfold State.meter; split <;> rfl
/-- A write at the home keeps the canonical form. -/
theorem homeWrite_wf (s : State) (dom : Nat) (own : Option Nat) (pa : Nat) (bs : List Byte) (p : Bool) (h : s.mem.wf = true) :
    (homeWrite s dom own pa bs p).mem.wf = true := by
  unfold homeWrite
  split
  · split <;> exact h
  · simp only [meter_mem, wakeIf_mem]; exact Memory.write_wf _ _ _ _ h
/-- A fold keeps what each of its steps keeps. -/
theorem foldl_keeps {α β : Type} (P : α → Prop) (g : α → β → α) (hg : ∀ a b, P a → P (g a b)) : ∀ (l : List β) (a : α), P a → P (l.foldl g a)
  | [], _, h => h
  | b :: l, a, h => foldl_keeps P g hg l _ (hg a b h)
/-- Either branch keeps what both keep. -/
theorem ite_keeps {α : Type} (P : α → Prop) (c : Prop) [Decidable c] (a b : α) (ha : P a) (hb : P b) : P (if c then a else b) := by
  split
  exacts [ha, hb]
/-- Performing a line's dirty bytes keeps the canonical form. -/
theorem l1Flush_wf (s : State) (core : Nat) (l : L1Line) (h : s.mem.wf = true) : (l1Flush s core l).mem.wf = true := by
  unfold l1Flush
  dsimp only
  split
  · exact h
  · rw [meter_mem, wakeIf_mem]
    refine foldl_keeps (fun m : Memory => m.wf = true) _ (fun m u hm => ?_) _ _
      (foldl_keeps (fun m : Memory => m.wf = true) _ (fun m o hm => Memory.put_wf m _ _ hm) _ _ h)
    split
    · exact Memory.mark_wf _ _ _ hm
    · split
      exacts [Memory.mark_wf _ _ _ hm, hm]
theorem foldl_flush_wf (core : Nat) (l : List L1Line) (s : State) (h : s.mem.wf = true) : (l.foldl (fun s l => l1Flush s core l) s).mem.wf = true :=
  foldl_keeps (fun s : State => s.mem.wf = true) _ (fun s l hs => l1Flush_wf s core l hs) l s h
theorem l1Release_wf (s : State) (core dom scope : Nat) (h : s.mem.wf = true) : (l1Release s core dom scope).mem.wf = true := foldl_flush_wf core _ s h
theorem l1WriteBack_wf (s : State) (core : Nat) (h : s.mem.wf = true) : (l1WriteBack s core).mem.wf = true := foldl_flush_wf core _ s h
theorem releaseAt_wf (s : State) (core dom scope : Nat) (h : s.mem.wf = true) : (releaseAt s core dom scope).mem.wf = true := by
  unfold releaseAt; split
  exacts [l1Release_wf s core dom scope h, h]
@[simp] theorem acquireAt_mem (s : State) (core dom scope : Nat) : (acquireAt s core dom scope).mem = s.mem := by
  unfold acquireAt
  split
  · rfl
  · split <;> rfl
theorem l1Keep_wf (s : State) (core : Nat) (l : L1Line) (h : s.mem.wf = true) : (l1Keep s core l).mem.wf = true := by
  unfold l1Keep
  dsimp only
  split
  · exact h
  · split
    exacts [h, l1Flush_wf s core _ h]
theorem l1Fill_wf (s : State) (core dom line : Nat) (h : s.mem.wf = true) : (l1Fill s core dom line).mem.wf = true := l1Keep_wf s core _ h
@[simp] theorem send_mem (s : State) (m : BusMsg) : (s.send m).mem = s.mem := rfl
@[simp] theorem readOut_mem (s : State) (dom pa n : Nat) : (readOut s dom pa n).mem = s.mem := by unfold readOut; split <;> rfl
/-- A line request of a read changes no memory. -/
@[simp] theorem lineRead_mem (s : State) (core dom pol pa n : Nat) : (lineRead s core dom pol pa n).mem = s.mem := by
  unfold lineRead
  split
  · exact readOut_mem s dom pa n
  · split
    · exact meter_mem s dom 3 n
    · show (if segHolds _ dom pa then s else s.meter dom 3 128).mem = s.mem
      split
      exacts [rfl, meter_mem s dom 3 128]
/-- A line request of a write changes no memory. -/
@[simp] theorem lineWrite_mem (s : State) (core dom pol pa : Nat) : (lineWrite s core dom pol pa).mem = s.mem := by unfold lineWrite; split <;> rfl
theorem loadLine_wf (s : State) (core dom scope pol line : Nat) (h : s.mem.wf = true) : (loadLine s core dom scope pol line).mem.wf = true := by
  unfold loadLine
  have h1 : (lineRead s core dom pol (line * 128) 128).mem.wf = true := by rw [lineRead_mem]; exact h
  exact ite_keeps (fun s : State => s.mem.wf = true) _ _ _ h (ite_keeps (fun s : State => s.mem.wf = true) _ _ _ (l1Fill_wf _ _ _ _ h1) h1)
theorem fold_mem_eq {α : Type} (f : State → α → State) (hf : ∀ s a, (f s a).mem = s.mem) : ∀ (l : List α) (s : State), (l.foldl f s).mem = s.mem
  | [], _ => rfl
  | a :: l, s => (fold_mem_eq f hf l (f s a)).trans (hf s a)
/-- The reads of a walk change no memory. -/
@[simp] theorem walkReads_mem (s : State) (dom die va : Nat) : (walkReads s dom die va).mem = s.mem := by
  unfold walkReads
  split
  · rfl
  · refine fold_mem_eq _ (fun s a => ?_) _ s
    split
    exacts [readOut_mem s dom a 8, meter_mem s dom 3 8]
/-- Looking a translation up changes no memory. -/
@[simp] theorem tlbFill_mem (s : State) (ag : Agent) (va : Nat) : (tlbFill s ag va).mem = s.mem := by
  have h : (if tlbHolds s ag va then s else walkReads s ag.dom (dieOf ag.core) va).mem = s.mem := by split <;> simp
  unfold tlbFill
  dsimp only
  split
  · exact h
  · split <;> exact h
@[simp] theorem refetch_mem (s : State) (core dom pa : Nat) : (refetch s core dom pa).mem = s.mem := by
  show (if isAperture pa then readOut (dropCopies s core dom pa) dom pa 64 else (dropCopies s core dom pa).meter dom 3 64).mem = s.mem
  split
  exacts [readOut_mem _ dom pa 64, meter_mem _ dom 3 64]
theorem fetchTraffic_wf (s : State) (core dom pol pa : Nat) (h : s.mem.wf = true) : (fetchTraffic s core dom pol pa).mem.wf = true := by
  unfold fetchTraffic
  split
  · exact h
  · split
    · rw [lineRead_mem]; exact h
    · exact loadLine_wf s core dom 0 pol (pa / 128) h
/-- The fetch of a target's line keeps the canonical form. -/
theorem targetRead_wf (s : State) (t : Team) (ag : Agent) (p : Pc) (h : s.mem.wf = true) : (targetRead s t ag p).mem.wf = true := by
  unfold targetRead
  split
  · exact h
  · split
    · rw [tlbFill_mem]; exact h
    · next pa pol _ =>
      have h1 := fetchTraffic_wf (tlbFill s ag p.line.toNat) ag.core ag.dom pol pa (by rw [tlbFill_mem]; exact h)
      dsimp only
      split
      · exact h1
      · rw [refetch_mem]; exact h1
/-- A store of a team keeps the canonical form. -/
theorem storeBytes_wf (s : State) (core dom scope pol pa : Nat) (bs : List Byte) (p : Bool) (h : s.mem.wf = true) :
    (storeBytes s core dom scope pol pa bs p).mem.wf = true := by
  unfold storeBytes
  dsimp only
  split
  · rw [wakeIf_mem]; exact l1Keep_wf s core _ h
  · have h1 := homeWrite_wf s dom (some (clusterOf core)) pa bs p h
    exact ite_keeps (fun s : State => s.mem.wf = true) _ _ _ (l1Keep_wf _ core _ h1) h1
/-- A write of a range of virtual addresses keeps the canonical form. -/
theorem writeVa_wf (s : State) (dom : Nat) (tr : Trans) (a : Nat) (bs : List Byte) (pois : Nat → Nat → Bool) (h : s.mem.wf = true) :
    (writeVa s dom tr a bs pois).1.mem.wf = true := by
  refine foldl_keeps (fun s : State => s.mem.wf = true) _ (fun s p hs => ?_) _ s h
  refine ite_keeps (fun s : State => s.mem.wf = true) _ _ _ ?_ hs
  split
  exacts [homeWrite_wf _ _ _ _ _ _ hs, hs]

end Sys2Proof.Machine
end

