-- ==== Sys2Proof/Laws/Ops.lean ====
section
/-! SUPPORT. What the shared operations do: looking units up after an update, issuing an instruction, completing it, holding it. -/

namespace Sys2Proof.Machine

/-! ## Looking units up -/

theorem find_map_same {α : Type} (key : α → Nat) (x : α) : ∀ l : List α, (l.find? fun y => key y == key x).isSome = true →
    ((l.map fun y => if key y == key x then x else y).find? fun y => key y == key x) = some x
  | [], h => by simp at h
  | y :: l, h => by
    by_cases e : key y = key x
    · simp [e]
    · simp only [List.find?_cons, List.map_cons] at h ⊢
      have e' : (key y == key x) = false := by simpa using e
      simp only [e'] at h ⊢
      simpa [e'] using find_map_same key x l h

theorem find_map_other {α : Type} (key : α → Nat) (x : α) (k : Nat) (hk : k ≠ key x) : ∀ l : List α,
    ((l.map fun y => if key y == key x then x else y).find? fun y => key y == k) = l.find? fun y => key y == k
  | [] => rfl
  | y :: l => by
    have ih := find_map_other key x k hk l
    simp only [List.map_cons, List.find?_cons]
    by_cases e : key y = key x
    · have h1 : (key x == k) = false := by simpa using fun h : key x = k => hk h.symm
      simp [e, h1] at ih ⊢
      exact ih
    · have e' : (key y == key x) = false := by simpa using e
      simp only [e', Bool.false_eq_true, if_false]
      split <;> simp_all

/-- A team put back is found under its identity. -/
theorem team?_putTeam_same (s : State) (t : Team) (h : (s.team? t.tid).isSome = true) : (s.putTeam t).team? t.tid = some t :=
  find_map_same (fun u : Team => u.tid) t s.teams h
/-- Other teams are found as before. -/
theorem team?_putTeam_other (s : State) (t : Team) (k : Nat) (hk : k ≠ t.tid) : (s.putTeam t).team? k = s.team? k :=
  find_map_other (fun u : Team => u.tid) t k hk s.teams
/-- A team that is found has the identity it was looked for under. -/
theorem team?_tid {s : State} {k : Nat} {t : Team} (h : s.team? k = some t) : t.tid = k := by
  simpa using List.find?_some h
/-- Plots are found after a team was put back as before; so are cores, clusters and launches. -/
@[simp] theorem plot?_putTeam (s : State) (t : Team) (p : Nat) : (s.putTeam t).plot? p = s.plot? p := rfl
@[simp] theorem launch?_putTeam (s : State) (t : Team) (l : Nat) : (s.putTeam t).launch? l = s.launch? l := rfl
@[simp] theorem core_putTeam (s : State) (t : Team) (c : Nat) : (s.putTeam t).core c = s.core c := rfl
@[simp] theorem cluster_putTeam (s : State) (t : Team) (c : Nat) : (s.putTeam t).cluster c = s.cluster c := rfl

/-- A change of one core: that core is changed when it exists, every other is as it was. -/
theorem core_modCore (s : State) (c k : Nat) (f : Core → Core) :
    (s.modCore c f).core k = if c = k ∧ k < s.cores.length then f (s.core k) else s.core k := by
  simp only [State.core, State.modCore, List.getD_eq_getElem?_getD, List.getElem?_modify]
  by_cases hk : k < s.cores.length
  · by_cases hc : c = k <;> simp [hc, hk]
  · simp [hk]
/-- Charging issue time changes nothing of a core but that count. -/
theorem charge_core (s : State) (c d n k : Nat) : { (s.charge c d n).core k with issue := [] } = { s.core k with issue := [] } := by
  simp only [State.charge, core_modCore]
  split <;> rfl

/-! ## Completing an instruction -/

/-- The team that finishTime leaves: its first burst issued, the later ones to come. -/
def finishTeam (s : State) (t : Team) (gap : Nat) (bursts : List Nat) : Team :=
  ({ t with sched := { t.sched with burst := bursts.drop 1, gap := gap } } : Team).runs s.clock.ac (bursts.headD 1) (if bursts.length ≤ 1 then gap else 0)

/-- finishTime always answers a next state. -/
theorem finishTime_next (s : State) (t : Team) (gap : Nat) (bursts : List Nat) :
    finishTime s t gap bursts
      = .next (((s.putTeam (finishTeam s t gap bursts)).charge t.place.core (payer t) (bursts.headD 1)).tick (bursts.headD 1)) := rfl

/-- A team keeps what finishing does not touch. -/
theorem teamKeeps_finish (s : State) (t : Team) (gap : Nat) (bursts : List Nat) : TeamKeeps t (finishTeam s t gap bursts) := by
  constructor <;> rfl

theorem TeamKeeps.refl (t : Team) : TeamKeeps t t := by constructor <;> rfl
theorem TeamKeeps.trans {a b c : Team} (h : TeamKeeps a b) (k : TeamKeeps b c) : TeamKeeps a c := by
  constructor
  · rw [k.tid, h.tid]
  · rw [k.place, h.place]
  · rw [k.foot, h.foot]
  · rw [k.grans, h.grans]
  · rw [k.stamp, h.stamp]
  · rw [k.schk, h.schk]
  · rw [k.trap, h.trap]
  · rw [k.region, h.region]
  · rw [k.gate, h.gate]
  · rw [k.gcause, h.gcause]
  · rw [k.ops, h.ops]
  · rw [k.sync, h.sync]
  · rw [k.graft, h.graft]
  · rw [k.mat, h.mat]
  · rw [k.line, h.line]
  · rw [k.status, h.status]
  · rw [k.wish, h.wish]
theorem DeviceKeeps.trans {n : Nat} {a b c : State} (h : DeviceKeeps n a b) (k : DeviceKeeps n b c) : DeviceKeeps n a c := by
  constructor
  · rw [k.agenda, h.agenda]
  · rw [k.soft, h.soft]
  · rw [k.focus, h.focus]
  · rw [k.uid, h.uid]
  · rw [k.nextQuad, h.nextQuad]
  · rw [k.log, h.log]
  · rw [k.mem, h.mem]
  · rw [k.badPages, h.badPages]
  · exact fun i hi => (k.teams i hi).trans (h.teams i hi)
  · exact fun i => (k.cores i).trans (h.cores i)
  · rw [k.clusters, h.clusters]
  · rw [k.dies, h.dies]
  · rw [k.gov, h.gov]
  · rw [k.mgmt, h.mgmt]
  · rw [k.reports, h.reports]

/-- The device keeps everything when an instruction finishes in a state that differs from s by free values drawn at most. -/
theorem deviceKeeps_finish (s : State) (n : Nat) (t u : Team) (gap : Nat) (bursts : List Nat) (d ac : Nat) (hu : u.tid = t.tid) :
    DeviceKeeps t.tid s ((((s.drawn n).putTeam (finishTeam (s.drawn n) u gap bursts)).charge u.place.core d ac).tick ac) := by
  constructor <;> try rfl
  · intro k hk
    exact team?_putTeam_other (s.drawn n) (finishTeam (s.drawn n) u gap bursts) k (by rw [(teamKeeps_finish _ u gap bursts).tid, hu]; exact hk)
  · intro c
    exact charge_core ((s.drawn n).putTeam (finishTeam (s.drawn n) u gap bursts)) u.place.core d ac c

/-- An instruction of team t that ends with finishTime for a team u, whose kept parts are those of t, runs to what finishing leaves of u. -/
theorem runsTo_finish {i : Instr} {s : State} {t u : Team} {n gap : Nat} {bursts : List Nat} {P : Team → Prop}
    (h : exec i s = finishTime (s.drawn n) u gap bursts) (hk : TeamKeeps t u) (ht : s.team? t.tid = some t)
    (hp : P (finishTeam (s.drawn n) u gap bursts)) : RunsTo i s t P := by
  refine ⟨_, finishTeam (s.drawn n) u gap bursts, by rw [h, finishTime_next], ?_, hk.trans (teamKeeps_finish _ _ _ _),
    deviceKeeps_finish s n t u gap bursts _ _ hk.tid, hp⟩
  have e : (finishTeam (s.drawn n) u gap bursts).tid = t.tid := hk.tid
  have := team?_putTeam_same (s.drawn n) (finishTeam (s.drawn n) u gap bursts) (by
    show ((s.team? _).isSome) = true
    rw [e, ht]; rfl)
  rw [e] at this
  exact this

@[simp] theorem drawn_zero (s : State) : s.drawn 0 = s := rfl

/-! ## Issuing an instruction -/

/-- Waking changes the scheduling state alone, and there neither the status nor a wish. -/
theorem unhold_eq (t : Team) (ac : Nat) : ∃ x : Sched, t.unhold ac = { t with sched := x } ∧ x.status = t.sched.status ∧ x.wish = t.sched.wish :=
  ⟨_, rfl, rfl, rfl⟩
theorem teamKeeps_issued (t : Team) (i : Instr) (s : State) : TeamKeeps t (t.issued i s) := by
  obtain ⟨x, e, h1, h2⟩ := unhold_eq t s.clock.ac
  unfold Team.issued
  rw [e]
  constructor <;> first | rfl | assumption
@[simp] theorem issued_regs (t : Team) (i : Instr) (s : State) : (t.issued i s).regs = t.regs := by simp [Team.issued]
@[simp] theorem issued_flow (t : Team) (i : Instr) (s : State) : (t.issued i s).flow = t.flow := by simp [Team.issued]
@[simp] theorem issued_tid (t : Team) (i : Instr) (s : State) : (t.issued i s).tid = t.tid := (teamKeeps_issued t i s).tid
@[simp] theorem issued_foot (t : Team) (i : Instr) (s : State) : (t.issued i s).foot = t.foot := (teamKeeps_issued t i s).foot
@[simp] theorem issued_gate (t : Team) (i : Instr) (s : State) : (t.issued i s).gate = t.gate := (teamKeeps_issued t i s).gate
@[simp] theorem issued_place (t : Team) (i : Instr) (s : State) : (t.issued i s).place = t.place := (teamKeeps_issued t i s).place
@[simp] theorem issued_trap (t : Team) (i : Instr) (s : State) : (t.issued i s).trap = t.trap := (teamKeeps_issued t i s).trap
@[simp] theorem issued_schk (t : Team) (i : Instr) (s : State) : (t.issued i s).schk = t.schk := (teamKeeps_issued t i s).schk

/-- An operand or predicate check that looks at registers, flow, footprint and gate alone is the same before and after waking. -/
def Plain (g : Team → Bool) : Prop := ∀ t u : Team, u.regs = t.regs → u.flow = t.flow → u.foot = t.foot → u.gate = t.gate → g u = g t

/-! What is legal at decode: outside a gate a team's own footprint, inside one no less than what the gate leaves it (R39, R307). -/

theorem legal_none {t : Team} (h : t.gate = none) : t.legal = t := by simp [Team.legal, h]
theorem readsSealed_none {t : Team} (h : t.gate = none) (sup : Team → Bool) : readsSealed t sup = false := by simp [readsSealed, h]
theorem predOk_legal (t : Team) (n : Nat) : t.predOk n = true → t.legal.predOk n = true := by
  cases h : t.gate <;> simp [Team.legal, Team.predOk, h]
theorem vregs_legal (t : Team) : t.foot.vregs ≤ t.legal.foot.vregs := by
  cases h : t.gate <;> simp [Team.legal, h]
theorem sregs_legal (t : Team) : t.foot.sregs ≤ t.legal.foot.sregs := by
  cases h : t.gate <;> simp [Team.legal, h]
@[simp] theorem legal_flow (t : Team) : t.legal.flow = t.flow := by cases h : t.gate <;> simp [Team.legal, h]
@[simp] theorem legal_regs (t : Team) : t.legal.regs = t.regs := by cases h : t.gate <;> simp [Team.legal, h]
/-- A header predicate that no gate seals is read as it is. -/
theorem readsSealed_header {t : Team} (p : Prd) (h : t.predOk p.index.toNat = true) : readsSealed t (fun u => u.suppressed p) = false := by
  have hq : ∀ x : BitVec 7, p.index.toNat < 4 ∨ p.index.toNat = 7 → (decide (7 ≤ p.index.toNat) || (x ||| 0x70).getLsbD p.index.toNat)
      = (decide (7 ≤ p.index.toNat) || (x &&& 0x0F).getLsbD p.index.toNat) := by
    intro x hx
    generalize p.index.toNat = n at hx
    rcases hx with hx | rfl
    · interval_cases n <;> simp
    · rfl
  have hb := p.index.isLt
  cases g : t.gate with
  | none => exact readsSealed_none g _
  | some x =>
    have hx : p.index.toNat < 4 ∨ p.index.toNat = 7 := by simp [Team.predOk, g] at h; omega
    have := hq t.regs.q hx
    simp [readsSealed, g, Team.suppressed, Team.qget] at *
    simp [this]

/-- The common front hands a legal, allowed, unsuppressed instruction whose operands are legal and not sealed to its body. -/
theorem issueWith_runs {i : Instr} {s : State} {t : Team} (h : Runs i s t) {stl : BitVec 4} {ok sup : Team → Bool} {h1 : Bool}
    {h2 : Team → Bool} {body : State → Team → Out} (hok : ok (t.unhold s.clock.ac).legal = true) (hacc : ok (t.unhold s.clock.ac) = true)
    (hseal : readsSealed (t.unhold s.clock.ac) sup = false) (hsup : sup (t.unhold s.clock.ac) = false) :
    issueWith i s stl ok sup h1 h2 body = body s (t.issued i s) := by
  simp only [issueWith, h.focus, h.here, Option.bind_some]
  cases g : t.gate with
  | some x => simp [g, h.inGate (by simp [g]), h.legal, hok, hacc, hseal, hsup, h.free, Team.issued]
  | none =>
    have hgr : (t.graft.pending.isSome && !graftAllows i) = false := by
      cases hp : t.graft.pending.isSome with
      | false => rfl
      | true => simp [h.graft g hp]
    simp [g, h.legal, hok, hacc, hseal, hgr, hsup, h.free, Team.issued]

theorem issue_runs {i : Instr} {s : State} {t : Team} (h : Runs i s t) {stl : BitVec 4} {ok sup : Team → Bool}
    {body : State → Team → Out} (hok : ok (t.unhold s.clock.ac).legal = true) (hacc : ok (t.unhold s.clock.ac) = true)
    (hseal : readsSealed (t.unhold s.clock.ac) sup = false) (hsup : sup (t.unhold s.clock.ac) = false) :
    issue i s stl ok sup body = body s (t.issued i s) := issueWith_runs h hok hacc hseal hsup

/-- Outside a gate the checks are made of the team as it is. -/
theorem issue_runs_outside {i : Instr} {s : State} {t : Team} (h : Runs i s t) (g : t.gate = none) {stl : BitVec 4} {ok sup : Team → Bool}
    {body : State → Team → Out} (hok : ok (t.unhold s.clock.ac) = true) (hsup : sup (t.unhold s.clock.ac) = false) :
    issue i s stl ok sup body = body s (t.issued i s) :=
  issue_runs h (by rw [legal_none (by simpa using g)]; exact hok) hok (readsSealed_none (by simpa using g) _) hsup

end Sys2Proof.Machine
end

