-- ==== Sys2Proof/Laws/Trap.lean ====
section
/-! SUPPORT. What holding a team, taking an exception and returning from one do (R79, R190, R194, R196, R193, R198, R199). -/

namespace Sys2Proof.Machine

/-- A held team stands where it stood: nothing but its scheduling state changes, and no time passes. -/
theorem holdTeam_next (s : State) (t : Team) (h : Hold) :
    ∃ x : Sched, holdTeam s t h = .next (s.putTeam { t with sched := x }) ∧ x.hold = some h ∧ x.status = t.sched.status := ⟨_, rfl, rfl, rfl⟩

/-- The team as it enters its handler. -/
def trapTeam (s : State) (t : Team) (f : TrapInfo) : Team :=
  { t with
    trap := { t.trap with hmask := t.flow.mask, hmaskIn := t.flow.mask, hfrow := if f.async then 0 else f.rows, hflt := hfltOf t f (!t.region.pend.isEmpty),
                          hpc := t.flow.pc.bits ||| (if f.half then 8 else 0), faddr := f.addr.getD t.trap.faddr, inHandler := true,
                          inFmt := t.flow.fmt, inRs := t.rsDepth, inCs := t.csDepth,
                          inWait := f.async && t.sched.hold.any Hold.waits },
    region := { t.region with lost := false, lostCount := 0 },
    sched := { t.sched with hold := none, waits := [], now := t.sched.now + 12, pend := [], burst := [], readyAt := s.clock.ac + 12 },
    sync := { t.sync with tryw := none, mwaitAt := none, mon := t.sync.mon.map wakePreempt },
    line := none,
    flow := { t.flow with pc := hvecPc t, entered := false, mask := t.liveRows } }

/-- With HVEC.EN set, outside a handler and with a handler slot that may be entered, the exception is taken. -/
theorem enterTrap_handler (s : State) (t : Team) (f : TrapInfo) (en : t.trap.hvec.getLsbD 0 = true) (out : t.trap.inHandler = false)
    (ok : targetFault s t.agent (hvecPc t) = none) : enterTrap s t f = (s.putTeam (trapTeam s t f)).tick 12 := by
  have e : targetFault s (Team.agent { t.drainWrites with trap := (trapTeam s t f).trap }) (hvecPc t) = none := ok
  simp only [enterTrap, Team.drainWrites, en, out, Bool.not_true, Bool.false_eq_true, if_false]
  split
  · rfl
  · next h => exact absurd (h.symm.trans ok) (by simp)
/-- With HVEC.EN clear a fault ends the team (R194). -/
theorem enterTrap_ends (s : State) (t : Team) (f : TrapInfo) (en : t.trap.hvec.getLsbD 0 = false) :
    enterTrap s t f = endByFault s t.drainWrites f.code (hfltOf t f (!t.region.pend.isEmpty)) (t.flow.pc.bits ||| (if f.half then 8 else 0)) := by
  have e : t.drainWrites.trap.hvec.getLsbD 0 = false := en
  unfold enterTrap
  dsimp only
  rw [e]
  rfl
/-- A fault in a handler ends the team with the double-fault code, reporting the trap that was being handled (R196). -/
theorem enterTrap_double (s : State) (t : Team) (f : TrapInfo) (en : t.trap.hvec.getLsbD 0 = true) (inn : t.trap.inHandler = true) :
    enterTrap s t f = endByFault s t.drainWrites 0x3F t.trap.hflt t.trap.hpc := by
  have e : t.drainWrites.trap.hvec.getLsbD 0 = true := en
  have e2 : t.drainWrites.trap.inHandler = true := inn
  unfold enterTrap
  dsimp only
  rw [e, e2]
  rfl
/-- Raising a fault always answers a next state: no fault of a program stops the machine. -/
theorem raiseAt_next (s : State) (t : Team) (f : TrapInfo) : ∃ s', raiseAt s t f = .next s' := by
  unfold raiseAt abortNow
  split <;> split <;> exact ⟨_, rfl⟩
/-- A trap waits for nothing when its handler's slot may be entered (R130). -/
theorem trapStalls_false (s : State) (t : Team) (ok : targetFault s t.agent (hvecPc t) = none) : trapStalls s t = false := by simp [trapStalls, ok]
/-- Outside a gate a fault is taken as a trap. -/
theorem raiseAt_trap (s : State) (t : Team) (f : TrapInfo) (h : t.gate = none) (free : trapStalls s t = false) :
    raiseAt s t f = .next (enterTrap s t f) := by simp [raiseAt, h, free]
/-- Inside a gate a fault aborts the gate with cause 5 (R309). -/
theorem raiseAt_gate (s : State) (t : Team) (f : TrapInfo) (g : GateCtx) (h : t.gate = some g) (free : abortStalls s t g = false) :
    raiseAt s t f = .next (gateAbort s t g 5) := by
  simp [raiseAt, abortNow, h, free]

@[simp] theorem runStop_mem (s : State) (p : Nat) : (runStop s p).mem = s.mem := by
  unfold runStop
  repeat' split
  all_goals rfl
@[simp] theorem cancelAtEnd_mem (s : State) (t : Team) : (cancelAtEnd s t).mem = s.mem := rfl
@[simp] theorem stopTeam_mem (s : State) (t : Team) : (stopTeam s t).mem = s.mem := by unfold stopTeam; simp
@[simp] theorem endByFault_mem (s : State) (t : Team) (c : Nat) (h : Word) (p : DWord) : (endByFault s t c h p).mem = s.mem := by
  unfold endByFault
  dsimp only
  split
  · simp
  · simp [State.putLaunch, State.modGov]
/-- The walk of a fetch that ends in a fault changes no memory. -/
@[simp] theorem fetchWalk_mem (s : State) (t : Team) (a : Option DWord) : (fetchWalk s t a).mem = s.mem := by
  unfold fetchWalk
  split <;> simp
/-- The marks of a ring slot keep the canonical form of memory (R341). -/
theorem ringMarks_wf (s : State) (p : Spill) (tr : Trans) (n : Nat) (h : s.mem.wf = true) : (ringMarks s p tr n).mem.wf = true := by
  unfold ringMarks
  dsimp only
  induction sectorPieces (ringAddr p p.next) n generalizing s with
  | nil => exact h
  | cons x l ih =>
    simp only [List.foldl_cons]
    refine ih _ ?_
    split
    · split
      exacts [h, Memory.mark_wf _ _ _ h]
    · exact h
/-- Taking an exception changes no memory where the handler's slot may be entered. -/
theorem enterTrap_mem (s : State) (t : Team) (f : TrapInfo) (ok : targetFault s t.agent (hvecPc t) = none) : (enterTrap s t f).mem = s.mem := by
  unfold enterTrap
  dsimp only
  split
  · simp
  · split
    · simp
    · split
      · simp
      · next h => exact absurd (h.symm.trans ok) (by simp)
/-- Taking an exception keeps the canonical form of memory. -/
theorem enterTrap_wf (s : State) (t : Team) (f : TrapInfo) (h : s.mem.wf = true) : (enterTrap s t f).mem.wf = true := by
  unfold enterTrap
  dsimp only
  split
  · simpa using h
  · split
    · simpa using h
    · split
      · simpa using h
      · rw [endByFault_mem]
        exact ite_keeps (fun s : State => s.mem.wf = true) _ _ _ h (targetRead_wf _ _ _ _ h)
theorem carveChange_wf (s : State) (t : Team) (h : s.mem.wf = true) : (carveChange s t).mem.wf = true := by
  unfold carveChange
  split
  exacts [l1WriteBack_wf s _ h, h]
theorem gateAbort_wf (s : State) (t : Team) (g : GateCtx) (c : Nat) (h : s.mem.wf = true) : (gateAbort s t g c).mem.wf = true :=
  enterTrap_wf _ _ _ (carveChange_wf s _ h)

/-- The return from an exception is refused only for region with no region entered, or with the stacks not as they were there (R199). -/
theorem leaveTrap_none (s : State) (t : Team) (mode : Nat) : leaveTrap s t mode = none ↔
    mode = 1 ∧ t.trap.hflt.getLsbD 8 = false ∧ (t.region.valid = false ∨ t.trap.inRs ≠ t.region.rs ∨ t.trap.inCs ≠ t.region.cs) := by
  unfold leaveTrap
  dsimp only
  split
  · next h => simp only [true_iff]; simpa [and_assoc, or_assoc] using h
  · next h =>
    simp only [reduceCtorEq, false_iff]
    intro h2
    exact h (by simpa [and_assoc, or_assoc] using h2)
/-- What a return from an exception restores (R193, R198). -/
theorem leaveTrap_some (s : State) (t u : Team) (mode : Nat) (h : leaveTrap s t mode = some u) :
    u.flow.mask = t.trap.hmask &&& t.trap.hmaskIn &&& t.liveRows ∧ u.flow.fmt = t.trap.inFmt ∧ u.trap = { t.trap with inHandler := false }
      ∧ u.flow.did = t.flow.did ∧ u.flow.retired = t.flow.retired ∧ u.regs = t.regs
      ∧ u.flow.pc = (if mode = 2 ∧ t.trap.hflt.getLsbD 8 = true ∧ t.trap.inWait = true then (pcOf (t.trap.hpc &&& ~~~(8#64))).next
          else if mode = 0 ∨ t.trap.hflt.getLsbD 8 = true then pcOf (t.trap.hpc &&& ~~~(8#64))
          else if mode = 1 then pcOf t.region.regpc else (pcOf (t.trap.hpc &&& ~~~(8#64))).next) := by
  unfold leaveTrap at h
  dsimp only at h
  split at h
  · cases h
  · cases h
    refine ⟨?_, ?_, ?_, ?_, ?_, ?_, ?_⟩ <;> (unfold refillRs; split <;> (simp [Team.setPc, cutCs, cutRs, Team.drainWrites, and_assoc]; try split <;> rfl))

end Sys2Proof.Machine
end

