-- ==== Sys2Proof/Laws/Vector.lean ====
section
/-! SUPPORT. What the passes of a V instruction write: columns, blocks, and the end of the instruction. -/

namespace Sys2Proof.Machine

/-! ## Operand checks do not see the time -/

@[simp] theorem vOperandsOk_unhold (u : Uses) (k : Bool) (f : VForm) (t : Team) (n : Nat) : vOperandsOk u k f (t.unhold n) = vOperandsOk u k f t := by
  obtain ⟨x, e, -, -⟩ := unhold_eq t n
  rw [e]; rfl
/-- Operands that are legal beside the gate's footprint are legal at decode (R39, R307). -/
theorem vOperandsOk_legal (u : Uses) (k : Bool) (f : VForm) (t : Team) (h : vOperandsOk u k f t = true) : vOperandsOk u k f t.legal = true := by
  have hv := vregs_legal t
  have hp := predOk_legal t
  have use : ∀ (v : Use) (x : BitVec 8), useOk t f v x = true → useOk t.legal f v x = true := by
    intro v x hx
    cases v <;> simp only [useOk, blockOk, runOk, prednumOk, vregOk, Bool.and_eq_true, decide_eq_true_eq] at * <;>
      first | trivial | (exact ⟨⟨hx.1.1, hx.1.2⟩, by omega⟩) | (exact ⟨hx.1, by omega⟩) | (exact ⟨hx.1, hp _ hx.2⟩) | (exact ⟨hx.1, hx.2.1, hp _ hx.2.2⟩)
  simp only [vOperandsOk, Bool.and_eq_true] at h ⊢
  refine ⟨⟨⟨⟨hp _ h.1.1.1.1, use _ _ h.1.1.1.2⟩, ?_⟩, ?_⟩, use _ _ h.2⟩
  · have := h.1.1.2
    split at this
    · rename_i c
      rw [if_pos c]
      exact decide_eq_true (Nat.lt_of_lt_of_le (of_decide_eq_true this) hv)
    · rename_i c; rw [if_neg c]; exact use _ _ this
  · have := h.1.2
    split at this
    · rename_i c; rw [if_pos c]
    · rename_i c; rw [if_neg c]; exact use _ _ this
theorem vregOk_legal (t : Team) (r : Nat) (h : vregOk t r = true) : vregOk t.legal r = true :=
  decide_eq_true (Nat.lt_of_lt_of_le (of_decide_eq_true h) (vregs_legal t))
theorem sregOk_legal (t : Team) (r : Nat) (h : sregOk t r = true) : sregOk t.legal r = true :=
  decide_eq_true (Nat.lt_of_lt_of_le (of_decide_eq_true h) (sregs_legal t))
theorem xregOk_legal (t : Team) (r : Nat) (h : xregOk t r = true) : xregOk t.legal r = true := by
  have := sregs_legal t
  simp only [xregOk, Bool.and_eq_true, decide_eq_true_eq] at h ⊢
  exact ⟨h.1, by omega⟩
theorem recordOk_legal (t : Team) (r n : Nat) (h : recordOk t r n = true) : recordOk t.legal r n = true := by
  have := sregs_legal t
  simp only [recordOk, Bool.and_eq_true, decide_eq_true_eq] at h ⊢
  exact ⟨h.1, by omega⟩
theorem qHeaderOk_legal (t : Team) (i : BitVec 3) (h : qHeaderOk t i = true) : qHeaderOk t.legal i = true := predOk_legal t _ h
theorem sOpOk_legal (t : Team) (f : SForm) (x : BitVec 10) (h : sOpOk t f x = true) : sOpOk t.legal f x = true := by
  unfold sOpOk at *
  split at h <;> rename_i c
  · rw [if_pos c]; exact xregOk_legal t _ h
  · rw [if_neg c]; exact sregOk_legal t _ h
@[simp] theorem vSuppressed_unhold (f : VForm) (t : Team) (n : Nat) : vSuppressed f (t.unhold n) = vSuppressed f t := by
  obtain ⟨x, e, -, -⟩ := unhold_eq t n
  rw [e]; rfl
@[simp] theorem part_issued (t : Team) (i : Instr) (s : State) (p : Prd) : (t.issued i s).part p = t.part p := by
  obtain ⟨x, e, -, -⟩ := unhold_eq t s.clock.ac
  unfold Team.issued
  rw [e]
  rfl

/-! ## Columns -/

/-- The passes leave the team as it was but for its time. -/
theorem planOf_keeps (t : Team) (srcs : List (List Nat)) (a b : Bool) :
    (planOf t srcs a b).team.regs = t.regs ∧ (planOf t srcs a b).team.flow = t.flow ∧ TeamKeeps t (planOf t srcs a b).team := by
  unfold planOf
  by_cases h : t.sched.pend = []
  · simp only [h, if_true]; exact ⟨trivial, trivial, TeamKeeps.refl t⟩
  · simp only [h, if_false]; refine ⟨rfl, rfl, ?_⟩; constructor <;> rfl

/-- A column written on some rows. -/
theorem writeCol_v (t : Team) (d : Nat) (rows : RowMask) (g : Nat → Elem) (r : Nat) :
    (writeCol t d rows g).regs.v[r]? = (t.regs.v[r]?).map fun col =>
      if d = r then col.mapIdx fun row old => if rows.getLsbD row then g row else old else col := by
  simp only [writeCol, List.getElem?_modify]
  by_cases h : d = r <;> simp [h]
@[simp] theorem writeCol_s (t : Team) (d : Nat) (rows : RowMask) (g : Nat → Elem) : (writeCol t d rows g).regs.s = t.regs.s := rfl
@[simp] theorem writeCol_p (t : Team) (d : Nat) (rows : RowMask) (g : Nat → Elem) : (writeCol t d rows g).regs.p = t.regs.p := rfl
@[simp] theorem writeCol_q (t : Team) (d : Nat) (rows : RowMask) (g : Nat → Elem) : (writeCol t d rows g).regs.q = t.regs.q := rfl
@[simp] theorem writeCol_flow (t : Team) (d : Nat) (rows : RowMask) (g : Nat → Elem) : (writeCol t d rows g).flow = t.flow := rfl
theorem writeCol_keeps (t : Team) (d : Nat) (rows : RowMask) (g : Nat → Elem) : TeamKeeps t (writeCol t d rows g) := by constructor <;> rfl

theorem landed_keeps (t : Team) (p : VPlan) (ds : List Nat) (lat : Nat) (fx : Bool) :
    (landed t p ds lat fx).regs = t.regs ∧ (landed t p ds lat fx).flow = t.flow ∧ TeamKeeps t (landed t p ds lat fx) := by
  unfold landed
  split
  · exact ⟨rfl, rfl, TeamKeeps.refl t⟩
  · refine ⟨rfl, rfl, ?_⟩; constructor <;> rfl

/-- Writing columns one after another, to distinct registers. -/
theorem writeCols_v {β : Type} (rows : RowMask) (dst : β → Nat) (g : β → Nat → Elem) : ∀ (l : List β) (t : Team), (l.map dst).Nodup →
    (∀ r, (l.foldl (fun t e => writeCol t (dst e) rows (g e)) t).regs.v[r]? = (t.regs.v[r]?).map fun (col : List Elem) =>
      match l.find? fun e => dst e == r with
      | some e => col.mapIdx fun row old => if rows.getLsbD row then g e row else old
      | none => col)
    ∧ (l.foldl (fun t e => writeCol t (dst e) rows (g e)) t).regs.s = t.regs.s
    ∧ (l.foldl (fun t e => writeCol t (dst e) rows (g e)) t).regs.p = t.regs.p
    ∧ (l.foldl (fun t e => writeCol t (dst e) rows (g e)) t).regs.q = t.regs.q
    ∧ (l.foldl (fun t e => writeCol t (dst e) rows (g e)) t).flow = t.flow
    ∧ TeamKeeps t (l.foldl (fun t e => writeCol t (dst e) rows (g e)) t)
  | [], t, _ => ⟨fun r => by simp, rfl, rfl, rfl, rfl, TeamKeeps.refl t⟩
  | e :: l, t, nd => by
    rw [List.map_cons, List.nodup_cons] at nd
    obtain ⟨h1, h2, h3, h4, h5, h6⟩ := writeCols_v rows dst g l (writeCol t (dst e) rows (g e)) nd.2
    refine ⟨fun r => ?_, h2, h3, h4, h5, (writeCol_keeps t _ _ _).trans h6⟩
    simp only [List.foldl_cons]
    rw [h1 r, writeCol_v, Option.map_map]
    congr 1
    funext col
    simp only [Function.comp]
    by_cases hr : dst e = r
    · have hn : (l.find? fun e => dst e == r) = none := by
        rw [List.find?_eq_none]
        intro a ha hd
        exact nd.1 (List.mem_map.mpr ⟨a, ha, by simpa [hr] using hd⟩)
      simp [hn, hr]
    · simp [hr]

/-- The registers of a block are distinct. -/
theorem blockRegs_nodup (b eh : Nat) {ew : Nat} (h : ew ≤ 15) : (blockRegs b eh ew).Nodup := by
  unfold blockRegs
  rw [List.nodup_flatMap]
  refine ⟨fun i _ => List.Nodup.map (fun a c h => by simpa using h) List.nodup_range, ?_⟩
  refine List.Pairwise.imp_of_mem ?_ (List.nodup_range (n := eh + 1))
  intro i j _ _ hij
  simp only [Function.onFun, List.disjoint_left, List.mem_map, List.mem_range]
  rintro _ ⟨x, hx, rfl⟩ ⟨y, hy, hxy⟩
  omega
theorem fieldRegs_nodup (f : VForm) (x : BitVec 8) : (fieldRegs f x).Nodup := blockRegs_nodup _ _ (by have := f.ew.isLt; omega)
/-- A block has (EH + 1) (EW + 1) registers. -/
theorem fieldRegs_length (f : VForm) (x : BitVec 8) : (fieldRegs f x).length = (f.eh.toNat + 1) * (f.ew.toNat + 1) := by
  simp [fieldRegs, blockRegs, List.length_flatMap]
theorem elemSrcs_length (f : VForm) (u : Uses) (k rd : Bool) : (elemSrcs f u k rd).length = (f.eh.toNat + 1) * (f.ew.toNat + 1) := by
  simp [elemSrcs]

/-- Searching for what only one entry meets finds that entry. -/
theorem find_unique {α : Type} {p : α → Bool} {l : List α} {a : α} (ha : a ∈ l) (hp : p a = true) (hu : ∀ b ∈ l, p b = true → b = a) :
    l.find? p = some a := by
  cases h : l.find? p with
  | none => exact absurd hp (by simpa using (List.find?_eq_none.mp h) a ha)
  | some b => rw [hu b (List.mem_of_find?_eq_some h) (List.find?_some h)]

/-- The element of a block that a register is. -/
theorem zipIdx_find {α : Type} (l : List Nat) (xs : List α) (hl : l.length = xs.length) (nd : l.Nodup) (r : Nat) :
    xs.zipIdx.find? (fun x => l.getD x.2 0 == r) = (l.idxOf? r).bind fun e => (xs[e]?).map fun x => (x, e) := by
  cases h : l.idxOf? r with
  | none =>
    rw [List.idxOf?_eq_none_iff] at h
    simp only [Option.bind_none, List.find?_eq_none]
    rintro ⟨x, i⟩ hx
    have hi := List.snd_lt_of_mem_zipIdx hx
    have : i < l.length := by simpa [hl] using hi
    simp only [beq_iff_eq, List.getD_eq_getElem?_getD, List.getElem?_eq_getElem this, Option.getD_some]
    intro he
    exact h (he ▸ List.getElem_mem this)
  | some e =>
    rw [List.idxOf?_eq_some_iff] at h
    obtain ⟨h1, h2, -⟩ := h
    have hx : e < xs.length := by omega
    simp only [Option.bind_some, List.getElem?_eq_getElem hx, Option.map_some]
    refine find_unique ?_ (by simp [h1, h2]) ?_
    · rw [List.mem_zipIdx_iff_getElem?]; simp [hx]
    · rintro ⟨b, i⟩ hb hr
      have hi : i < l.length := by simpa [hl] using List.snd_lt_of_mem_zipIdx hb
      have : l[i] = l[e] := by simpa [hi, h2] using hr
      have hie : i = e := (List.Nodup.getElem_inj_iff nd).mp this
      subst hie
      rw [List.mem_zipIdx_iff_getElem?] at hb
      simp [hx] at hb
      simp [hb]

/-- Keeping every element keeps the list. -/
theorem mapIdx_keep {α : Type} (l : List α) : (l.mapIdx fun _ x => x) = l := by
  apply List.ext_getElem <;> simp

/-- What writing every element of a block leaves. -/
theorem writeElems_spec (s : State) (p : VPlan) (f : VForm) (fn : ElemFn) (srcs : List ElemSrc) (rows : RowMask) (t : Team)
    (hl : srcs.length = (f.eh.toNat + 1) * (f.ew.toNat + 1)) :
    (∀ r, (writeElems s p f fn srcs rows t).regs.v[r]? = (t.regs.v[r]?).map fun (col : List Elem) => col.mapIdx fun row old =>
      if rows.getLsbD row then
        (((fieldRegs f f.d).idxOf? r).bind fun e => (srcs[e]?).map fun src => elemResult s p f fn src e row).getD old
      else old)
    ∧ (writeElems s p f fn srcs rows t).regs.s = t.regs.s ∧ (writeElems s p f fn srcs rows t).regs.p = t.regs.p
    ∧ (writeElems s p f fn srcs rows t).regs.q = t.regs.q ∧ (writeElems s p f fn srcs rows t).flow = t.flow
    ∧ TeamKeeps t (writeElems s p f fn srcs rows t) := by
  have hfl : (fieldRegs f f.d).length = srcs.length := by rw [fieldRegs_length, hl]
  have hm : (srcs.zipIdx.map fun x => (fieldRegs f f.d).getD x.2 0) = fieldRegs f f.d := by
    apply List.ext_getElem (by simp [hfl])
    intro i h1 h2
    simp [h2]
  have key := writeCols_v rows (fun x : ElemSrc × Nat => (fieldRegs f f.d).getD x.2 0) (fun x => elemResult s p f fn x.1 x.2) srcs.zipIdx t
    (by rw [hm]; exact fieldRegs_nodup f f.d)
  obtain ⟨h1, h2⟩ := key
  refine ⟨fun r => ?_, h2⟩
  rw [writeElems, h1 r]
  congr 1
  funext col
  rw [zipIdx_find _ _ hfl (fieldRegs_nodup f f.d)]
  cases (fieldRegs f f.d).idxOf? r with
  | none => simp [mapIdx_keep]
  | some e => cases hs : srcs[e]? with
    | none => simp [hs, mapIdx_keep]
    | some x => simp [hs]

/-- The body of an elementwise instruction that FMT suits and no early read stops. -/
theorem elemBody_eq (f : VForm) (o : VOp) (fn : ElemFn) (s : State) (t : Team) (hf : o.fn = some fn)
    (he : ((planOf t ((elemSrcs f o.uses o.keepB o.readsD).map ElemSrc.regs) true (narrows t o.width)).early
      ((elemSrcs f o.uses o.keepB o.readsD).map ElemSrc.regs) && t.schk.getLsbD 0) = false) :
    elemBody f o s t =
      let srcs := elemSrcs f o.uses o.keepB o.readsD
      let p := planOf t (srcs.map ElemSrc.regs) true (narrows t o.width)
      vFinish s (landed (writeElems s p f fn srcs (t.part f.prd) p.team) p (fieldRegs f f.d) o.lat o.fixed) f.stl p := by
  simp only [elemBody, he, hf, Bool.false_eq_true, if_false]

end Sys2Proof.Machine
end

