-- ==== Sys2Proof/Tests/Slice0.lean ====
section
/-! SUPPORT. The model's own tests: ill-formed instructions that the checks refuse, words written out from the spec's field tables, single steps with results worked by hand from the spec, and a state that meets the hypotheses of each statement. -/

namespace Sys2Proof.Tests

open Sys2Proof.Machine

set_option Elab.async false

/-! ## Small states -/

/-- The number of the test team, its plot and its launch. -/
def tid : Nat := 7
/-- A team of 4 rows, 96 vector registers and 128 scalars in the one bed of plot 2 of launch 3, of domain 1, at slot 0 of line 0x10000, with given scalars; HVEC is enabled with its handler at the entry. -/
def team (sc : List Elem) : Team :=
  let t := newTeam tid ⟨3, 2, 0, 0, 0, 0, 0⟩ ⟨4, 4, 96, 128, 0x8000⟩ ⟨0x10000, 0, 0, 0, 0, false, 1, 0⟩ 0 sc
  { t with trap := { t.trap with hvec := 1 } }
/-- The team's bed: two banks, all channels. -/
def bed : Bed := ⟨0, Scratch.empty, [0, 1], [], 0xFFFF, 0, 1, []⟩
/-- Its plot. -/
def plot : Plot :=
  { uid := 2, launch := 3, index := 0, cluster := 0, scratch := 0x8000, beds := [bed], points := List.replicate 24 Point.reset, stages := [], moves := 0, run := 0,
    runFrom := some 0, evalAt := 0, st := .resident, quiesced := false, haltAt := 0, banks := [] }
/-- Its launch. -/
def launch : Launch :=
  { uid := 3, origin := .queue 0, dom := 1, priv := false, nest := 0, pkt := ⟨0x10000, 0, 4, 96, 128, 0x8000, 1, 1, 0, 1, 0xFFFF, false, 0, 0, 0⟩,
    addr := ⟨0, 0, 0, 0⟩, next := 1, wait := false, ended := 0, fcode := 0, fhflt := 0, fpc := 0, pending := 0, code := 0, spawned := [], tokens := [],
    again := [] }
/-- Memory with a three-level table of domain 1 at 0x10000: virtual page 0 is page 4, readable and writable; virtual page 1 is page 5, executable, whose first line may be landed at in every slot. -/
def mem : Memory := ⟨[(0x10000, 0x03), (0x10002, 0x02), (0x20000, 0x03), (0x20002, 0x03), (0x30000, 0x07), (0x30002, 0x04), (0x30008, 0x0B), (0x3000A, 0x05),
  (0x50000, 0x1F), (0x50003, 0x1F)], []⟩
/-- A core slot of domain 1: valid, DEBUG, MSHARE 4, WEIGHT 1, all granules, banks 0 to 63, all channels. -/
def slot : List Word := [0x80014201, 0x01000000, 0xFFFFFFFF, 0xFFFFFFFF, 0, 0xFFFF, 0, 0, 0, 0, 0, 0, 0, 0, 0, 0]
/-- A core with that slot. -/
def core : Core := { Core.reset with slots := slot :: List.replicate 7 (List.replicate 16 0) }
/-- A cluster whose bank 5 is a FIFO of domain 1 with two entries. -/
def cluster : Cluster :=
  { Cluster.reset with banks := Cluster.reset.banks.set 5 { Bank.reset with mode := .fifo, owner := 1, fifo := [(1, false), (2, true)] } }
/-- One core, one cluster, one die with a team selected in it. -/
def st (t : Team) : State :=
  { State.reset with
    focus := some tid, mem := mem, teams := [t], cores := [core], clusters := [cluster], dies := [Die.reset],
    gov := { Governor.reset with plots := [plot], launches := [launch] },
    mgmt := { Manage.reset with rot := [(1, 1), (2, 1), (3, 1), (4, 1), (5, 1)], domains := [{ Domain.reset 1 with root := 0x10000 }],
                                gates := [(3, [0x10000, 0, 2, 0, 0x80020102, 100, 0, 0])] },
    uid := 10 }
/-- Clean scalars. -/
def sc (l : List Word) : List Elem := l.map Elem.clean

/-- What makes an instruction run, as one check. -/
def runsB (i : Instr) (s : State) (t : Team) : Bool :=
  s.focus == some t.tid && s.team? t.tid == some t && i.wf && (t.gate.isNone || gateAllows i)
    && (t.gate.isSome || t.graft.pending.isNone || graftAllows i) && !interlocked s (t.unhold s.clock.ac) i
theorem runs_of {i : Instr} {s : State} {t : Team} (h : runsB i s t = true) : Runs i s t := by
  simp only [runsB, Bool.and_eq_true, beq_iff_eq, Bool.or_eq_true, Bool.not_eq_true'] at h
  obtain ⟨⟨⟨⟨⟨h1, h2⟩, h3⟩, h4⟩, h5⟩, h6⟩ := h
  refine ⟨h1, h2, h3, fun g => ?_, fun g p => ?_, h6⟩
  · rcases h4 with h4 | h4
    · rw [Option.isNone_iff_eq_none] at h4; simp [h4] at g
    · exact h4
  · rcases h5 with (h5 | h5) | h5
    · rw [g] at h5; cases h5
    · rw [Option.isNone_iff_eq_none] at h5; simp [h5] at p
    · exact h5

/-- Always-true header predicates. -/
def pt : Prd := ⟨false, false, 7⟩
def vf (d a b c : BitVec 8) (ty : VTy) : VForm := ⟨0, pt, d, a, b, c, 0, 0, ty, false, false, 0, 0⟩
def sf (d a b : BitVec 10) (ty : STy) : SForm := ⟨0, false, 7, d, a, b, ty, false, 0, 0⟩
def bf : BForm := ⟨0, false, 7, ⟨false, false, 0⟩, 0, 0, 0, 0⟩
def mf (data : BitVec 8) (base : BitVec 10) (index : BitVec 8) (w : Width) (sco : Scope) (o : Order) (sp : Space) : MForm :=
  ⟨0, pt, data, base, index, w, sco, o, sp, 0, 0⟩
def ef (r : BitVec 10) : EForm := ⟨0, false, 7, r, 0, 0, 31, 0, 0⟩
def yf (d a b : BitVec 10) : YForm := ⟨0, false, 7, d, a, b, 0, false, 0, 0⟩
/-- A word of a whole vector column. -/
def col (l : List Word) : List Elem := l.map Elem.clean
/-- A team with given vector columns from v0 on. -/
def vteam (l : List (List Word)) : Team :=
  let t := team []
  { t with regs := { t.regs with v := l.map col ++ t.regs.v.drop l.length } }
/-- A team with its call stack, or its reconvergence stack, set. -/
def withCs (t : Team) (l : List Pc) : Team := { t with flow := { t.flow with cs := l } }
def withRs (t : Team) (l : List RsEntry) : Team := { t with flow := { t.flow with rs := l } }
def withTrap (t : Team) (g : Trap → Trap) : Team := { t with trap := g t.trap }
/-- The home slot of the test team, where it may land. -/
def home : Pc := ⟨0x10000, 0⟩

/-! ## The hypotheses of the statements can be met: vector and scalar instructions -/

def s0 : State := st (team [])
theorem wit_VectorElementwiseCompletes : ∃ (i : Instr) (f : VForm) (u : Uses) (k : Bool) (o : Team → VOp) (fn : ElemFn) (s : State) (t : Team),
    Claims.elementwise i = some (f, u, k, o) ∧ Runs i s t ∧ vOperandsOk u k f t = true ∧ vSuppressed f t = false ∧ (o (t.issued i s)).fn = some fn
    ∧ Claims.trapsEarly (t.issued i s) (Claims.passesOf f (o (t.issued i s)) (t.issued i s)) ((Claims.srcsOf f (o (t.issued i s))).map ElemSrc.regs) = false :=
  ⟨.vadd (vf 95 0 1 0 .i32), vf 95 0 1 0 .i32, _, _, _, _, s0, team [], rfl, runs_of (by decide +kernel), by decide +kernel, by decide +kernel, rfl, by decide +kernel⟩
theorem wit_VectorIntegerResults : ∃ (i : Instr) (f : VForm) (u : Uses) (k : Bool) (o : Team → VOp) (s : State) (t : Team) (w : Nat) (sg : Bool) (e r row j : Nat)
    (x : BitVec w), Claims.elementwise i = some (f, u, k, o) ∧ Runs i s t ∧ vOperandsOk u k f t = true ∧ vSuppressed f t = false ∧ t.sched.pend = []
    ∧ f.ty ∈ laneTys ∧ intLane f.ty = (w, sg) ∧ (fieldRegs f f.d)[e]? = some r ∧ (t.part f.prd).getLsbD row = true ∧ j < 32 / w
    ∧ (∃ col, t.regs.v[r]? = some col ∧ row < col.length)
    ∧ Claims.laneOp i w sg (Claims.lane w j (t.vget ((aRegs f).getD e 0) row).bits)
      (Claims.lane w j (if f.ib then f.imm else (t.vget ((fieldRegs f f.b).getD e 0) row).bits))
      (Claims.lane w j (t.vget ((fieldRegs f f.c).getD e 0) row).bits) = some x :=
  ⟨.vadd (vf 8 0 1 0 .i8x4), vf 8 0 1 0 .i8x4, _, _, _, s0, team [], 8, true, 0, 8, 3, 3, _, rfl, runs_of (by decide +kernel), by decide +kernel, by decide +kernel, rfl,
    by decide, rfl, rfl, by decide +kernel, by decide, ⟨_, rfl, by decide +kernel⟩, rfl⟩
/-- A team whose FMT names INT8 three times and saturates. -/
def int8 : Team := let t := team []
  { t with flow := { t.flow with fmt := 0x8666 } }
theorem wit_VectorIntegerFmtLanes : ∃ (i : Instr) (f : VForm) (u : Uses) (k : Bool) (o : Team → VOp) (r row j : Nat), Claims.elementwise i = some (f, u, k, o)
    ∧ Runs i (st int8) int8 ∧ vOperandsOk u k f int8 = true ∧ vSuppressed f int8 = false ∧ int8.sched.pend = [] ∧ f.ty = .fmt
    ∧ Claims.fmtLane (fmtA int8) = some (8, true) ∧ Claims.fmtLane (fmtB int8) = some (8, true) ∧ Claims.fmtLane (fmtR int8) = some (8, true)
    ∧ (fieldRegs f f.d)[0]? = some r ∧ (int8.part f.prd).getLsbD row = true ∧ j < 32 / 8 ∧ (∃ col, int8.regs.v[r]? = some col ∧ row < col.length)
    ∧ Claims.fmtLaneOp i 8 100 100 0 = some (200, true) ∧ int8.flow.fmt.getLsbD 15 = true :=
  ⟨.vadd (vf 8 0 1 0 .fmt), vf 8 0 1 0 .fmt, _, _, _, 8, 3, 3, rfl, runs_of (by decide +kernel), by decide +kernel, by decide +kernel, rfl, rfl, rfl, rfl, rfl, rfl,
    by decide +kernel, by decide, ⟨_, rfl, by decide +kernel⟩, rfl, rfl⟩
/-- The team with a fixed-latency result in v0 that is not readable for 100 ac, and SCHK.CHECK set; and with a poisoned element in row 3 of v1. -/
def early : Team := let t := team []
  { t with schk := 1, sched := { t.sched with pend := [⟨0, 100, true, []⟩] } }
def hurt : Team := let t := team []
  { t with regs := { t.regs with v := t.regs.v.set 1 [Elem.zero, Elem.zero, Elem.zero, ⟨0, true⟩] } }
def cmpA (i : Instr) (f : VForm) (t : Team) (row : Nat) : Elem := operand (st t) (Claims.cmpPlan f (t.issued i (st t))) 0 0 row (Claims.cmpSrc f).a 0
def cmpB (i : Instr) (f : VForm) (t : Team) (row : Nat) : Elem := operand (st t) (Claims.cmpPlan f (t.issued i (st t))) 0 1 row (Claims.cmpSrc f).b f.imm
theorem wit_VectorCompareCompletes : ∃ (f : VForm) (t1 t2 t3 : Team),
    Runs (.vcmp f) (st t1) t1 ∧ vOperandsOk ⟨.rowPred, .block, .block, .unused⟩ false f t1 = true ∧ vSuppressed f t1 = false
    ∧ Claims.trapsEarly (t1.issued (.vcmp f) (st t1)) (Claims.cmpPlan f (t1.issued (.vcmp f) (st t1))) [(Claims.cmpSrc f).regs] = true
    ∧ Runs (.vcmp f) (st t2) t2 ∧ vOperandsOk ⟨.rowPred, .block, .block, .unused⟩ false f t2 = true ∧ vSuppressed f t2 = false
    ∧ Claims.trapsEarly (t2.issued (.vcmp f) (st t2)) (Claims.cmpPlan f (t2.issued (.vcmp f) (st t2))) [(Claims.cmpSrc f).regs] = false
    ∧ (3 < t2.foot.rows ∧ (t2.part f.prd).getLsbD 3 = true ∧ ((cmpA (.vcmp f) f t2 3).poison || (cmpB (.vcmp f) f t2 3).poison) = true)
    ∧ Runs (.vcmp f) (st t3) t3 ∧ Runs (.fcmp { f with ty := .f32 }) (st t3) t3
    ∧ vOperandsOk ⟨.rowPred, .block, .block, .unused⟩ false f t3 = true ∧ vSuppressed f t3 = false ∧ t3.sched.pend = []
    ∧ (∀ row, row < t3.foot.rows → (t3.part f.prd).getLsbD row = true → ((cmpA (.vcmp f) f t3 row).poison || (cmpB (.vcmp f) f t3 row).poison) = false)
    ∧ f.d.toNat = 7 :=
  ⟨vf 7 0 1 0 .n32, early, hurt, team [], runs_of (by decide +kernel), by decide +kernel, by decide +kernel, by decide +kernel,
    runs_of (by decide +kernel), by decide +kernel, by decide +kernel, by decide +kernel, by decide +kernel,
    runs_of (by decide +kernel), runs_of (by decide +kernel), by decide +kernel, by decide +kernel, rfl, by decide +kernel, by decide⟩
/-- FADD of two zeros, whose exact value is 0; FDOT2 of zeros; CVT from FP32 to INT8 in lane 3, the last. -/
theorem wit_VectorFloatResults :
    (∃ (i : Instr) (f : VForm) (u : Uses) (k : Bool) (o : Team → VOp) (fn : ElemFn) (t : Team) (r row j : Nat),
      Claims.elementwise i = some (f, u, k, o) ∧ Runs i (st t) t ∧ vOperandsOk u k f t = true ∧ vSuppressed f t = false ∧ t.sched.pend = []
      ∧ (o (t.issued i (st t))).fn = some fn ∧ Claims.floatFmts t f = (fp32, fp32, fp32) ∧ (fieldRegs f f.d)[0]? = some r ∧ (t.part f.prd).getLsbD row = true
      ∧ j < 32 / fp32.width ∧ (∃ col, t.regs.v[r]? = some col ∧ row < col.length)
      ∧ Claims.exactFloat i (fmtMode t) (numIn fp32 false 0) (numIn fp32 false 0) (numIn fp32 false 0) 0 = some 0
      ∧ Claims.nanFloat i (numIn fp32 false 0x7FC00000) (numIn fp32 false 0) (numIn fp32 false 0) = true)
    ∧ (∃ (t : Team) (f : VForm) (g : ElemFn) (v : Nat → Nat → Rat) (w : Rat), (opFdot2 f t).fn = some g
      ∧ (∀ k, k < 2 → Claims.ratOf (numIn (floatTy f.ty) (fmtFtz t) (laneNat 16 k (0 : Word))) = some (v 0 k))
      ∧ Claims.ratOf (numIn fp32 (fmtFtz t) (0 : Word).toNat) = some w)
    ∧ ∃ (t : Team) (f : VForm) (src dst : Code), cvtCodes f t = some (src, dst) ∧ cvtShape src.width dst.width f.sub.toNat = true ∧ f.sub = 3 := by
  refine ⟨⟨.fadd (vf 95 0 1 0 .f32), vf 95 0 1 0 .f32, _, _, _, _, team [], 95, 3, 0, rfl, runs_of (by decide +kernel), by decide +kernel, by decide +kernel, rfl, rfl, rfl, rfl,
    by decide +kernel, by decide, ⟨_, rfl, by decide +kernel⟩, by decide +kernel, by decide +kernel⟩,
    ⟨team [], vf 8 0 1 2 .f16x2, _, fun _ _ => 0, 0, rfl, by decide +kernel, by decide +kernel⟩,
    ⟨team [], { vf 8 6 0 0x30 .i32 with sub := 3 }, _, _, rfl, by decide +kernel, rfl⟩⟩
theorem wit_VectorFixedShapeCompletes : ∃ (i : Instr) (x : Claims.Fixed) (s : State) (t : Team),
    Claims.fixedShape i (t.issued i s) = some x ∧ Runs i s t ∧ x.ok = true ∧ vSuppressed x.form t = false
    ∧ Claims.trapsEarly (t.issued i s) (Claims.fixedPlan x (t.issued i s)) (x.dsts.map fun _ => x.srcs) = false
    ∧ x.bad (rowRegs s (Claims.fixedPlan x (t.issued i s)) x.srcs) (Claims.rowsOf x.form t) = [] :=
  ⟨.vsort (vf 94 0 0 0 .n32), _, s0, team [], rfl, runs_of (by decide +kernel), by decide +kernel, by decide +kernel, by decide +kernel, rfl⟩
theorem wit_VectorCrossRowCompletes : ∃ (i : Instr) (f : VForm) (u : Uses) (b : Bool) (res : List Nat → (Nat → Nat → Elem) → (Nat → Nat → Elem) → Nat → Nat → Elem)
    (s : State) (t : Team), Claims.crossRow i (t.issued i s) = some (f, u, b, res) ∧ Runs i s t ∧ vOperandsOk u false f t = true ∧ vSuppressed f t = false
    ∧ Claims.trapsEarly (t.issued i s) (Claims.crossPlan f b (t.issued i s)) ((Claims.crossSrcs f b).map ElemSrc.regs) = false :=
  ⟨.shfl (vf 95 0 1 0 .i32), _, _, _, _, s0, team [], rfl, runs_of (by decide +kernel), by decide +kernel, by decide +kernel, by decide +kernel⟩
theorem wit_BallotVoteComplete : ∃ (f g : VForm) (s : State) (t : Team), Runs (.ballot f) s t
    ∧ vOperandsOk ⟨.run 1, .anyPred, .unused, .unused⟩ false f t = true ∧ vSuppressed f t = false ∧ Runs (.vote g) s t
    ∧ vOperandsOk ⟨.teamPred, .anyPred, .unused, .unused⟩ false g t = true ∧ vSuppressed g t = false ∧ g.d.toNat < 15
    ∧ (∀ d : BitVec 8, d = 7 ∨ d = 16 → Runs (.vote (vf d 7 0 0 .i32)) s t ∧ vSuppressed (vf d 7 0 0 .i32) t = false ∧ ¬(8 ≤ d.toNat ∧ d.toNat ≤ 15)) ∧ s.focus = some t.tid ∧ s.team? t.tid = some t :=
  ⟨vf 95 15 0 0 .i32, vf 14 7 0 0 .i32, s0, team [], runs_of (by decide +kernel), by decide +kernel, by decide +kernel, runs_of (by decide +kernel), by decide +kernel,
    by decide +kernel, by decide, fun d h => by rcases h with rfl | rfl <;> exact ⟨runs_of (by decide +kernel), by decide +kernel, by decide⟩, rfl, by decide +kernel⟩
theorem wit_CrossRowResults : ∃ (rows : List Nat) (rd : Nat → RowRegs) (key : Nat → Word), rows.Pairwise (· < ·) ∧ (∀ r ∈ rows, r < 1024) ∧ rows.length = 3
    ∧ ∀ r, key r = ((rd r).headD Elem.zero).bits :=
  ⟨[0, 5, 1023], fun r => [Elem.clean (BitVec.ofNat 32 (7 - r))], fun r => BitVec.ofNat 32 (7 - r), by decide, by decide, rfl, fun _ => rfl⟩
/-- Forms and registers of the cross-row and sparse instructions: each TY, SUB and length. -/
theorem wit_CrossRowShapes : (VTy.f16x2 ∈ [VTy.f16x2, .bf16x2, .i8x4]) ∧ Claims.packShape 0 = (4, 2, 2) ∧ Claims.packShape 1 = (8, 4, 3)
    ∧ (∃ regs : RowRegs, regs.length = 8 ∧ (spackRow { vf 8 0 0 0 .i8x4 with sub := 1 } false regs).length = 6)
    ∧ (∃ regs : RowRegs, regs.length = 6 ∧ ∀ j, j + 1 < 2 → Claims.packIndex 2 2 (regs.getD 4 Elem.zero).bits (regs.getD 5 Elem.zero).bits 0 j
        < Claims.packIndex 2 2 (regs.getD 4 Elem.zero).bits (regs.getD 5 Elem.zero).bits 0 (j + 1))
    ∧ (5 : Nat) ∈ [0, 5, 1023] ∧ ∃ ty : VTy, ty ≠ .f32 :=
  ⟨by decide, rfl, rfl, ⟨List.replicate 8 Elem.zero, rfl, by decide +kernel⟩, ⟨[Elem.zero, Elem.zero, Elem.zero, Elem.zero, ⟨4, false⟩, Elem.zero], rfl, fun j h => by
    have : j = 0 := by omega
    subst this; decide +kernel⟩, by decide, .i32, by decide⟩
/-- A team whose FMT names FP32 for A and F4X for the result, and one that names them the other way. -/
def quant : Team := let t := team []
  { t with flow := { t.flow with fmt := 0x500 } }
def dequant : Team := let t := team []
  { t with flow := { t.flow with fmt := 0x005 } }
theorem wit_ApproximateAndBlockResults :
    Claims.ratOf (numIn fp32 (fmtFtz (team [])) (0x40000000 : Word).toNat) = some 2 ∧ numIn fp32 (fmtFtz (team [])) (0x7FC00000 : Word).toNat = .nan
    ∧ ((2 : Rat) = ((2 : Int) : Rat) ∧ (-149 : Int) ≤ 2 ∧ (2 : Int) ≤ 127) ∧ (2 : Rat) = (2 : Rat) ^ (1 : Int) ∧ 4 * (2 : Rat) = ((8 : Int) : Rat)
    ∧ ((2 : Rat) ^ (-1 : Int) ≤ Claims.gap 0 (1 / 2) ∧ Claims.gap 0 (1 / 2) < (2 : Rat) ^ ((-1 : Int) + 1))
    ∧ ((2 : Rat) ^ (2 * (-1) : Int) * 2 ≤ 1 ∧ 1 < (2 : Rat) ^ (2 * ((-1) + 1) : Int) * 2)
    ∧ Claims.ratOf (approx .cos (numIn fp32 false 0) 0) = some 1
    ∧ (∃ sc dc n, blockShape quant (fmtA quant) (fmtR quant) = some (sc, dc, n) ∧ n = 32
        ∧ ∀ i, i < 32 → Claims.ratOf (numIn sc.fmt (fmtFtz quant) (Claims.runLane sc.width ((List.replicate 32 (Elem.clean 0x40000000)).map Elem.bits) i)) = some 2)
    ∧ ∃ dc sc n, blockShape dequant (fmtR dequant) (fmtA dequant) = some (dc, sc, n) ∧ (List.replicate 4 Elem.zero ++ [Elem.clean 0x7F]).length = n * sc.width / 32 + 1
        ∧ Claims.elemRat (fmtA dequant) sc 0 8 = some 0 ∧ (0x7F : Word).toNat % 256 ≠ 0xFF := by
  refine ⟨by decide +kernel, by decide +kernel, by decide +kernel, by decide +kernel, by decide +kernel, by decide +kernel, by decide +kernel, by decide +kernel,
    ⟨_, _, _, rfl, rfl, by decide +kernel⟩, ⟨_, _, _, rfl, by decide +kernel, by decide +kernel, by decide⟩⟩
def pairF : PairForm := ⟨⟨0, 0, 3, 8, 0, 1, 0, 0, .i32, false, 0⟩, ⟨2, 0, 3, 9, 2, 3, 0, 0, .i32, false, 0⟩⟩
theorem wit_PairedWordCompletes : ∃ (f : PairForm) (s : State) (t : Team) (g0 g1 : ElemFn) (o0 o1 : VOp) (p : VPlan),
    Runs (.pairedWord f) s t ∧ pairOk f t = true ∧ o0 = halfOp f.h0.sop f.h0.form (t.issued (.pairedWord f) s)
    ∧ o1 = halfOp f.h1.sop f.h1.form (t.issued (.pairedWord f) s) ∧ o0.fn = some g0 ∧ o1.fn = some g1
    ∧ p = planOf (t.issued (.pairedWord f) s) (((elemSrcs f.h0.form o0.uses false o0.readsD).zip (elemSrcs f.h1.form o1.uses false o1.readsD)).map fun x => x.1.regs ++ x.2.regs)
      false (narrows (t.issued (.pairedWord f) s) o0.width || narrows (t.issued (.pairedWord f) s) o1.width)
    ∧ Claims.trapsEarly t p ((elemSrcs f.h0.form o0.uses false o0.readsD).map ElemSrc.regs) = false
    ∧ Claims.trapsEarly t p ((elemSrcs f.h1.form o1.uses false o1.readsD).map ElemSrc.regs) = false :=
  ⟨pairF, s0, team [], _, _, _, _, _, runs_of (by decide +kernel), by decide +kernel, rfl, rfl, rfl, rfl, rfl, by decide +kernel, by decide +kernel⟩
theorem wit_ScalarIntegerCompletes : ∃ (i : Instr) (f : SForm) (b d : Bool) (op : (w : Nat) → Bool → BitVec w → BitVec w → BitVec w → BitVec w) (s : State) (t : Team),
    Claims.intScalar i = some (f, b, d, op) ∧ Runs i s t ∧ (if b then sDAB f t else sDA f t) = true ∧ sSuppressed f t = false :=
  ⟨.sadd (sf 126 0 2 .i64), _, _, _, _, s0, team [], rfl, runs_of (by decide +kernel), by decide +kernel, by decide +kernel⟩
theorem wit_ScalarFloatCompletes : ∃ (i : Instr) (f : SForm) (d : Bool) (op : Nat → FVal → FVal → FVal → FVal) (s : State) (t : Team),
    Claims.floatScalar i = some (f, d, op) ∧ Runs i s t ∧ sDAB f t = true ∧ sSuppressed f t = false :=
  ⟨.sfadd (sf 127 0 1 .f32), _, _, _, s0, team [], rfl, runs_of (by decide +kernel), by decide +kernel, by decide +kernel⟩
theorem wit_ScalarMovesComplete : ∃ (f : SForm) (s : State) (t : Team), sSuppressed f t = false ∧ Runs (.ssel f) s t ∧ sDAB f t = true
    ∧ (∃ g : SForm, sSuppressed g t = false ∧ Runs (.smov g) s t ∧ qHeaderOk t g.pq = true ∧ sOpOk t g g.d = true ∧ (g.ib = false → sOpOk t g g.a = true))
    ∧ (Runs (.saddx f) s t ∧ qHeaderOk t f.pq = true ∧ xregOk t f.d.toNat = true ∧ xregOk t f.a.toNat = true ∧ (f.ib = false → sregOk t f.b.toNat = true))
    ∧ (Runs (.smadx f) s t ∧ sregOk t f.a.toNat = true)
    ∧ ∃ g : SForm, sSuppressed g t = false ∧ Runs (.scvt g) s t ∧ sDA g t = true :=
  ⟨sf 126 0 5 .i32, s0, team [], by decide +kernel, runs_of (by decide +kernel), by decide +kernel,
    ⟨sf 126 0 0 .i64, by decide +kernel, runs_of (by decide +kernel), by decide +kernel, by decide +kernel, by decide +kernel⟩,
    ⟨runs_of (by decide +kernel), by decide +kernel, by decide +kernel, by decide +kernel, by decide +kernel⟩, ⟨runs_of (by decide +kernel), by decide +kernel⟩,
    ⟨sf 127 0 0 .f32, by decide +kernel, runs_of (by decide +kernel), by decide +kernel⟩⟩
theorem wit_ScalarCompareCompletes : ∃ (f : SForm) (s s' : State) (t t' : Team), Runs (.scmp f) s t ∧ Runs (.sfcmp { f with ty := .f32 }) s t ∧ sCmpOk f t = true
    ∧ sSuppressed f t = false ∧ (sPois t f.ty f.a.toNat || sBPois t f) = false ∧ f.d.toNat < 15
    ∧ Runs (.scmp f) s' t' ∧ sCmpOk f t' = true ∧ sSuppressed f t' = false ∧ (sPois t' f.ty f.a.toNat || sBPois t' f) = true :=
  ⟨sf 14 0 1 .i32, s0, st (team [⟨5, true⟩]), team [], team [⟨5, true⟩], runs_of (by decide +kernel), runs_of (by decide +kernel), by decide +kernel, by decide +kernel,
    by decide +kernel, by decide, runs_of (by decide +kernel), by decide +kernel, by decide +kernel, by decide +kernel⟩
/-- SRDV with an immediate row: the last row, and one past it. -/
theorem wit_SrdvImmediate : ∀ n : Word, n = 3 ∨ n = 4 → let f : SForm := { sf 126 2 0 .n64 with ib := true, imm := n }
    Runs (.srdv f) s0 (team []) ∧ sSuppressed f (team []) = false ∧ qHeaderOk (team []) f.pq = true ∧ sOpOk (team []) f f.d = true ∧ vMoveOk (team []) f.ty f.a.toNat = true
      ∧ (team []).foot.rows = 4 := by
  intro n h
  rcases h with rfl | rfl <;> and_intros <;> first | exact runs_of (by decide +kernel) | decide +kernel
theorem wit_ScalarVectorMovesComplete : ∃ (f g : SForm) (s s' : State) (t t' : Team), sSuppressed f t = false ∧ Runs (.srdv f) s t ∧ qHeaderOk t f.pq = true
    ∧ sOpOk t f f.d = true ∧ vMoveOk t f.ty f.a.toNat = true ∧ sOpOk t f f.b = true ∧ (t.sget f.b.toNat).bits.toNat < t.foot.rows
    ∧ (t.sget f.b.toNat).bits.toNat + 1 = t.foot.rows ∧ Runs (.srdv f) s' t' ∧ (t'.sget f.b.toNat).bits.toNat = t'.foot.rows ∧ sSuppressed f t' = false
    ∧ sOpOk t' f f.d = true ∧ vMoveOk t' f.ty f.a.toNat = true ∧ sOpOk t' f f.b = true
    ∧ Runs (.swrv g) s t ∧ qHeaderOk t g.pq = true ∧ vMoveOk t g.ty g.d.toNat = true ∧ sOpOk t g g.a = true ∧ sSuppressed g t = false :=
  ⟨sf 126 2 2 .n64, sf 94 2 0 .n64, st (team (sc [0, 0, 3])), st (team (sc [0, 0, 4])), team (sc [0, 0, 3]), team (sc [0, 0, 4]), by decide +kernel, runs_of (by decide +kernel),
    by decide +kernel, by decide +kernel, by decide +kernel, by decide +kernel, by decide +kernel, by decide +kernel, runs_of (by decide +kernel), by decide +kernel,
    by decide +kernel, by decide +kernel, by decide +kernel, by decide +kernel, runs_of (by decide +kernel), by decide +kernel, by decide +kernel, by decide +kernel, by decide +kernel⟩

/-! ## Control transfers, exceptions and gates -/

def lf (r : BitVec 10) : BForm := { bf with scalar := r }
/-- LOOP: a poisoned counter; a counter of 2 with a target that may be landed at, and with one that may not; and a counter of 1, which falls through. -/
theorem wit_LoopCompletes : ∃ (f g : BForm) (t1 t2 t3 : Team), bOk f t1 = true ∧ sregOk t1 f.scalar.toNat = true ∧ bSuppressed f t1 = false ∧ Runs (.loop f) (st t1) t1
    ∧ (t1.sget f.scalar.toNat).poison = true
    ∧ bOk f t2 = true ∧ sregOk t2 f.scalar.toNat = true ∧ bSuppressed f t2 = false ∧ Runs (.loop f) (st t2) t2 ∧ (t2.sget f.scalar.toNat).poison = false
    ∧ (t2.sget f.scalar.toNat).bits = 2 ∧ Claims.mayLand (st t2) t2 (Claims.target f t2)
    ∧ bOk g t2 = true ∧ sregOk t2 g.scalar.toNat = true ∧ bSuppressed g t2 = false ∧ Runs (.loop g) (st t2) t2 ∧ (t2.sget g.scalar.toNat).poison = false
    ∧ (t2.sget g.scalar.toNat).bits = 2 ∧ targetFault (st t2) t2.agent (Claims.target g t2) = some 0x09
    ∧ bOk g t3 = true ∧ sregOk t3 g.scalar.toNat = true ∧ bSuppressed g t3 = false ∧ Runs (.loop g) (st t3) t3 ∧ (t3.sget g.scalar.toNat).poison = false
    ∧ (t3.sget g.scalar.toNat).bits = 1 :=
  ⟨lf 0, { lf 0 with disp := 0xFFFC00 }, team [⟨2, true⟩], team (sc [2]), team (sc [1]), by
    and_intros <;> first | exact runs_of (by decide +kernel) | decide +kernel⟩
/-- The cluster's one cache bank is the domain's and quiesced: no line is served. -/
def stalled (s : State) : State :=
  { s with clusters := [{ cluster with banks := cluster.banks.set 63 { Bank.reset with mode := .cache, owner := 1, quiesced := some 1 } }] }
/-- A target whose line has no BT bit, at once and behind a quiesced segment; a BRC that is taken. -/
theorem wit_BranchFaults : ∃ (f g : BForm) (t : Team), bOk f t = true ∧ bSuppressed f t = false ∧ Runs (.bra f) (st t) t ∧ targetFault (st t) t.agent (Claims.target f t) = some 0x03
    ∧ targetStalls (st t) (t.issued (.bra f) (st t)) t.agent (Claims.target f t) = false
    ∧ bOk g t = true ∧ bSuppressed g t = false ∧ Runs (.brc g) (st t) t ∧ targetFault (st t) t.agent (Claims.target g t) = some 0x03
    ∧ (g.cond.team = false ∧ (∃ row, row < 1024 ∧ t.flow.mask.getLsbD row = true) ∧ ∀ row, row < 1024 → t.flow.mask.getLsbD row = true → (t.prdMask g.cond).getLsbD row = true)
    ∧ Runs (.bra f) (stalled (st t)) t ∧ targetFault (stalled (st t)) t.agent (Claims.target f t) = some 0x03
    ∧ targetStalls (stalled (st t)) (t.issued (.bra f) (stalled (st t))) t.agent (Claims.target f t) = true :=
  ⟨{ bf with disp := 1 }, { bf with disp := 1, cond := ⟨false, false, 7⟩ }, team [], by decide +kernel, by decide +kernel, runs_of (by decide +kernel), by decide +kernel, by decide +kernel,
    by decide +kernel, by decide +kernel, runs_of (by decide +kernel), by decide +kernel, ⟨rfl, ⟨0, by decide, by decide +kernel⟩, by decide +kernel⟩, runs_of (by decide +kernel), by decide +kernel, by decide +kernel⟩
/-- A team in its handler, entered with n entries on its call stack. -/
def inTrap (n : Nat) (t : Team) : Team := withTrap t fun x => { x with inHandler := true, inCs := n }
/-- CALL at depth 31 and 32, and to where it may not land; CALLI of a poisoned pair, of a pair with bit 3 set, with slot 5, with bit 55 set, of one that may be landed at at depth 31 and 32, and of a line that is not mapped; RET with an entry above its floor, and at the floor. -/
theorem wit_CallsComplete :
    (∃ (g h : BForm) (t2 t3 t4 : Team), bOk g t2 = true ∧ bSuppressed g t2 = false ∧ Runs (.call g) (st t2) t2 ∧ Claims.mayLand (st t2) t2 (Claims.target g t2) ∧ t2.flow.cs.length = 31
        ∧ bOk h t2 = true ∧ bSuppressed h t2 = false ∧ Runs (.call h) (st t2) t2 ∧ targetFault (st t2) t2.agent (Claims.target h t2) = some 0x09
        ∧ bOk g t3 = true ∧ bSuppressed g t3 = false ∧ Runs (.call g) (st t3) t3 ∧ Claims.mayLand (st t3) t3 (Claims.target g t3) ∧ t3.flow.cs.length = 32
        ∧ Runs (.ret g) (st t3) t3 ∧ t3.flow.cs = home :: List.replicate 31 home ∧ (t3.trap.inHandler = true → t3.trap.inCs ≤ 31)
        ∧ bOk g t4 = true ∧ bSuppressed g t4 = false ∧ Runs (.ret g) (st t4) t4 ∧ t4.trap.inHandler = true ∧ t4.flow.cs.length ≤ t4.trap.inCs ∧ t4.flow.cs ≠ []
        ∧ bOk g (team []) = true ∧ bSuppressed g (team []) = false ∧ Runs (.ret g) s0 (team []) ∧ (team []).flow.cs = [] ∧ (team []).trap.inHandler = false)
    ∧ (∃ t, bOk (lf 0) t = true ∧ bSuppressed (lf 0) t = false ∧ Runs (.calli (lf 0)) (st t) t ∧ xregOk t 0 = true ∧ t.xpois 0 = true)
    ∧ (∀ x ∈ [[0x10008, 0], [0x10005, 0], [0x10004, 0x800000]], let t := team (sc x)
        bOk (lf 0) t = true ∧ bSuppressed (lf 0) t = false ∧ Runs (.calli (lf 0)) (st t) t ∧ xregOk t 0 = true ∧ t.xpois 0 = false
          ∧ ¬((t.xget 0).extractLsb' 55 9 = 0 ∧ (t.xget 0).extractLsb' 3 3 = 0 ∧ ((t.xget 0).extractLsb' 0 3).toNat ≤ 4))
    ∧ (∀ n ∈ [31, 32], let t := withCs (team (sc [0x10004, 0])) (List.replicate n home)
        bOk (lf 0) t = true ∧ bSuppressed (lf 0) t = false ∧ Runs (.calli (lf 0)) (st t) t ∧ xregOk t 0 = true ∧ t.xpois 0 = false
          ∧ ((t.xget 0).extractLsb' 55 9 = 0 ∧ (t.xget 0).extractLsb' 3 3 = 0 ∧ ((t.xget 0).extractLsb' 0 3).toNat = 4) ∧ Claims.mayLand (st t) t (pcOf (t.xget 0)) ∧ t.flow.cs.length = n)
    ∧ (let t := team (sc [0, 0]); bOk (lf 0) t = true ∧ bSuppressed (lf 0) t = false ∧ Runs (.calli (lf 0)) (st t) t ∧ xregOk t 0 = true ∧ t.xpois 0 = false
        ∧ ((t.xget 0).extractLsb' 55 9 = 0 ∧ (t.xget 0).extractLsb' 3 3 = 0 ∧ ((t.xget 0).extractLsb' 0 3).toNat ≤ 4)
        ∧ targetFault (st t) t.agent (pcOf (t.xget 0)) = some 0x09 ∧ t.flow.cs.length < 32) := by
  refine ⟨⟨bf, { bf with disp := 0xFFFC00 }, withCs (team []) (List.replicate 31 home), withCs (team []) (List.replicate 32 home), inTrap 1 (withCs (team []) [home]), ?_⟩,
    ⟨team [⟨2, true⟩], ?_⟩, ?_, ?_, ?_⟩
  · and_intros <;> first | exact runs_of (by decide +kernel) | decide +kernel
  · and_intros <;> first | exact runs_of (by decide +kernel) | decide +kernel
  · intro x h
    simp only [List.mem_cons, List.not_mem_nil, or_false] at h
    rcases h with rfl | rfl | rfl <;> and_intros <;> first | exact runs_of (by decide +kernel) | decide +kernel
  · intro n h
    simp only [List.mem_cons, List.not_mem_nil, or_false] at h
    rcases h with rfl | rfl <;> and_intros <;> first | exact runs_of (by decide +kernel) | decide +kernel
  · and_intros <;> first | exact runs_of (by decide +kernel) | decide +kernel
/-- A CALL at depth 32 that may read the line of its target, and one behind a quiesced segment. -/
theorem wit_CallTooDeep : let t := withCs (team []) (List.replicate 32 home)
    targetStalls (st t) (t.issued (.call bf) (st t)) t.agent (Claims.target bf t) = false
    ∧ Runs (.call bf) (stalled (st t)) t ∧ Claims.mayLand (stalled (st t)) t (Claims.target bf t)
    ∧ targetStalls (stalled (st t)) (t.issued (.call bf) (stalled (st t))) t.agent (Claims.target bf t) = true := by
  and_intros <;> first | exact runs_of (by decide +kernel) | decide +kernel
/-- A BRD to a page that is not mapped, one behind a quiesced segment, and one whose join has no BT bit. -/
theorem wit_BrdFaultsAndWaits : let f : BForm := { bf with disp := 0xFFFC00 }; let g : BForm := { bf with imm := 0x100 }; let t := team []
    Runs (.brd f) s0 t ∧ bOk f t = true ∧ bSuppressed f t = false ∧ targetFault s0 t.agent (Claims.target f t) = some 0x09
    ∧ Runs (.brd bf) (stalled s0) t ∧ bOk bf t = true ∧ bSuppressed bf t = false ∧ Claims.mayLand (stalled s0) t (Claims.target bf t)
    ∧ targetStalls (stalled s0) (t.issued (.brd bf) (stalled s0)) t.agent (Claims.target bf t) = true
    ∧ Runs (.brd g) s0 t ∧ bOk g t = true ∧ bSuppressed g t = false ∧ Claims.mayLand s0 t (Claims.target g t) ∧ targetFault s0 t.agent (brdJoin t g.imm) = some 0x03
    ∧ targetStalls s0 (t.issued (.brd g) s0) t.agent (Claims.target g t) = false ∧ targetStalls s0 (t.issued (.brd g) s0) t.agent (brdJoin t g.imm) = false := by
  and_intros <;> first | exact runs_of (by decide +kernel) | decide +kernel
def entry (v : Bool) : RsEntry := ⟨home, 0xF, 0, 0x5, home, v⟩
/-- A team whose hardware stack is full and that has spilled n entries. -/
def full (n : Nat) : Team := let t := team []
  { t with flow := { t.flow with rs := List.replicate 32 (entry true), spilled := n } }
theorem wit_StackSpills : ∃ (s : State) (t u : Team) (old : RsEntry) (pl : Plot), t.flow.rs.length = 32 ∧ t.flow.rs.getLast? = some old ∧ t.gate = none
    ∧ s.plot? t.place.plot = some pl ∧ t.place.bed < pl.beds.length ∧ (t.place.place * t.foot.scratch : Nat) ≤ spillAt t t.flow.spilled
    ∧ old.join.line &&& 0x7FFFFFFFFFFFC0 = old.join.line ∧ old.join.slot < 8 ∧ old.pt.line &&& 0x7FFFFFFFFFFFC0 = old.pt.line ∧ old.pt.slot < 8
    ∧ u.flow.rs.length = 32 ∧ u.flow.rs.getLast? = some old ∧ u.gate = none ∧ spillAt u u.flow.spilled < (u.place.place * u.foot.scratch : Nat)
    ∧ s.plot? u.place.plot = some pl ∧ u.place.bed < pl.beds.length :=
  ⟨s0, full 101, full 102, entry true, plot, by decide +kernel, by decide +kernel, rfl, by decide +kernel, by decide, by decide +kernel, by decide, by decide, by decide, by decide,
    by decide +kernel, by decide +kernel, rfl, by decide +kernel, by decide +kernel, by decide⟩
def withP (t : Team) (p : List RowMask) : Team := { t with regs := { t.regs with p := p } }
theorem wit_DivergenceCompletes : ∃ (f g : BForm) (t t1 t2 : Team), bOk f t = true ∧ bSuppressed f t = false ∧ Runs (.brd f) (st t) t
    ∧ Claims.mayLand (st t) t (Claims.target f t) ∧ Claims.mayLand (st t) t (brdJoin t f.imm) ∧ t.flow.rs.length < 32
    ∧ t.flow.mask &&& t.prdMask f.cond = 0x5 ∧ t.flow.mask = 0xF
    ∧ targetStalls (st t) (t.issued (.brd f) (st t)) t.agent (Claims.target f t) = false ∧ targetStalls (st t) (t.issued (.brd f) (st t)) t.agent (brdJoin t f.imm) = false
    ∧ bOk g t = true ∧ bSuppressed g t = false ∧ Runs (.rcv g) (st t) t ∧ t.rsDepth = 0
    ∧ bOk g t1 = true ∧ bSuppressed g t1 = false ∧ Runs (.rcv g) (st t1) t1 ∧ t1.rsDepth ≠ 0 ∧ t1.flow.rs = [entry true] ∧ (entry true).t &&& ~~~t1.flow.retired ≠ 0
    ∧ bOk g t2 = true ∧ bSuppressed g t2 = false ∧ Runs (.rcv g) (st t2) t2 ∧ t2.flow.rs = [entry false] ∧ t2.flow.spilled = 0
    ∧ (entry false).m &&& ~~~t2.flow.retired ≠ 0 :=
  ⟨bf, bf, withP (team []) [0x5, 0, 0, 0, 0, 0, 0], withRs (team []) [entry true], withRs (team []) [entry false], by decide +kernel, by decide +kernel,
    runs_of (by decide +kernel), by decide +kernel, by decide +kernel, by decide +kernel, by decide +kernel, by decide +kernel, by decide +kernel, by decide +kernel, by decide +kernel, by decide +kernel,
    runs_of (by decide +kernel), by decide +kernel, by decide +kernel, by decide +kernel, runs_of (by decide +kernel), by decide +kernel, rfl, by decide +kernel,
    by decide +kernel, by decide +kernel, runs_of (by decide +kernel), rfl, rfl, by decide +kernel⟩
theorem wit_BranchesComplete : ∃ (f h k : BForm) (t : Team), bOk f t = true ∧ bSuppressed f t = false ∧ Runs (.bra f) (st t) t
    ∧ Claims.mayLand (st t) t (Claims.target f t)
    ∧ bOk k t = true ∧ bSuppressed k t = false ∧ Runs (.brc k) (st t) t ∧ Claims.mayLand (st t) t (Claims.target k t) ∧ k.cond.team = false ∧ (∃ row, row < 1024 ∧ t.flow.mask.getLsbD row = true)
    ∧ (∀ row, row < 1024 → t.flow.mask.getLsbD row = true → (t.prdMask k.cond).getLsbD row = true)
    ∧ bOk h t = true ∧ bSuppressed h t = false ∧ Runs (.brc h) (st t) t ∧ h.cond.team = true ∧ h.cond.neg = false ∧ t.qget h.cond.index.toNat = false
    ∧ Runs (.nop bf) (st t) t ∧ Runs (.yield bf) (st t) t ∧ bOk bf t = true ∧ bSuppressed bf t = false :=
  ⟨{ bf with slot := 4 }, { bf with cond := ⟨false, true, 0⟩ }, { bf with slot := 4, cond := ⟨true, false, 0⟩ }, team [], by decide +kernel, by decide +kernel,
    runs_of (by decide +kernel), by decide +kernel,
    by decide +kernel, by decide +kernel, runs_of (by decide +kernel), by decide +kernel, rfl,
    ⟨0, by decide, by decide +kernel⟩, by decide +kernel, by decide +kernel, by decide +kernel, runs_of (by decide +kernel), rfl, rfl, by decide +kernel,
    runs_of (by decide +kernel), runs_of (by decide +kernel), by decide +kernel, by decide +kernel⟩
theorem wit_TrapEntry : ∃ (s : State) (t : Team) (f : TrapInfo), (s.team? t.tid).isSome = true ∧ f.code < 256 ∧ f.src < 65536 ∧ t.gate = none
    ∧ t.trap.hvec.getLsbD 0 = true ∧ t.trap.inHandler = false ∧ Claims.mayLand s t (Claims.handlerSlot t) :=
  ⟨s0, team [], ⟨255, true, 65535, 1, some 1, true⟩, by decide +kernel, by decide, by decide, rfl, by decide +kernel, rfl, by decide +kernel⟩
def deaf : Team := withTrap (team []) fun x => { x with hvec := 0 }
def handling : Team := withTrap (team []) fun x => { x with inHandler := true, hmask := 0xF, hmaskIn := 0xF, hpc := 0x10000 }
theorem wit_TrapInstructionCompletes : ∃ (f : BForm) (t t1 t2 : Team) (l l1 : Launch), (st t1).team? t1.tid = some t1 ∧ t1.gate = none
    ∧ t1.trap.hvec.getLsbD 0 = false ∧ (st t1).launch? t1.place.launch = some l ∧ l.ended = 0
    ∧ (st t2).team? t2.tid = some t2 ∧ t2.gate = none ∧ t2.trap.hvec.getLsbD 0 = true ∧ t2.trap.inHandler = true ∧ (st t2).launch? t2.place.launch = some l
    ∧ ({ st t1 with gov := { Governor.reset with launches := [l1] } } : State).launch? t1.place.launch = some l1 ∧ l1.ended ≠ 0
    ∧ bOk f t = true ∧ bSuppressed f t = false ∧ Runs (.trap f) (st t) t ∧ t.gate = none ∧ t.trap.hvec.getLsbD 0 = true ∧ t.trap.inHandler = false
    ∧ Claims.mayLand (st t) t (Claims.handlerSlot t) :=
  ⟨{ bf with imm := 0xFFFFFFFF }, team [], deaf, handling, launch, { launch with ended := 1 }, by decide +kernel, rfl, by decide +kernel, by decide +kernel, rfl,
    by decide +kernel, rfl, by decide +kernel, rfl, by decide +kernel, by decide +kernel, by decide, by decide +kernel, by decide +kernel, runs_of (by decide +kernel), rfl,
    by decide +kernel, rfl, by decide +kernel⟩
def inRegion : Team := { handling with region := { handling.region with valid := true, regpc := 0x10000 } }
/-- HRET.region with no region entered, and with one entered at another depth. -/
theorem wit_RegionRefused : let f : BForm := { bf with imm := 1 }; let u : Team := { inRegion with region := { inRegion.region with rs := 1 } }
    Runs (.hret f) (st handling) handling ∧ bOk f handling = true ∧ bSuppressed f handling = false ∧ handling.trap.inHandler = true ∧ handling.trap.hflt.getLsbD 8 = false
    ∧ handling.region.valid = false ∧ (st handling).launch? handling.place.launch = some launch ∧ launch.ended = 0
    ∧ Runs (.hret f) (st u) u ∧ bOk f u = true ∧ bSuppressed f u = false ∧ u.trap.inHandler = true ∧ u.trap.hflt.getLsbD 8 = false ∧ u.region.valid = true
    ∧ u.trap.inRs ≠ u.region.rs := by
  and_intros <;> first | exact runs_of (by decide +kernel) | decide +kernel
/-- A team in the handler that it entered out of a wait; an HRET.skip of it. -/
def fromWait : Team := withTrap handling fun x => { x with hflt := 0x112, inWait := true }
theorem wit_SkipOutOfWait : Runs (.hret { bf with imm := 2 }) (st fromWait) fromWait ∧ bOk { bf with imm := 2 } fromWait = true ∧ bSuppressed { bf with imm := 2 } fromWait = false
    ∧ fromWait.trap.inHandler = true ∧ fromWait.flow.spilled = 0 ∧ fromWait.sched.wish = [] ∧ fromWait.trap.hflt.getLsbD 8 = true ∧ fromWait.trap.inWait = true := by
  and_intros <;> first | exact runs_of (by decide +kernel) | decide +kernel
theorem wit_ExitAndReturnComplete : ∃ (f f1 f2 : BForm) (t t1 t2 : Team), bOk f t = true ∧ bSuppressed f t = false ∧ Runs (.exit f) (st t) t ∧ t.gate = none
    ∧ Runs (.hret f) (st t) t ∧ t.trap.inHandler = false
    ∧ bOk f t1 = true ∧ bSuppressed f t1 = false ∧ Runs (.hret f) (st t1) t1 ∧ t1.trap.inHandler = true ∧ t1.flow.spilled = 0 ∧ t1.sched.wish = [] ∧ f.imm = 0
    ∧ Runs (.hret f2) (st t1) t1 ∧ f2.imm = 2 ∧ bOk f2 t1 = true ∧ bSuppressed f2 t1 = false
    ∧ bOk f1 t2 = true ∧ bSuppressed f1 t2 = false ∧ Runs (.hret f1) (st t2) t2 ∧ f1.imm = 1 ∧ t2.trap.inHandler = true ∧ t2.trap.hflt.getLsbD 8 = false
    ∧ t2.region.valid = true ∧ t2.trap.inRs = t2.region.rs ∧ t2.trap.inCs = t2.region.cs :=
  ⟨bf, { bf with imm := 1 }, { bf with imm := 2 }, team [], handling, inRegion, by decide +kernel, by decide +kernel, runs_of (by decide +kernel), rfl,
    runs_of (by decide +kernel), rfl, by decide +kernel, by decide +kernel, runs_of (by decide +kernel), rfl, rfl, rfl, rfl, runs_of (by decide +kernel), rfl,
    by decide +kernel, by decide +kernel, by decide +kernel, by decide +kernel, runs_of (by decide +kernel), rfl, rfl, by decide +kernel, rfl, rfl, rfl⟩
/-- The state in a gate of domain 1 into domain 2, whose code the test cannot reach; its own registers and depths are saved. -/
def gateCtx : GateCtx := ⟨(team []).regs, (team []).grans, 96, 128, 1, 0, 0xF, 0, 0, home, 3, 100⟩
def gated : Team := { team [] with gate := some gateCtx }
/-- Gate 3 entered from domain 1 into domain 1 itself, which owns the code. -/
def gateState : State := { s0 with mgmt := { s0.mgmt with gates := [(255, [0x10000, 0, 2, 0, 0x80010102, 100, 0, 0])] } }
theorem wit_GatesComplete : ∃ (f : BForm) (s : State) (t u : Team) (g : List Word) (c : GateCtx), bOk f t = true ∧ bSuppressed f t = false ∧ Runs (.cgate f) s t
    ∧ t.gate = none ∧ g = gateEntry s f.imm.toNat ∧ gateUsable g = true ∧ gateCaller g t.flow.did = true ∧ 8 ≤ t.foot.vregs ∧ 16 ≤ t.foot.sregs
    ∧ quadRoom s t.place.core t.place.quad (gateCallee g) (t.foot.alloc / 32 * ((gateScratch g).1 / 8)) (gateScratch g).2 = true
    ∧ targetFault s { t.agent with dom := gateCallee g } (pcOf (gateCode g)) = none
    ∧ Runs (.cgret bf) s t ∧ bOk bf t = true ∧ bSuppressed bf t = false
    ∧ Runs (.cgret bf) (st u) u ∧ bOk bf u = true ∧ bSuppressed bf u = false ∧ u.gate = some c ∧ u.rsDepth = c.rs ∧ u.flow.cs.length = c.cs ∧ u.sched.wish = []
    ∧ 16 ≤ u.regs.s.length ∧ 4 ≤ u.regs.p.length
    ∧ (carveMoves s (enterGate s (t.issued (.cgate f) s) f.imm.toNat g) && l1Stalls s t.place.core) = false
    ∧ (carveMoves (st u) ((leaveGate (u.issued (.cgret bf) (st u)) c false).setPc c.at_.next) && l1Stalls (st u) u.place.core) = false :=
  ⟨{ bf with imm := 255 }, gateState, team [], gated, _, gateCtx, by decide +kernel, by decide +kernel, runs_of (by decide +kernel), rfl, rfl, by decide +kernel,
    by decide +kernel, by decide +kernel, by decide +kernel, by decide +kernel, by decide +kernel, runs_of (by decide +kernel), by decide +kernel, by decide +kernel,
    runs_of (by decide +kernel), by decide +kernel, by decide +kernel, rfl, rfl, rfl, rfl, by decide +kernel, by decide +kernel, by decide +kernel, by decide +kernel⟩


/-! ## Memory instructions -/

/-- The state that an outcome goes on to. -/
def nextOf (o : Host.Outcome State Fault Refusal) : State := match o with
  | .next s => s
  | _ => State.reset
def isNext (o : Host.Outcome State Fault Refusal) : Bool := match o with
  | .next _ => true
  | _ => false
theorem next_of {o : Host.Outcome State Fault Refusal} (h : isNext o = true) : o = .next (nextOf o) := by cases o <;> simp_all [isNext, nextOf]

def gm (data : BitVec 8) (w : Width) (sco : Scope) : MForm := mf data 126 0xFF w sco .rlx .global
def sm (data : BitVec 8) (w : Width) : MForm := mf data 2 0 w .plot .rlx .scratchpad
/-- The base of scratchpad at its last 16 bytes of the footprint in s2. -/
def st2 : Team := team (sc [0x10000, 0, 0x7FF0, 0])
theorem wit_LoadsComplete : (∃ u, Runs (.ldp (mf 92 126 0xFF .b128 .sys .acq .global)) s0 (team []) ∧ mDataOk (mf 92 126 0xFF .b128 .sys .acq .global) (team []) = true
      ∧ mSuppressed (mf 92 126 0xFF .b128 .sys .acq .global) (team []) = false
      ∧ u = Claims.mTeam (.ldp (mf 92 126 0xFF .b128 .sys .acq .global)) s0 (team []) (indexRegs (mf 92 126 0xFF .b128 .sys .acq .global))
      ∧ Claims.passes s0 u (mf 92 126 0xFF .b128 .sys .acq .global) true false false .read)
    ∧ (∃ u, Runs (.lds (sm 8 .b32)) (st st2) st2 ∧ mDataOk (sm 8 .b32) st2 = true ∧ mSuppressed (sm 8 .b32) st2 = false
      ∧ u = Claims.mTeam (.lds (sm 8 .b32)) (st st2) st2 (indexRegs (sm 8 .b32)) ∧ Claims.passes (st st2) u (sm 8 .b32) false false false .read) :=
  ⟨⟨_, runs_of (by decide +kernel), by decide +kernel, by decide +kernel, rfl, by and_intros <;> decide +kernel⟩,
   ⟨_, runs_of (by decide +kernel), by decide +kernel, by decide +kernel, rfl, by and_intros <;> decide +kernel⟩⟩
theorem wit_L1Room : l1Full s0 (Claims.mTeam (.ldp (mf 92 126 0xFF .b128 .bed .acq .global)) s0 (team []) []) (mf 92 126 0xFF .b128 .bed .acq .global) false
      (okRows (rowAccs s0 (Claims.mTeam (.ldp (mf 92 126 0xFF .b128 .bed .acq .global)) s0 (team []) []) (mf 92 126 0xFF .b128 .bed .acq .global) true .read)) = false
    ∧ l1Full s0 (Claims.mTeam (.stp (gm 92 .b128 .team)) s0 (team []) (dataRegs (gm 92 .b128 .team) 4)) (gm 92 .b128 .team) true
      (okRows (rowAccs s0 (Claims.mTeam (.stp (gm 92 .b128 .team)) s0 (team []) (dataRegs (gm 92 .b128 .team) 4)) (gm 92 .b128 .team) true .write)) = false
    ∧ l1Full s0 (Claims.mTeam (.atom (gm 95 .b32 .bed)) s0 (team []) (dataRegs (gm 95 .b32 .bed) 1)) (gm 95 .b32 .bed) true
      (okRows (rowAccs s0 (Claims.mTeam (.atom (gm 95 .b32 .bed)) s0 (team []) (dataRegs (gm 95 .b32 .bed) 1)) (gm 95 .b32 .bed) false .write)) = false
    ∧ evictStalls s0 0 1 (((Claims.prefetched s0 (Claims.mTeam (.pref (gm 0 .b8 .bed)) s0 (team []) []) (gm 0 .b8 .bed)
      (rowAccs s0 (Claims.mTeam (.pref (gm 0 .b8 .bed)) s0 (team []) []) (gm 0 .b8 .bed) false .read)).filter fun x => x.2 == 0).map (·.1)) = false := by
  and_intros <;> decide +kernel
theorem wit_ConstantLoad : ∃ t : Team, t.stamp.arg = 0x100 ∧ Runs (.ldc (mf 8 126 0xFF .b32 .bed .rlx .constant)) (st t) t
    ∧ mDataOk (mf 8 126 0xFF .b32 .bed .rlx .constant) t = true ∧ mSuppressed (mf 8 126 0xFF .b32 .bed .rlx .constant) t = false
    ∧ Claims.passes (st t) (Claims.mTeam (.ldc (mf 8 126 0xFF .b32 .bed .rlx .constant)) (st t) t (indexRegs (mf 8 126 0xFF .b32 .bed .rlx .constant)))
        (mf 8 126 0xFF .b32 .bed .rlx .constant) false false false .read :=
  ⟨{ team [] with stamp := { (team []).stamp with arg := 0x100 } }, rfl, runs_of (by decide +kernel), by decide +kernel, by decide +kernel, by and_intros <;> decide +kernel⟩
theorem wit_StoresComplete : (∃ u, Runs (.stp (gm 92 .b128 .team)) s0 (team []) ∧ mDataOk (gm 92 .b128 .team) (team []) = true ∧ mSuppressed (gm 92 .b128 .team) (team []) = false
      ∧ u = Claims.mTeam (.stp (gm 92 .b128 .team)) s0 (team []) (indexRegs (gm 92 .b128 .team) ++ dataRegs (gm 92 .b128 .team) (widthRegs Width.b128))
      ∧ Claims.passes s0 u (gm 92 .b128 .team) true true false .write)
    ∧ (∃ u, Runs (.sts (sm 8 .b32)) (st st2) st2 ∧ mDataOk (sm 8 .b32) st2 = true ∧ mSuppressed (sm 8 .b32) st2 = false
      ∧ u = Claims.mTeam (.sts (sm 8 .b32)) (st st2) st2 (indexRegs (sm 8 .b32) ++ dataRegs (sm 8 .b32) (widthRegs Width.b32))
      ∧ Claims.passes (st st2) u (sm 8 .b32) false true false .write) :=
  ⟨⟨_, runs_of (by decide +kernel), by decide +kernel, by decide +kernel, rfl, by and_intros <;> decide +kernel⟩,
   ⟨_, runs_of (by decide +kernel), by decide +kernel, by decide +kernel, rfl, by and_intros <;> decide +kernel⟩⟩
/-- The cluster's bank k, owned by domain 1, quiesced or not. -/
def stq (t : Team) (k : Nat) (q : Option Nat) : State :=
  { st t with clusters := [{ Cluster.reset with banks := Cluster.reset.banks.set k { Bank.reset with owner := 1, quiesced := q } }] }
/-- The last four bytes of plot bank 63, in s2; the bank is the domain's. -/
def bankTeam : Team := team (sc [0x10000, 0, 0xBFFFFC, 0])
def bankState : State := stq bankTeam 63 none
/-- The last row of a packed store, whose bytes no higher row stores to; and the last byte of a scratchpad store to one place by every row. -/
theorem wit_StoredDataIsSeen : (∃ s' pre pa, exec (.stp (gm 92 .b128 .plot)) s0 = .next s'
      ∧ okRows (rowAccs s0 (Claims.mTeam (.stp (gm 92 .b128 .plot)) s0 (team []) (dataRegs (gm 92 .b128 .plot) 4)) (gm 92 .b128 .plot) true .write)
        = pre ++ [(3, 48, .mem pa 0)] ∧ 15 < widthBytes Width.b128 ∧ 2 ≤ mScope (gm 92 .b128 .plot) ∧ isAperture pa = false
      ∧ (∀ l ∈ (s0.core 0).l1, l.line = pa / 128 → l.dom = (team []).flow.did))
    ∧ (∃ s' pre p, exec (.sts (sm 8 .b32)) (st st2) = .next s'
      ∧ okRows (rowAccs (st st2) (Claims.mTeam (.sts (sm 8 .b32)) (st st2) st2 (indexRegs (sm 8 .b32) ++ dataRegs (sm 8 .b32) 1)) (sm 8 .b32) false .write)
        = pre ++ [(3, 0x7FF0, .sp p)] ∧ p.home = .bed 2 0 ∧ (∃ q, (st st2).plot? 2 = some q ∧ 0 < q.beds.length))
    ∧ (∃ s' pre p, exec (.sts (sm 8 .b32)) bankState = .next s'
      ∧ okRows (rowAccs bankState (Claims.mTeam (.sts (sm 8 .b32)) bankState bankTeam (indexRegs (sm 8 .b32) ++ dataRegs (sm 8 .b32) 1)) (sm 8 .b32) false .write)
        = pre ++ [(3, 0xBFFFFC, .sp p)] ∧ p.home = .banks ∧ p.off = 64 * 131072 - 4 ∧ Runs (.sts (sm 8 .b32)) bankState bankTeam
      ∧ clusterOf bankTeam.place.core < bankState.clusters.length ∧ p.off / 131072 < (bankState.cluster (clusterOf bankTeam.place.core)).banks.length)
    ∧ (0 : Nat) < s0.cores.length ∧ isAperture 127 = false ∧ 127 % 128 + ([5] : List Byte).length ≤ 128
    ∧ (∀ l ∈ (s0.core 0).l1, l.line = 127 / 128 → l.dom = 1) :=
  ⟨⟨nextOf (exec (.stp (gm 92 .b128 .plot)) s0), [(0, 0, .mem 0x40000 0), (1, 16, .mem 0x40010 0), (2, 32, .mem 0x40020 0)], 0x40030, next_of (by decide +kernel), by decide +kernel,
    by decide, by decide, by decide +kernel, by decide +kernel⟩,
   ⟨nextOf (exec (.sts (sm 8 .b32)) (st st2)), [(0, 0x7FF0, .sp ⟨.bed 2 0, 0x7FF0⟩), (1, 0x7FF0, .sp ⟨.bed 2 0, 0x7FF0⟩), (2, 0x7FF0, .sp ⟨.bed 2 0, 0x7FF0⟩)], ⟨.bed 2 0, 0x7FF0⟩,
    next_of (by decide +kernel), by decide +kernel, rfl, plot, by decide +kernel, by decide⟩,
   ⟨nextOf (exec (.sts (sm 8 .b32)) bankState), [(0, 0xBFFFFC, .sp ⟨.banks, 0x7FFFFC⟩), (1, 0xBFFFFC, .sp ⟨.banks, 0x7FFFFC⟩), (2, 0xBFFFFC, .sp ⟨.banks, 0x7FFFFC⟩)], ⟨.banks, 0x7FFFFC⟩,
    next_of (by decide +kernel), by decide +kernel, rfl, by decide, runs_of (by decide +kernel), by decide +kernel, by decide +kernel⟩,
   by decide +kernel, by decide +kernel, by decide, by decide +kernel⟩
/-- A team with 1 in every row of v95. -/
def ones : Team := let t := team []
  { t with regs := { t.regs with v := t.regs.v.set 95 (col [1, 1, 1, 1]) } }
theorem wit_AtomicsComplete : (∃ u, Runs (.cas (gm 92 .b64 .sys)) s0 (team []) ∧ mOk 4 4 (gm 92 .b64 .sys) (team []) = true ∧ mSuppressed (gm 92 .b64 .sys) (team []) = false
      ∧ u = Claims.mTeam (.cas (gm 92 .b64 .sys)) s0 (team []) (indexRegs (gm 92 .b64 .sys) ++ dataRegs (gm 92 .b64 .sys) 4)
      ∧ Claims.passes s0 u (gm 92 .b64 .sys) false true false .write)
    ∧ (∃ u, Runs (.atom (gm 95 .b32 .bed)) s0 (team []) ∧ mOk 1 1 (gm 95 .b32 .bed) (team []) = true ∧ mSuppressed (gm 95 .b32 .bed) (team []) = false
      ∧ u = Claims.mTeam (.atom (gm 95 .b32 .bed)) s0 (team []) (indexRegs (gm 95 .b32 .bed) ++ dataRegs (gm 95 .b32 .bed) 1)
      ∧ Claims.passes s0 u (gm 95 .b32 .bed) false true false .write
      ∧ (∃ s1 olds, Claims.atomAll false s0 u (gm 95 .b32 .bed) 1 (atomWrites (gm 95 .b32 .bed) u) (okRows (rowAccs s0 u (gm 95 .b32 .bed) false .write)) = (s1, olds)
        ∧ olds[3]? = some (3, [0, 0, 0, 0], false)) ∧ atomWrites (gm 95 .b32 .bed) u 3 0 = some 0)
    ∧ (∃ u x y, Runs (.atomagg (gm 95 .b32 .bed)) (st ones) ones ∧ mOk 1 1 (gm 95 .b32 .bed) ones = true ∧ mSuppressed (gm 95 .b32 .bed) ones = false
      ∧ u = Claims.mTeam (.atomagg (gm 95 .b32 .bed)) (st ones) ones (indexRegs (gm 95 .b32 .bed) ++ dataRegs (gm 95 .b32 .bed) 1)
      ∧ Claims.passes (st ones) u (gm 95 .b32 .bed) false true false .write
      ∧ l1Full (st ones) u (gm 95 .b32 .bed) true (okRows (rowAccs (st ones) u (gm 95 .b32 .bed) false .write)) = false
      ∧ (okRows (rowAccs (st ones) u (gm 95 .b32 .bed) false .write))[2]? = some x ∧ (okRows (rowAccs (st ones) u (gm 95 .b32 .bed) false .write)).drop 3 = [y]
      ∧ atomPlace y.2.2 = atomPlace x.2.2
      ∧ (∃ s1 olds, Claims.atomAll true (st ones) u (gm 95 .b32 .bed) 1 (atomWrites (gm 95 .b32 .bed) u) (okRows (rowAccs (st ones) u (gm 95 .b32 .bed) false .write)) = (s1, olds)
        ∧ (x.1, [2, 0, 0, 0], false) ∈ olds ∧ (y.1, [3, 0, 0, 0], false) ∈ olds) ∧ atomWrites (gm 95 .b32 .bed) u x.1 2 = some 3) :=
  ⟨⟨_, runs_of (by decide +kernel), by decide +kernel, by decide +kernel, rfl, by and_intros <;> decide +kernel⟩,
   ⟨_, runs_of (by decide +kernel), by decide +kernel, by decide +kernel, rfl, by and_intros <;> decide +kernel, ⟨_, _, Prod.mk.eta.symm, by decide +kernel⟩, by decide +kernel⟩,
   ⟨_, (2, 0, .mem 0x40000 0), (3, 0, .mem 0x40000 0), runs_of (by decide +kernel), by decide +kernel, by decide +kernel, rfl, by and_intros <;> decide +kernel, by decide +kernel,
    by decide +kernel, by decide +kernel, by decide, ⟨_, _, Prod.mk.eta.symm, by decide +kernel, by decide +kernel⟩, by decide +kernel⟩⟩
/-- Bank 5 is the FIFO; s2 holds its number. -/
def fifoTeam : Team := withP (team (sc [0x10000, 0, 5, 0])) [0x3, 0, 0, 0, 0, 0, 0]
def fm : MForm := { mf 95 2 0xFF .b32 .bed .rlx .fifo with prd := ⟨false, false, 0⟩ }
theorem wit_FifoComplete : ∃ b rows, mDataOk fm fifoTeam = true ∧ mSuppressed fm fifoTeam = false ∧ rows = rowList (fifoTeam.part fm.prd) fifoTeam.foot.rows ∧ rows ≠ []
    ∧ fifoFault (st fifoTeam) fifoTeam fm = none ∧ 5 = (fifoAddr fifoTeam fm).toNat % 64
    ∧ ((st fifoTeam).cluster (clusterOf fifoTeam.place.core)).banks[5]? = some b ∧ b.quiesced = none ∧ clusterOf fifoTeam.place.core < (st fifoTeam).clusters.length
    ∧ Runs (.stf fm) (st fifoTeam) fifoTeam ∧ (isRel fm.order = true → releaseStalls (st fifoTeam) 0 1 (mScope fm) = false)
    ∧ releaseStalls (st fifoTeam) 0 1 5 = false ∧ b.fifo.length + rows.length ≤ 8192 ∧ Runs (.ldf fm) (st fifoTeam) fifoTeam ∧ rows.length ≤ b.fifo.length :=
  ⟨{ Bank.reset with mode := .fifo, owner := 1, fifo := [(1, false), (2, true)] }, [0, 1], by decide +kernel, by decide +kernel, by decide +kernel, by decide, by decide +kernel,
    by decide +kernel, by decide +kernel, rfl, by decide +kernel, runs_of (by decide +kernel), by decide +kernel, by decide +kernel, by decide, runs_of (by decide +kernel), by decide⟩
def mon (l : Nat) (w : Option Nat) (a : Option Nat) : Team := let t := team []
  { t with sync := { t.sync with mon := some ⟨0, l, w⟩, mwaitAt := a } }
def late (t : Team) : State := { st t with clock := { (st t).clock with ac := 64 * 2 ^ 15 } }
/-- The line of global 0 in the core's L1, its last byte dirty. -/
def dirtyLine : L1Line := ⟨0x800, 1, 1, 5 <<< 1016, 1 <<< 127, 1 <<< 127, 0, 0⟩
def lined : State := { s0 with cores := [{ core with l1 := [dirtyLine] }] }
def mw : MForm := { gm 0 .b8 .bed with qual := 15 }
theorem wit_CacheAndMonitorComplete : ∃ u v x y, mOk 0 1 mw (team []) = true ∧ mSuppressed mw (team []) = false
    ∧ Runs (.pref (gm 0 .b8 .bed)) s0 (team []) ∧ u = Claims.mTeam (.pref (gm 0 .b8 .bed)) s0 (team []) [] ∧ (∀ r ∈ rowAccs s0 u (gm 0 .b8 .bed) false .read, r.code ≠ some 0x38)
    ∧ (∀ x ∈ Claims.prefetched s0 u (gm 0 .b8 .bed) (rowAccs s0 u (gm 0 .b8 .bed) false .read), segStalls s0 0 x.2 (x.1 * 128) = false)
    ∧ Runs (.cline { gm 0 .b8 .sys with qual := 1 }) s0 (team []) ∧ v = Claims.mTeam (.cline { gm 0 .b8 .sys with qual := 1 }) s0 (team []) []
    ∧ (∀ k : BitVec 4, k ∈ [0, 1, 2] → Runs (.cline { gm 0 .b8 .sys with qual := k }) lined (team [])
      ∧ faultRows (rowAccs lined (Claims.mTeam (.cline { gm 0 .b8 .sys with qual := k }) lined (team []) []) { gm 0 .b8 .sys with qual := k } false (if k = 1 then .inval else .read)) = none
      ∧ rowsHeld lined (Claims.mTeam (.cline { gm 0 .b8 .sys with qual := k }) lined (team []) []) { gm 0 .b8 .sys with qual := k } (k != 1) false
        (rowAccs lined (Claims.mTeam (.cline { gm 0 .b8 .sys with qual := k }) lined (team []) []) { gm 0 .b8 .sys with qual := k } false (if k = 1 then .inval else .read)) = none
      ∧ (0, 0, .mem 0x40000 0) ∈ okRows (rowAccs lined (Claims.mTeam (.cline { gm 0 .b8 .sys with qual := k }) lined (team []) []) { gm 0 .b8 .sys with qual := k } false (if k = 1 then .inval else .read)))
    ∧ l1Find (lined.core 0) 1 0x800 = some dirtyLine ∧ dirtyLine.dirty.getLsbD 127 = true ∧ 3 ≤ scopeNat Scope.sys ∧ isAperture 0x40000 = false ∧ 0 < lined.clusters.length
    ∧ Claims.passes s0 v { gm 0 .b8 .sys with qual := 1 } false true false .inval
    ∧ Runs (.marm (gm 0 .b8 .bed)) s0 (team []) ∧ (okRows (rowAccs s0 (Claims.mTeam (.marm (gm 0 .b8 .bed)) s0 (team []) []) (gm 0 .b8 .bed) false .read)).head? = some x
    ∧ (rowList ((team []).part (gm 0 .b8 .bed).prd) (team []).foot.rows).head? = some x.1
    ∧ Runs (.mwait mw) (st (mon 0x801 none none)) (mon 0x801 none none) ∧ lowestAcc (st (mon 0x801 none none)) (Claims.mTeam (.mwait mw) (st (mon 0x801 none none)) (mon 0x801 none none) []) mw = some y
    ∧ y.code = none ∧ (0, 0x801) ≠ monLine (mon 0x801 none none) (.mem 0x40000 0)
    ∧ Runs (.mwait mw) (st (mon 0x800 (some 3) none)) (mon 0x800 (some 3) none) ∧ (0, 0x800) = monLine (mon 0x800 (some 3) none) (.mem 0x40000 0)
    ∧ Runs (.mwait mw) (late (mon 0x800 none (some 0))) (mon 0x800 none (some 0)) ∧ 0 + 64 * 2 ^ mw.qual.toNat ≤ (late (mon 0x800 none (some 0))).clock.ac
    ∧ y.tgt = .ok (.mem 0x40000 0) :=
  ⟨_, _, (0, 0, .mem 0x40000 0), ⟨0, 0, .ok (.mem 0x40000 0)⟩, by decide +kernel, by decide +kernel, runs_of (by decide +kernel), rfl, by decide +kernel, by decide +kernel,
    runs_of (by decide +kernel), rfl, fun k h => by
      simp only [List.mem_cons, List.not_mem_nil, or_false] at h
      rcases h with rfl | rfl | rfl <;> exact ⟨runs_of (by decide +kernel), by decide +kernel, by decide +kernel, by decide +kernel⟩,
    by decide +kernel, by decide, by decide, by decide +kernel, by decide +kernel, by and_intros <;> decide +kernel, runs_of (by decide +kernel), by decide +kernel, by decide +kernel, runs_of (by decide +kernel), by decide +kernel, rfl, by decide +kernel,
    runs_of (by decide +kernel), by decide +kernel, runs_of (by decide +kernel), by decide +kernel, rfl⟩

/-! ## Synchronisation and system instructions -/

def y (d a b : BitVec 10) (ty : BitVec 3) (ib : Bool) (sub : BitVec 2) (imm : Word) : YForm := ⟨0, false, 7, d, a, b, ty, ib, sub, imm⟩
def waited (n : Nat) (l : List Word) : Team := let t := team (sc l)
  { t with sync := { t.sync with tryw := some n } }
/-- FENCE.sys; WAITC whose counter is at its bound; TRYW of a copy's progress that is met, and one of point 23 that has waited its time. -/
theorem wit_FencesAndWaitsComplete : yOk (y 0 0 0 1 false 1 0) (team []) = true ∧ ySuppressed (y 0 0 0 1 false 1 0) (team []) = false
    ∧ Runs (.fence (y 0 0 0 1 false 1 0)) s0 (team []) ∧ fenceScope (y 0 0 0 1 false 1 0) ≤ 5 ∧ releaseStalls s0 0 1 (fenceScope (y 0 0 0 1 false 1 0)) = false
    ∧ (2 ≤ fenceScope (y 0 0 0 1 false 1 0))
    ∧ Runs (.waitc (y 0 0 0 0 true 3 0)) s0 (team []) ∧ (team []).count 3 ≤ 0
    ∧ Runs (.tryw (y 14 0 1 0 false 1 0)) (st (team (sc [15, 0]))) (team (sc [15, 0])) ∧ qNumOk (team (sc [15, 0])) (y 14 0 1 0 false 1 0).d = true
    ∧ trywMet (y 14 0 1 0 false 1 0) (st (team (sc [15, 0]))) (team (sc [15, 0])) = some true
    ∧ Runs (.tryw (y 15 0 0 0 false 0 0)) (st (waited 2048 [23])) (waited 2048 [23]) ∧ trywMet (y 15 0 0 0 false 0 0) (st (waited 2048 [23])) (waited 2048 [23]) = some false
    ∧ 2048 ≤ trywWaited (st (waited 2048 [23])) (waited 2048 [23]) := by
  and_intros <;> first | exact runs_of (by decide +kernel) | decide +kernel
/-- A state whose plot has one point p, number n. -/
def stp (t : Team) (n : Nat) (p : Point) : State :=
  let s := st t
  { s with gov := { s.gov with plots := [{ plot with points := plot.points.set n p }] } }
def pt0 (live : Bool) (expect : Nat) (phase : BitVec 24) : Point := { Point.reset with live := live, expect := expect, phase := phase }
theorem pointIs_of {s : State} {t : Team} {n : Nat} {p : Point} (h : ((s.plot? t.place.plot).bind fun pl => pl.points[n]?) = some p) : Claims.pointIs s t n p := by
  rwa [Option.bind_eq_some_iff] at h
theorem wit_RendezvousComplete : (Runs (.rvinit (y 0 0 0 0 true 0 0x0000FF17)) s0 (team []) ∧ (0x0000FF17 : Word) &&& 0xFFFF00E0 = 0 ∧ (0x0000FF17 : Word).toNat % 32 < 24
      ∧ Claims.pointIs s0 (team []) 23 Point.reset ∧ boundPending s0 2 23 = false)
    ∧ (Runs (.rvarr (y 0 0 0 0 true 0 23)) s0 (team []) ∧ Claims.pointIs s0 (team []) 23 Point.reset ∧ Point.reset.bound = []
      ∧ (team []).place.teamix ∉ Point.reset.arrived)
    ∧ (Runs (.rvarr (y 0 0 0 0 true 2 23)) (stp (team []) 23 (pt0 false 255 0)) (team []) ∧ Claims.pointIs (stp (team []) 23 (pt0 false 255 0)) (team []) 23 (pt0 false 255 0)
      ∧ releaseStalls (stp (team []) 23 (pt0 false 255 0)) 0 1 2 = false)
    ∧ (Runs (.rvwait (y 15 0 0 0 true 0 23)) (stp (team []) 23 { pt0 true 0 1 with poison := true }) (team []) ∧ qNumOk (team []) (y 15 0 0 0 true 0 23).d = true
      ∧ Claims.pointIs (stp (team []) 23 { pt0 true 0 1 with poison := true }) (team []) 23 { pt0 true 0 1 with poison := true }
      ∧ yOk (y 15 0 0 0 true 0 23) (team []) = true ∧ ySuppressed (y 15 0 0 0 true 0 23) (team []) = false)
    ∧ (Runs (.rvwait (y 8 0 0 0 true 0 23)) (stp (team []) 23 (pt0 true 0 1)) (team []) ∧ qNumOk (team []) (y 8 0 0 0 true 0 23).d = true
      ∧ Claims.pointIs (stp (team []) 23 (pt0 true 0 1)) (team []) 23 (pt0 true 0 1) ∧ ((1 : BitVec 24) - (team []).sync.want.getD 23 1).msb = false)
    ∧ yOk (y 8 0 0 0 true 0 23) (team []) = true ∧ ySuppressed (y 8 0 0 0 true 0 23) (team []) = false := by
  and_intros <;> first | exact runs_of (by decide +kernel) | exact pointIs_of (by decide +kernel) | decide +kernel
theorem wit_SystemWritesComplete : Runs (.setfmt (y 0 0 0 0 true 0 0xFFFFFFFF)) s0 (team []) ∧ Runs (.setfmt (y 0 127 0 0 false 0 0)) s0 (team [])
    ∧ sregOk (team []) 127 = true ∧ ((team []).sget 127).poison = false
    ∧ Runs (.wrsr (y 0 127 0 0 true 0 0x00A)) s0 (team []) ∧ (sysReg s0 ((team []).issued (.wrsr (y 0 127 0 0 true 0 0x00A)) s0) 0x00A).isSome = true
    ∧ Runs (.wrsr (y 0 127 0 0 true 0 0x05F)) (st handling) handling ∧ (sysReg (st handling) (handling.issued (.wrsr (y 0 127 0 0 true 0 0x05F)) (st handling)) 0x05F).isSome = true
    ∧ Runs (.wrsr (y 0 127 0 0 true 0 0x001)) s0 (team []) ∧ (sysReg s0 ((team []).issued (.wrsr (y 0 127 0 0 true 0 0x001)) s0) 0x001).isSome = true
    ∧ handling.trap.inHandler = true ∧ yOk (y 0 127 0 0 true 0 0x00A) (team []) = true ∧ ySuppressed (y 0 127 0 0 true 0 0x00A) (team []) = false := by
  and_intros <;> first | exact runs_of (by decide +kernel) | decide +kernel
theorem wit_SystemReadsComplete : Runs (.rdsr (y 127 0 0 0 true 0 0x10E)) s0 (team []) ∧ yOk (y 127 0 0 0 true 0 0x10E) (team []) = true
    ∧ ySuppressed (y 127 0 0 0 true 0 0x10E) (team []) = false ∧ sregOk (team []) 127 = true
    ∧ (sysReg s0 ((team []).issued (.rdsr (y 127 0 0 0 true 0 0x10E)) s0) 0x10E).isSome = true
    ∧ Runs (.rdsr (y 127 0 0 0 true 0 0xFFFFFFFF)) s0 (team []) ∧ sysReg s0 ((team []).issued (.rdsr (y 127 0 0 0 true 0 0xFFFFFFFF)) s0) 0xFFFFFFFF = none := by
  and_intros <;> first | exact runs_of (by decide +kernel) | decide +kernel
def lively (t : Team) : Team := { t with sync := { t.sync with rvLive := true } }
def prv (l : List Word) : Team := let t := team (sc l)
  { t with stamp := { t.stamp with priv := true } }
/-- The core's L1 has a line with a dirty byte, and the team's bed an extension of one bank of the core, which CARVE with 0 in s0 gives back. -/
def shrinkState : State :=
  let s := st (lively (team (sc [0])))
  { s with cores := [{ core with l1 := [dirtyLine] }], gov := { s.gov with plots := [{ plot with beds := [{ bed with ext := [2] }] }] } }
theorem wit_CarveTlbiCctlComplete :
    (let t := lively (team (sc [0])); let s := shrinkState
      Runs (.carve (y 15 0 0 0 false 0 0)) s t ∧ qNumOk t (y 15 0 0 0 false 0 0).d = true ∧ sregOk t 0 = true ∧ (t.sget 0).poison = false ∧ (s.bed 2 0).producer = t.place.place
      ∧ t.sync.rvLive = true ∧ bedNamed s t = false ∧ t.gate = none ∧ (t.sget 0).bits.toNat ≠ (s.bed 2 0).ext.length ∧ l1Stalls s 0 = false
      ∧ dirtyLine ∈ (s.core 0).l1 ∧ (∀ l' ∈ (s.core 0).l1, l'.line = dirtyLine.line → l' = dirtyLine) ∧ dirtyLine.dirty.getLsbD 127 = true)
    ∧ cellGet (nextOf (exec (.carve (y 15 0 0 0 false 0 0)) shrinkState)).mem.cells (0x800 * 128 + 127) = 5
    ∧ ((nextOf (exec (.carve (y 15 0 0 0 false 0 0)) shrinkState)).bed 2 0).ext = []
    ∧
    (Runs (.carve (y 15 0 0 0 false 0 0)) (st (lively (team (sc [1])))) (lively (team (sc [1]))) ∧ qNumOk (lively (team (sc [1]))) (y 15 0 0 0 false 0 0).d = true
      ∧ ((st (lively (team (sc [1])))).bed 2 0).producer = (lively (team (sc [1]))).place.place ∧ bedNamed (st (lively (team (sc [1])))) (lively (team (sc [1]))) = false
      ∧ (st (lively (team (sc [1])))).plot? 2 = some plot ∧ (lively (team (sc [1]))).place.bed < plot.beds.length ∧ (lively (team (sc [1]))).gate = none
      ∧ l1Stalls (st (lively (team (sc [1])))) 0 = false ∧ ((st (lively (team (sc [1])))).bed 2 0).ext.length < 1 ∧ 2 + 1 ≤ l1Banks (st (lively (team (sc [1])))) 0 ∧ 1 ≤ (freeBanks (st (lively (team (sc [1])))) 0 1).length
      ∧ Runs (.carve (y 15 0 0 0 false 0 0)) (st (lively (team (sc [200])))) (lively (team (sc [200]))) ∧ ¬(2 + 200 ≤ l1Banks (st (lively (team (sc [200])))) 0))
    ∧ (Runs (.tlbi (y 0 126 0 0 true 0 0)) (st (prv [])) (prv []) ∧ xregOk (prv []) 126 = true ∧ (prv []).xpois 126 = false ∧ (prv []).stamp.priv = true
      ∧ Runs (.tlbi (y 0 0 0 0 true 0 2)) (st (prv [])) (prv []) ∧ releaseStalls (st (prv [])) 0 1 4 = false)
    ∧ (Runs (.cctl (y 0 0 0 0 true 0 0)) (stq (team (sc [63])) 63 none) (team (sc [63]))
      ∧ ((stq (team (sc [63])) 63 none).cluster (clusterOf (team (sc [63])).place.core)).banks[63]? = some { Bank.reset with owner := 1 }
      ∧ Runs (.cctl (y 0 0 0 0 true 0 3)) (stq (team (sc [63])) 63 (some 1)) (team (sc [63]))
      ∧ ((stq (team (sc [63])) 63 (some 1)).cluster (clusterOf (team (sc [63])).place.core)).banks[63]? = some { Bank.reset with owner := 1, quiesced := some 1 }
      ∧ Runs (.cctl (y 0 0 0 0 true 0 4)) (stq (team (sc [63])) 63 (some 1)) (team (sc [63]))) := by
  and_intros <;> first | exact runs_of (by decide +kernel) | decide +kernel
/-- The same device with no valid slot on the core: debug is off. -/
def nodebug : State := { s0 with cores := [Core.reset] }
theorem wit_ClockEntropyHaltComplete : Runs (.clk (y 126 0 0 0 true 0 1)) s0 (team []) ∧ xregOk (team []) 126 = true
    ∧ Runs (.rng (y 126 0 0 4 false 0 0)) s0 (team []) ∧ Runs (.rng (y 127 0 0 1 false 0 0)) s0 (team []) ∧ sregOk (team []) 127 = true
    ∧ Runs (.halt (y 0 0 0 0 false 0 0)) s0 (team []) ∧ Runs (.bkpt (y 0 0 0 0 true 0 0x51)) s0 (team []) ∧ (domst s0 (team [])).getLsbD 2 = true
    ∧ Runs (.bkpt (y 0 0 0 0 true 0 0x51)) nodebug (team []) ∧ (domst nodebug (team [])).getLsbD 2 = false
    ∧ yOk (y 126 0 0 0 true 0 1) (team []) = true ∧ ySuppressed (y 126 0 0 0 true 0 1) (team []) = false := by
  and_intros <;> first | exact runs_of (by decide +kernel) | decide +kernel

/-! ## Engine and queue instructions -/

def e (r : BitVec 10) (vop : BitVec 8) (sel rv : BitVec 5) (mod8 : BitVec 8) : EForm := ⟨0, false, 7, r, vop, sel, rv, mod8, 0⟩
/-- CPY of 4 words from global 0 to scratchpad 0x7FF0, the last of the bed; CPYG of 4 words by the index list at 0; on channel 15. -/
def cpyTeam : Team := team (sc [0, 0, 0x7FF0, 0x20, 4, 0, 0, 0])
theorem wit_CopiesIssue : (∃ c, Runs (.cpy (e 0 0 15 31 0)) (st cpyTeam) cpyTeam ∧ eOk 8 (e 0 0 15 31 0) cpyTeam = true ∧ eSuppressed (e 0 0 15 31 0) cpyTeam = false
      ∧ isProducer (st cpyTeam) cpyTeam = true ∧ holdsChan (st cpyTeam) cpyTeam 15 = true ∧ cpyTeam.recordPois 0 8 = false
      ∧ Claims.tableOf (st cpyTeam) (cpyTeam.issued (.cpy (e 0 0 15 31 0)) (st cpyTeam)) (cpyTeam.record 0 8) = some []
      ∧ c = newCopy cpyTeam 0 31 (st cpyTeam).uid (cpyTeam.record 0 8) []
      ∧ layoutBad (st cpyTeam) cpyTeam.spAgent c [] = false ∧ copyBankBad (st cpyTeam) cpyTeam.spAgent c = false
      ∧ copyHeld (st cpyTeam) cpyTeam 15 (copyEntries (st cpyTeam) cpyTeam.spAgent c).length = none
      ∧ cpyTeam.place.core < (st cpyTeam).cores.length ∧ 15 < ((st cpyTeam).core cpyTeam.place.core).chans.length)
    ∧ (∃ c, Runs (.cpyg (e 0 0 15 31 0)) (st cpyTeam) cpyTeam ∧ c = newCopy cpyTeam 1 31 (st cpyTeam).uid (cpyTeam.record 0 8) []
      ∧ layoutBad (st cpyTeam) cpyTeam.spAgent c [] = false ∧ copyBankBad (st cpyTeam) cpyTeam.spAgent c = false
      ∧ copyHeld (st cpyTeam) cpyTeam 15 (copyEntries (st cpyTeam) cpyTeam.spAgent c).length = none) := by
  refine ⟨⟨_, ?_, ?_, ?_, ?_, ?_, ?_, ?_, rfl, ?_⟩, ⟨_, ?_, rfl, ?_⟩⟩ <;> and_intros <;> first | exact runs_of (by decide +kernel) | decide +kernel
theorem wit_ChannelControlCompletes : isProducer s0 (team []) = true ∧ holdsChan s0 (team []) 15 = true ∧ eOk 8 (e 120 0 15 31 0) (team []) = true
    ∧ eSuppressed (e 120 0 15 31 0) (team []) = false ∧ Runs (.wmrd (e 120 0 15 31 0)) s0 (team []) ∧ Runs (.chst (e 120 0 0 31 0)) s0 (team [])
    ∧ Runs (.cpyc (e 0 0 15 31 0)) (st (team (sc [2]))) (team (sc [2])) ∧ ((team (sc [2])).sget 0).poison = false ∧ ((team (sc [2])).sget 0).bits.toNat ≤ 2
    ∧ (0 : Nat) < s0.cores.length ∧ 15 < (s0.core 0).chans.length := by
  and_intros <;> first | exact runs_of (by decide +kernel) | decide +kernel
/-- The team holds the matrix unit. -/
def stm (t : Team) (g : Matrix → Matrix) : State := { st t with cores := [{ core with mx := g { Matrix.reset with holder := some tid } }] }
/-- A record of one row, one column and one K-step, operands at 0 and 64, result at 128, rows 32 bytes apart, C rows 16 apart; FMT of FP16 operands and FP32 result. -/
def mxTeam : Team := let t := team (sc [0, 64, 128, 0, 0, 32, 32, 16, 32, 32, 0, 0, 0, 0, 0, 0])
  { t with flow := { t.flow with fmt := 0x00000011 } }
theorem wit_MatrixCommandsIssue : (mHolds ((stm mxTeam id).mx 0) tid = true ∧ Runs (.mloop (e 0 0 1 31 0)) (stm mxTeam id) mxTeam ∧ Claims.matrixLegal (.mloop (e 0 0 1 31 0)) mxTeam
      ∧ rangesFault (stm mxTeam id) mxTeam.spAgent (mloopRanges (mxTeam.record 0 16) mxTeam.flow.fmt) = none
      ∧ mHeld (stm mxTeam id) mxTeam (mEntries (stm mxTeam id) mxTeam.spAgent 10 1 false (mloopRanges (mxTeam.record 0 16) mxTeam.flow.fmt)).length = none)
    ∧ (Runs (.mzero (e 0 0 1 31 0)) (stm mxTeam id) mxTeam ∧ Claims.matrixLegal (.mzero (e 0 0 1 31 0)) mxTeam ∧ rangesFault (stm mxTeam id) mxTeam.spAgent [] = none
      ∧ mHeld (stm mxTeam id) mxTeam 0 = none)
    ∧ (Runs (.mst (e 0 0 1 31 0)) (stm mxTeam id) mxTeam ∧ Runs (.mlda (e 0 0 1 31 0)) (stm mxTeam id) mxTeam ∧ Claims.matrixLegal (.mst (e 0 0 1 31 0)) mxTeam
      ∧ rangesFault (stm mxTeam id) mxTeam.spAgent [mcRange (mxTeam.record 0 16)] = none ∧ mHeld (stm mxTeam id) mxTeam 1 = none)
    ∧ eSuppressed (e 0 0 1 31 0) mxTeam = false ∧ mxTeam.place.core < (stm mxTeam id).cores.length := by
  simp only [Claims.matrixLegal]
  and_intros <;> first | exact runs_of (by decide +kernel) | decide +kernel
def cmd0 : MCmd := { op := 5, kind := 1, acc := 0, tid := tid, dom := 1, wds := [], fmt := 0, regMeta := [], kdone := 0, started := false, status := 0, finished := false, doomed := false }
def noslot : State := { s0 with cores := [Core.reset] }
theorem wit_MatrixUnitCompletes : (Runs (.macq (e 0 0 0 31 0)) (stm (team []) id) (team []) ∧ mHolds ((stm (team []) id).mx 0) tid = true)
    ∧ (Runs (.macq (e 0 0 0 31 0)) s0 (team []) ∧ mHolds (s0.mx 0) tid = false ∧ 0 < mShare s0 0 1 ∧ 0 < s0.cores.length)
    ∧ (Runs (.macq (e 0 0 0 31 0)) noslot (team []) ∧ mHolds (noslot.mx 0) tid = false ∧ mShare noslot 0 1 = 0)
    ∧ (Runs (.mrel (e 0 0 0 31 0)) (stm (team []) id) (team []) ∧ Runs (.mrel (e 0 0 0 31 0)) (stm (team []) fun m => { m with q := [cmd0] }) (team [])
      ∧ Runs (.mrel (e 0 0 0 31 0)) s0 (team []))
    ∧ (Runs (.mstat (e 120 0 0 31 0)) s0 (team []) ∧ eOk 8 (e 120 0 0 31 0) (team []) = true ∧ eSuppressed (e 120 0 0 31 0) (team []) = false
      ∧ qHeaderOk (team []) (e 120 0 0 31 0).pq = true)
    ∧ (Runs (.mqset (e 0 0 0 31 0)) (stm (team (sc [15])) id) (team (sc [15])) ∧ mHolds ((stm (team (sc [15])) id).mx 0) tid = true
      ∧ mDisplaced ((stm (team (sc [15])) id).mx 0) tid = false ∧ (team (sc [15])).recordPois 0 8 = false ∧ ((team (sc [15])).sget 0).bits.toNat < 16
      ∧ (∀ k, k < 7 → ((team (sc [15])).sget (1 + k)).bits = 0) ∧ mqBusy ((stm (team (sc [15])) id).mx 0) tid 15 = false) := by
  and_intros <;> first | exact runs_of (by decide +kernel) | decide +kernel
/-- ROUTE of one expert on die 0 to return slots at 0, its packets at 0; the index in v8, the payload in v10. -/
def routeTeam : Team := team (sc [0, 0x8000A, 0, 0, 0, 0, 0, 1, 0, 0, 0, 0, 0, 0, 0, 0])
def joinTeam : Team := team (sc [0, 0, 0, 0, 0, 0x10001, 0, 128, 0, 0, 0, 1, 0, 0, 0, 0])
theorem wit_GraftCompletes :
    (Runs (.group (e 0 95 0 31 0x00)) s0 (team []) ∧ eOk 16 (e 0 95 0 31 0x00) (team []) = true ∧ vregOk (team []) 95 = true ∧ eSuppressed (e 0 95 0 31 0x00) (team []) = false
      ∧ (team []).recordPois 0 16 = false ∧ rowsPois (team []) (rowList (team []).flow.mask (team []).foot.rows) (Claims.graftKeys 0 (e 0 95 0 31 0x00) ((team []).record 0 16)) = false
      ∧ groupBad (team []) 95 0x00 ((team []).record 0 16) = false ∧ graftScope 0x00 = 0 ∧ stageOf 0 ((team []).record 0 16) = (0, 0) ∧ (team []).count 2 < 255
      ∧ releaseStalls s0 0 1 2 = false)
    ∧ (Runs (.join (e 0 94 0 31 0x18)) (st joinTeam) joinTeam ∧ joinBad joinTeam 0x18 (joinTeam.record 0 16) = false ∧ keyWide 0x18 = true
      ∧ joinAlignBad (joinTeam.record 0 16) = false ∧ joinTeam.stamp.nest < 8
      ∧ releaseStalls (st joinTeam) 0 1 4 = false)
    ∧ (Runs (.route (e 0 20 0 31 0x14)) (st routeTeam) routeTeam ∧ rowList routeTeam.flow.mask routeTeam.foot.rows = [0, 1, 2, 3]
      ∧ pickGroups (routeTeam.record 0 16) [0] = [0] ∧ 0 < (st routeTeam).dies.length ∧ routeBad (st routeTeam) routeTeam 2 20 (routeTeam.record 0 16) = false
      ∧ slotsStall (st routeTeam) (graftAgent 1 false 0) .write (routeTeam.record 0 16) (routeSlots routeTeam (routeTeam.record 0 16) (rowList routeTeam.flow.mask routeTeam.foot.rows)) 16 = false
      ∧ Runs (.combn (e 0 20 0 31 0x14)) (st routeTeam) routeTeam ∧ routeBad (st routeTeam) routeTeam 3 20 (routeTeam.record 0 16) = false)
    ∧ (Runs (.gstat (e 120 0 0 31 0)) s0 (team []) ∧ eOk 8 (e 120 0 0 31 0) (team []) = true) := by
  and_intros <;> first | exact runs_of (by decide +kernel) | decide +kernel
/-- A capability of domain 1 for queue 0, generation 0, with every right. -/
def cap : DWord := Config.capCheck 0x1C1000#48 ++ 0x1C1000#48
def queue : Queue := { Queue.reset 0 with owner := 1, kind := 1, cap := 16 }
def capTeam : Team := team (sc [cap.extractLsb' 0 32, cap.extractLsb' 32 32, 0, 0, 0, 0, 0, 0])
def stQueue (t : Team) : State := { st t with gov := { (st t).gov with queues := [queue] } }
theorem low_of_append (y : BitVec 16) (x : BitVec 48) (a n : Nat) (h : a + n ≤ 48) : (y ++ x).extractLsb' a n = x.extractLsb' a n := by
  apply BitVec.eq_of_getLsbD_eq
  intro i hi
  have h2 : a + i < 48 := by omega
  simp only [BitVec.getLsbD_extractLsb', BitVec.getLsbD_append, hi, h2, if_true]
theorem genuine_of (x : BitVec 48) : capGenuine (Config.capCheck x ++ x) = true := by
  have h : (Config.capCheck x ++ x).extractLsb' 0 48 = x := by
    rw [low_of_append _ _ 0 48 (Nat.le_refl 48)]; exact BitVec.extractLsb'_eq_self
  have g : (Config.capCheck x ++ x).extractLsb' 48 16 = Config.capCheck x := by
    apply BitVec.eq_of_getLsbD_eq
    intro i hi
    have h2 : ¬ 48 + i < 48 := by omega
    simp only [BitVec.getLsbD_extractLsb', BitVec.getLsbD_append, hi, h2, if_false, Nat.add_sub_cancel_left, decide_true, Bool.true_and]
  rw [capGenuine, h, g, beq_self_eq_true]
theorem pair_halves (c : DWord) : (c.extractLsb' 32 32) ++ (c.extractLsb' 0 32) = c := by
  apply BitVec.eq_of_getLsbD_eq
  intro i hi
  simp only [BitVec.getLsbD_append, BitVec.getLsbD_extractLsb']
  split
  · next h => simp only [h, decide_true, Bool.true_and, Nat.zero_add]
  · next h =>
    have h1 : 32 + (i - 32) = i := by omega
    have h2 : i - 32 < 32 := by omega
    simp only [h1, h2, decide_true, Bool.true_and]
theorem index_of (y : BitVec 16) (x : BitVec 48) : capIndex (y ++ x) = (x.extractLsb' 0 12).toNat ∧ capDomain (y ++ x) = (x.extractLsb' 12 6).toNat
    ∧ capGen (y ++ x) = x.extractLsb' 21 27 ∧ ∀ k, k < 48 → (y ++ x).getLsbD k = x.getLsbD k := by
  refine ⟨?_, ?_, ?_, fun k h => ?_⟩
  · rw [capIndex, low_of_append _ _ 0 12 (by omega)]
  · rw [capDomain, low_of_append _ _ 12 6 (by omega)]
  · rw [capGen, low_of_append _ _ 21 27 (by omega)]
  · simp only [BitVec.getLsbD_append, h, if_true]
theorem cap_opens (k : Nat) (h : k ∈ [18, 19, 20]) : capQueue (stQueue capTeam) cap k = some queue := by
  obtain ⟨h1, h2, h3, h4⟩ := index_of (Config.capCheck 0x1C1000#48) 0x1C1000#48
  have hk : k < 48 ∧ (0x1C1000#48).getLsbD k = true := by
    simp only [List.mem_cons, List.not_mem_nil, or_false] at h
    rcases h with rfl | rfl | rfl <;> decide
  have hq : (stQueue capTeam).queue? 0 = some queue := rfl
  have hr : cap.getLsbD k = true := (h4 k hk.1).trans hk.2
  have i1 : capIndex cap = 0 := h1.trans (by decide)
  have i2 : capDomain cap = 1 := h2.trans (by decide)
  have i3 : capGen cap = 0 := h3.trans (by decide)
  have hf : capFor queue cap k = true := by
    rw [capFor, show capGenuine cap = true from genuine_of _, i1, i2, i3, hr]; rfl
  rw [capQueue, i1, hq]
  show (if capFor queue cap k then some queue else none) = some queue
  rw [hf]; rfl
theorem cap_pair : capTeam.xget 0 = cap := pair_halves cap
theorem cap_runs (i : Instr) (h : runsB i s0 (team []) = true) (g : interlocked (stQueue capTeam) (capTeam.unhold 0) i = false) : Runs i (stQueue capTeam) capTeam := by
  have r := runs_of h
  exact ⟨rfl, rfl, r.legal, fun x => (by cases x), fun _ x => (by cases x), g⟩
theorem wit_QueueOperationsIssue : Runs (.qenq (e 0 0 0 31 0)) (stQueue capTeam) capTeam ∧ Runs (.qdeq (e 0 0 0 31 0)) (stQueue capTeam) capTeam
    ∧ Runs (.qstl (e 0 0 0 31 0)) (stQueue capTeam) capTeam ∧ capQueue (stQueue capTeam) (capTeam.xget 0) 20 = some queue ∧ queue.kind = 1
    ∧ eOk 8 (e 0 0 0 31 0) capTeam = true ∧ eSuppressed (e 0 0 0 31 0) capTeam = false ∧ capTeam.recordPois 0 8 = false ∧ (∀ k, k < 3 → (capTeam.sget (0 + 4 + k)).bits = 0)
    ∧ (capTeam.xget (0 + 2)).toNat % queue.esize = 0 ∧ capTeam.count 3 < 255
    ∧ releaseStalls (stQueue capTeam) 0 1 4 = false ∧ releaseStalls (stQueue capTeam) 0 1 5 = false
    ∧ (Runs (.qenq (e 0 0 0 31 0)) s0 (team []) ∧ capQueue s0 ((team []).xget 0) 18 = none) := by
  refine ⟨cap_runs _ (by decide +kernel) rfl, cap_runs _ (by decide +kernel) rfl, cap_runs _ (by decide +kernel) rfl, ?_, rfl, rfl, rfl, rfl, ?_, rfl, by decide, rfl, rfl, runs_of (by decide +kernel), ?_⟩
  · rw [cap_pair]; exact cap_opens 20 (by decide)
  · intro k hk; have : k = 0 ∨ k = 1 ∨ k = 2 := by omega
    rcases this with rfl | rfl | rfl <;> rfl
  · rfl
/-- QPUT of 4,096 entries to die 0. -/
theorem wit_QputIssues : ∃ t, Runs (.qput (e 0 0 0 31 0)) (st t) t ∧ eOk 8 (e 0 0 0 31 0) t = true ∧ eSuppressed (e 0 0 0 31 0) t = false ∧ t.recordPois 0 8 = false
    ∧ (t.sget 6).bits.toNat = 0x1000 ∧ (0x1000 : Nat) / 8192 % 8 = 0 ∧ 0x1000 % 8192 ≤ 4096 ∧ (t.xget 2).toNat % 16 = 0 ∧ (t.xget 4).toNat % 16 = 0 ∧ t.count 3 < 255 ∧ releaseStalls (st t) 0 1 5 = false ∧ (0x1000 : Nat) < 2 ^ 24 ∧ 1 ≤ (0x1000 : Nat) % 8192 :=
  ⟨team (sc [0, 0, 0, 0, 0, 0, 0x1000, 0]), by and_intros <;> first | exact runs_of (by decide +kernel) | decide +kernel⟩
/-- SPAWN of one plot of one team of one row; DCNT adding to counter 63. -/
def spawnTeam : Team := team (sc ([0, 0, 1, 128, 0, 0, 1] ++ List.replicate 25 0))
/-- A launch that fits a cluster, and one that none can hold: the domain has no slot. -/
theorem wit_SpawnFits : everFits (releaseAt { st spawnTeam with uid := 12 } 0 1 4) (newLaunch 10 (.spawn 0) 1 1 false (spawnTeam.record 0 32)) = true
    ∧ everFits (releaseAt { st spawnTeam with uid := 12, cores := [Core.reset] } 0 1 4) (newLaunch 10 (.spawn 0) 1 1 false (spawnTeam.record 0 32)) = false := by
  and_intros <;> decide +kernel
theorem wit_LaunchInstructionsComplete : (Runs (.spawn (e 0 0 0 31 0)) (st spawnTeam) spawnTeam ∧ eOk 32 (e 0 0 0 31 0) spawnTeam = true ∧ spawnTeam.recordPois 0 32 = false
      ∧ packetBad (spawnTeam.record 0 32) true = false ∧ spawnTeam.stamp.nest < 8 ∧ spawnTeam.count 3 < 255 ∧ releaseStalls (st spawnTeam) 0 1 4 = false
      ∧ ((st spawnTeam).cluster (clusterOf spawnTeam.place.core)).intake.length < 16 ∧ (st spawnTeam).gov.launches.length < 1024 ∧ clusterOf spawnTeam.place.core < (st spawnTeam).clusters.length)
    ∧ (∃ t, Runs (.dcnt (e 0 0 0 31 0)) (st t) t ∧ eOk 8 (e 0 0 0 31 0) t = true ∧ t.recordPois 0 8 = false ∧ (∀ k, k < 4 → (t.sget (0 + 4 + k)).bits = 0)
      ∧ (t.sget 0).bits.toNat = 2 ∧ (t.sget 1).bits.toNat = 63 ∧ eSuppressed (e 0 0 0 31 0) t = false ∧ releaseStalls (st t) 0 1 5 = false)
    ∧ Runs (.govst (e 120 0 0 31 0)) s0 (team []) ∧ eOk 8 (e 120 0 0 31 0) (team []) = true ∧ (team []).recordPois 120 8 = false
    ∧ Runs (.govst (e 0 0 0 31 0)) (st (team [⟨0, true⟩])) (team [⟨0, true⟩]) ∧ eOk 8 (e 0 0 0 31 0) (team [⟨0, true⟩]) = true ∧ (team [⟨0, true⟩]).recordPois 0 8 = true := by
  refine ⟨?_, ⟨team (sc [2, 63, 5]), ?_⟩, ?_⟩ <;> and_intros <;> first | exact runs_of (by decide +kernel) | decide +kernel

/-! ## Device events -/

/-- A line with one instruction in slot 0 and nothing else. -/
def lineWith (w : Slot) : BitVec 512 := BitVec.ofNat 512 (w.toNat * 2 ^ 32)
/-- The team holds that line. -/
def fetched (t : Team) (w : Slot) : Team := { t with line := some ⟨0x10000, 1, lineWith w, none, false⟩ }
/-- The device with no team selected. -/
def idle (t : Team) : State := { st t with focus := none }
def held (t : Team) (h : Hold) : Team := { t with sched := { t.sched with hold := some h } }
def atAc (s : State) (n : Nat) : State := { s with clock := { s.clock with ac := n } }
/-- TRYW of point 23 into q7, and MWAIT of the line of global 0 for 64 ac. -/
def trywWord : Slot := 0xD20781E00000000000000000
def mwaitWord : Slot := 0x8E03800FDFE0800000000000
def arrayOf (t : Team) (p : Pend) : Team := { t with region := { t.region with pend := [p] } }
/-- The team with bursts of its passes left. -/
def bursting (l : List Nat) (t : Team) : Team := { t with sched := { t.sched with burst := l } }
theorem wit_SchedulingEvents :
    (∀ l, l = [] ∨ l = [16, 3] → let t := bursting l (fetched (team []) 0)
      (idle t).focus.bind (idle t).team? = none
      ∧ selectTeam (((quadHolds (idle t) 0 0).core 0).credit.getD 0 []) (issueWeight (quadHolds (idle t) 0 0) 0) (quadReady (quadHolds (idle t) 0 0) 0 0) = some (t, [(1, 0)])
      ∧ t.sched.burst = l)
    ∧ (s0.team? tid = some (team []) ∧ lineHeld (team []) = false ∧ (team []).sched.status = .running ∧ fetchLineOf s0 (team []).agent 0x10000 = .ok 0x1F00001F
      ∧ translate s0 (team []).agent .fetch (0x10000 : DWord).toNat 3 = .ok (0x50000, 0) ∧ fetchStalls s0 0 1 0 0x50000 = false)
    ∧ ((st (fetched (held (team []) .watermark) 0)).team? tid = some (fetched (held (team []) .watermark) 0)
      ∧ holdOver (st (fetched (held (team []) .watermark) 0)) (fetched (held (team []) .watermark) 0) .watermark = true)
    ∧ (∃ f b, fetchInstr (st (fetched (held (waited 2048 [23]) .tryw) trywWord)) (fetched (held (waited 2048 [23]) .tryw) trywWord) = .instr (.tryw f) b
      ∧ 2048 ≤ trywWaited (st (fetched (held (waited 2048 [23]) .tryw) trywWord)) (fetched (held (waited 2048 [23]) .tryw) trywWord)
      ∧ holdOver (st (fetched (held (waited 2048 [23]) .tryw) trywWord)) (fetched (held (waited 2048 [23]) .tryw) trywWord) .tryw = true)
    ∧ (∃ f b, fetchInstr (atAc (st (fetched (held (mon 0x800 none (some 0)) .mwait) mwaitWord)) 64) (fetched (held (mon 0x800 none (some 0)) .mwait) mwaitWord) = .instr (.mwait f) b
      ∧ holdOver (atAc (st (fetched (held (mon 0x800 none (some 0)) .mwait) mwaitWord)) 64) (fetched (held (mon 0x800 none (some 0)) .mwait) mwaitWord) .mwait = true)
    ∧ ((st (mon 0x800 none none)).team? tid = some (mon 0x800 none none) ∧ (mon 0x800 none none).sync.mon = some ⟨0, 0x800, none⟩ ∧ (mon 0x800 none none).sync.lastSpurious = none) := by
  refine ⟨fun l h => ?_, ?_, ?_, ⟨y 15 0 0 0 false 0 0, lineWith trywWord, ?_⟩, ⟨{ gm 0 .b8 .bed with qual := 0 }, lineWith mwaitWord, ?_⟩, ?_⟩
  · rcases h with rfl | rfl <;> decide +kernel
  all_goals and_intros <;> decide +kernel
def pend : Pend := ⟨0x31, 65535, 0x40, 2⟩
theorem wit_FaultDeliveryEvents :
    (∀ done, let t := { team [] with ops := [⟨4, 3, done⟩, ⟨5, 3, true⟩] }; (st t).team? tid = some t ∧ t.ops.find? (fun p => p.cls == 3) = some ⟨4, 3, done⟩)
    ∧ (∀ n, n = 15 ∨ n = 16 → let t := { team [] with region := { (team []).region with pend := List.replicate n pend } }
        ({ st t with reports := [⟨tid, pend⟩] } : State).reports = [⟨tid, pend⟩] ∧ ({ st t with reports := [⟨tid, pend⟩] } : State).team? tid = some t)
    ∧ ((st (arrayOf (team []) pend)).team? tid = some (arrayOf (team []) pend) ∧ dueTrap (arrayOf (team []) pend) = some pend
      ∧ (arrayOf (team []) pend).trap.hvec.getLsbD 0 = true ∧ targetFault (st (arrayOf (team []) pend)) (arrayOf (team []) pend).agent (hvecPc (arrayOf (team []) pend)) = none) := by
  refine ⟨fun done => by cases done <;> decide +kernel, fun n h => ?_, by and_intros <;> decide +kernel⟩
  rcases h with rfl | rfl <;> decide +kernel
/-- A copy at the head of channel 0, of 4 words from global 0 to scratchpad 0. -/
def copy (st : CopySt) (next : Nat) (g : Word) (stop : Bool) : Copy :=
  { op := 5, seq := 5, tid := tid, plot := 2, bed := 0, dom := 1, priv := false, kind := 0, wds := [g, 0, 0, 0x20, 4, 0, 0, 0], dims := [(4, 4, 4)], next := next, st := st,
    cause := 0, faddr := 0, rv := 31, outcome := if st = .marking then 1 else 0, faultOnFreeze := stop, mark := next, hurt := [], fresh := false }
def stc (c : Copy) : State := let t := { team [] with ops := [⟨5, 0, false⟩] }
  { st t with cores := [{ core with chans := core.chans.set 0 { Channel.reset with q := [c] } }] }
def saving (p : Plot) : Plot := { p with st := .saving }
def stPlot (t : Team) (p : Plot) : State := { st t with gov := { (st t).gov with plots := [p] } }
/-- A start, a landing, a freeze of an address that names no page, a stop, a completion, and marks that end. -/
theorem wit_CopyEvents : (headCopy (stc (copy .queued 0 0 false)) 0 0 = some (copy .queued 0 0 false) ∧ ((stc (copy .queued 0 0 false)).chan 0 0).quiesced = false
      ∧ sbStarts (stc (copy .queued 0 0 false)) 0 5 = true)
    ∧ (∀ g stop, (g, stop) = (0, false) ∨ (g, stop) = (0x80000000, false) ∨ (g, stop) = (0x80000000, true) → let c := copy .running 3 g stop
        headCopy (stc c) 0 0 = some c ∧ ((stc c).chan 0 0).quiesced = false ∧ c.next < c.total ∧ (landOne (stc c) 0 0 c).isSome = true)
    ∧ (headCopy (stc (copy .running 4 0 false)) 0 0 = some (copy .running 4 0 false) ∧ (copy .running 4 0 false).total ≤ (copy .running 4 0 false).next)
    ∧ (headCopy (stc (copy .marking 0 0 false)) 0 0 = some (copy .marking 0 0 false) ∧ headCopy (stc (copy .marking 3 0 false)) 0 0 = some (copy .marking 3 0 false)
      ∧ sbStarts (stc (copy .marking 3 0 false)) 0 5 = true ∧ markHeld (stc (copy .marking 3 0 false)) 0 (copy .marking 3 0 false) 3 = false)
    ∧ ((stPlot (team []) (saving plot)).plot? 2 = some (saving plot) ∧ ∀ b ∈ (saving plot).beds, b.core < (stPlot (team []) (saving plot)).cores.length) := by
  refine ⟨by and_intros <;> decide +kernel, fun g stop h => ?_, by and_intros <;> decide +kernel, by and_intros <;> decide +kernel, by and_intros <;> decide +kernel⟩
  rcases h with h | h | h <;> (cases h; decide +kernel)
/-- The copy of a kind and DIR at its last element: CPYS takes its indices at scratchpad 0x100. -/
def copyOf (kind : Nat) (ctl : Word) (g : Word) : Copy := { copy .running 3 g false with kind := kind, wds := [g, 0, 0, ctl, 4, 0x100, 0, 0] }
def gotIs {α : Type} [BEq α] (l : Land α) (x : α) : Bool := match l with
  | .got y => y == x
  | _ => false
theorem got_of {α : Type} [BEq α] [LawfulBEq α] {l : Land α} {x : α} (h : gotIs l x = true) : l = .got x := by cases l <;> simp_all [gotIs]
/-- A landing in scratchpad, one that fails, one in global memory, one of a poisoned index, one in a metadata queue. -/
theorem wit_Landings : (let c := copyOf 0 0x20 0; let s := stc c
      Claims.landFault s 0 c = none ∧ sourceOf s 0 c 3 = .got ([0, 0, 0, 0], false) ∧ c.toQueue = false ∧ c.toGlobal = false
      ∧ ∀ i, i < c.esize → spPlace s (c.spAgent 0) (c.spOf c.next + i) = .ok ⟨.bed 2 0, 12 + i⟩)
    ∧ Claims.landFault (stc (copyOf 0 0x20 0x80000000)) 0 (copyOf 0 0x20 0x80000000) = some (1, 0x8000000C)
    ∧ (let c := copyOf 0 0x120 0; let s := stc c
      Claims.landFault s 0 c = none ∧ (landOne s 0 0 c).isSome = true ∧ c.toGlobal = true ∧ globalDest s 0 c 3 = .got (some 12)
      ∧ translate s (c.agent 0) .write 12 2 = .ok (0x4000C, 0) ∧ isAperture 0x4000C = false)
    ∧ (let c := copyOf 2 0x20 0; let s := (stc c).modBed 2 0 fun b => { b with mem := { b.mem with pois := [16] } }
      Claims.landFault s 0 c = none ∧ (landOne s 0 0 c).isSome = true ∧ c.toGlobal = true ∧ globalDest s 0 c 3 = .got none)
    ∧ (let c := copyOf 6 0x20 0; let s := (stc c).modCore 0 fun x => { x with mx := { x.mx with qowner := 1 } }
      Claims.landFault s 0 c = none ∧ (landOne s 0 0 c).isSome = true ∧ c.toQueue = true) := by
  and_intros <;> first | exact got_of (by decide +kernel) | decide +kernel
/-- A matrix command of the test team. -/
def cmd (kind kdone : Nat) (started : Bool) : MCmd := { cmd0 with kind := kind, kdone := kdone, started := started, wds := mxTeam.record 0 16, fmt := 0x11 }
def stmc (c : MCmd) : State := stm (team []) fun m => { m with q := [c] }
def image : MImage := ⟨tid, 1, 0x340000, [[], []], [[], [], [], []], 1, [], 0, true, false⟩
def other (t : Team) : Team := { t with tid := 8, place := { t.place with teamix := 1 }, stamp := { t.stamp with home := 2 }, flow := { t.flow with did := 2 } }
/-- The test team holds the unit and a team of domain 2 waits for it; the lease is spent. -/
def contended (frozen : Bool) : State :=
  let s := stm (team []) fun m => { m with reqs := [⟨8, 2, 0⟩], leaseUsed := 32768, frozen := frozen, lastDom := 1 }
  { s with teams := [team [], held (other (team [])) .macq] }
theorem wit_MatrixEvents :
    (let s : State := { st (held (team []) .macq) with cores := [{ core with mx := { Matrix.reset with lastDom := 1, reqs := [⟨tid, 1, 0⟩] } }] };
      (∃ r ∈ (s.mx 0).reqs, (s.mx 0).holder = none ∧ r.dom = (s.mx 0).lastDom ∧ reqWaits s r = true ∧ leaseTime s (s.mx 0) < leaseOf s 0 (s.mx 0).lastDom))
    ∧ leaseOut (contended false) 0 = true
    ∧ (let s := stm (withTrap (team []) id) id; (holderStopped { s with teams := [{ team [] with sched := { (team []).sched with status := .haltDebug } }] } 0).1 = true ∧ (s.mx 0).holder.isSome = true)
    ∧ (((contended true).mx 0).holder = some tid ∧ scanOutDue (contended true) 0 = true ∧ mDisplaced ((contended true).mx 0) tid = false)
    ∧ (let s := stm (team []) fun m => { m with images := [image] };
      (s.mx 0).images.find? (fun k => k.tid == tid) = some image ∧ partIntact s image.base mImageSize image.seed image.emerg = true)
    ∧ (∀ k, k < 4 → ((stmc (cmd k 0 false)).mx 0).q = [cmd k 0 false] ∧ mRuns ((stmc (cmd k 0 false)).mx 0) = true ∧ sbStarts (stmc (cmd k 0 false)) 0 5 = true ∧ cmdLost (stmc (cmd k 0 false)) 0 (cmd k 0 false) = false
      ∧ cmdDoomed (stmc (cmd k 0 false)) 0 (cmd k 0 false) = false)
    ∧ (mRuns ((stmc (cmd 0 0 true)).mx 0) = true ∧ (cmd 0 0 true).kdone < mKs (cmd 0 0 true).wds ∧ mMeta (cmd 0 0 true).wds ≠ 1
      ∧ (cmd 0 0 true).acc < ((stmc (cmd 0 0 true)).mx 0).acc.length ∧ (kReads (cmd 0 0 true) 0).any (mReadHeld (stmc (cmd 0 0 true)) 0 (cmd 0 0 true)) = false ∧ cmdLost (stmc (cmd 0 0 true)) 0 (cmd 0 0 true) = false
      ∧ cmdDoomed (stmc (cmd 0 0 true)) 0 (cmd 0 0 true) = false)
    ∧ (mRuns ((stmc (cmd 1 0 true)).mx 0) = true ∧ mRuns ((stmc (cmd 0 1 true)).mx 0) = true ∧ mKs (cmd 0 1 true).wds ≤ (cmd 0 1 true).kdone) := by
  refine ⟨⟨⟨tid, 1, 0⟩, ?_⟩, ?_, ?_, ?_, ?_, ?_, ?_, ?_⟩ <;> (try and_intros) <;> decide +kernel
/-- A complete team-scope GROUP instance of the test team with one row. -/
def inst : Instance :=
  { uid := 4, plot := 2, scope := 0, seq := 1, kind := 0, vop := 0, mod8 := 0, wds := List.replicate 16 0, dom := 1, priv := false, nest := 0, entry := 0x10000,
    deposits := [⟨tid, 5, [(0, 0, [Elem.zero], [], false)]⟩], used := 0, overflow := false, ready := some 0 }
def result : GraftResult := ⟨1, [(0, 1, Elem.zero)], false, 1, 0, 0, 5⟩
def spill : Spill :=
  { inst := 4, dom := 1, priv := false, core := 0, base := 0, slotBytes := 16, next := 0, rows := [[Elem.zero], [Elem.zero]], credited := 0, launch := 0, dropped := 0,
    waiting := [], ops := [], crec := 0, child := none }
def token : Token := { dom := 1, t := 0, rank := 0, group := 0, logits := [0], payload := [Elem.zero], wds := routeTeam.record 0 16, nest := 7, priv := false, op := 5, tid := tid, slot := 0, expert := 0 }
def tile : Tile := ⟨6, 1, 0, 0, [token], 0, 1, none⟩
def stCluster (g : Cluster → Cluster) : State := { s0 with clusters := [g cluster] }
def stDie (g : Die → Die) : State := { s0 with dies := [g Die.reset] }
def stLaunch (l : Launch) : State := { s0 with gov := { s0.gov with plots := [], launches := [l] } }
/-- A JOIN instance of the test team: rows 0 and 2 hold key 0 in the one role and the other. -/
def joinInst : Instance :=
  { inst with kind := 1, wds := joinTeam.record 0 16, deposits := [⟨tid, 5, [(0, 0, [Elem.zero], [], false), (2, 0, [Elem.zero], [], true)]⟩] }
/-- A COMBN instance of token 0, whose one slot stands at address 0. -/
def combnInst : Instance := { inst with kind := 3, wds := routeTeam.record 0 16 }
/-- The slot has returned, with logit 0 and the result 0. -/
def returned (n : Byte) : State :=
  { stCluster fun c => { c with insts := [combnInst] } with mem := ⟨mem.cells.take 8 ++ [(0x40000, n)] ++ mem.cells.drop 8, []⟩ }
theorem wit_JoinAndCombnEvents :
    (nextInst (stCluster fun c => { c with insts := [joinInst] }) 0 = some joinInst ∧ joinInst.overflow = false ∧ (joinInst.deposits.map (·.tid)).Nodup
      ∧ jMcnt joinInst.wds ≠ 255 ∧ (gRows joinInst).length = 2
      ∧ ((gRows joinInst).map fun y => (gRows joinInst).countP fun z => z.roleB != y.roleB && graftKeyEq (graftKty joinInst.mod8) y.key z.key) = [1, 1])
    ∧ (∀ n : Byte, n = 2 ∨ n = 3 → nextInst (returned n) 0 = some combnInst ∧ combnInst.overflow = false ∧ (returned n).team? tid = some (team []) ∧ 0 < rDom combnInst.wds
      ∧ (readSlots (returned n) (graftAgent combnInst.dom combnInst.priv (instCore (returned n) combnInst)) combnInst.wds 0).map (·.1) = [n.toNat])
    ∧ (let y := (readSlots (returned 2) (graftAgent combnInst.dom combnInst.priv (instCore (returned 2) combnInst)) combnInst.wds 0).getD 0 (0, 0, [])
      Claims.ratOf (numOf fp32 y.2.1.toNat) = some 0 ∧ Claims.ratOf (numOf fp32 (y.2.2.getD 0 Elem.zero).bits.toNat) = some 0) := by
  refine ⟨by and_intros <;> decide +kernel, fun n h => ?_, by and_intros <;> decide +kernel⟩
  rcases h with rfl | rfl <;> and_intros <;> decide +kernel
theorem wit_GraftEvents :
    (nextInst (stCluster fun c => { c with insts := [inst] }) 0 = some inst ∧ (inst.deposits.map (·.tid)).Nodup)
    ∧ (let t := { team [] with graft := { (team []).graft with pending := some 5, result := some result } };
      (st t).team? tid = some t ∧ t.graft.result = some result ∧ graftReady (st t) t = true ∧ t.graft.kind ≠ 1 ∧ t.sched.status = .running)
    ∧ (let s := stCluster fun c => { c with spills := [spill] };
      (s.cluster 0).spills.find? (fun p => decide (p.next < p.rows.length)) = some spill ∧ ((s.cluster 0).spills.map (·.inst)).Nodup ∧ spill.next + 1 < spill.rows.length
      ∧ firstFail (graftTrans s (graftAgent 1 false 0) .write) (ringAddr spill 0) (slotBytesOf spill (spill.rows.getD 0 [])).length = none
      ∧ lineStalls s (graftAgent 1 false 0) .write (ringAddr spill 0) (slotBytesOf spill (spill.rows.getD 0 [])).length = false
      ∧ (∀ q ∈ (s.cluster 0).spills, q.next < q.rows.length) ∧ (spill.rows.getD spill.next [])[0]? = some Elem.zero
      ∧ ∀ k, k < (slotBytesOf spill (spill.rows.getD spill.next [])).length →
        graftTrans s (graftAgent spill.dom spill.priv spill.core) .write (ringAddr spill spill.next + k) = .ok (0x40000 + k, 0) ∧ isAperture (0x40000 + k) = false)
    ∧ (((stDie fun d => { d with ingress := [token] }).die 0).ingress = [token] ∧ tokenFits (stDie fun d => { d with ingress := [token] }) 0 token = true
      ∧ slotsStall (stDie fun d => { d with ingress := [token] }) (graftAgent 1 false 0) .write token.wds ((List.range (rK token.wds)).map fun q => (token.t, token.rank * rK token.wds + q)) 16 = false)
    ∧ (let s := atAc (stDie fun d => { d with tiles := [tile] }) 16;
      (s.die 0).tiles.find? (fun y => y.key == 6) = some tile ∧ tileDue s tile = true ∧ s.gov.launches.length < 1024)
    ∧ (let s := { atAc (stDie fun d => { d with tiles := [tile] }) 16 with gov := { Governor.reset with launches := List.replicate 1024 launch } };
      (s.die 0).tiles.find? (fun y => y.key == 6) = some tile ∧ tileDue s tile = true ∧ 1024 ≤ s.gov.launches.length ∧ 0 < s.dies.length)
    ∧ (let l := { launch with origin := .tile 0 }; (stLaunch l).launch? 3 = some l ∧ launchDone (stLaunch l) l = true ∧ tileOrigin l = true) := by
  and_intros <;> decide +kernel
/-- A launch queue of domain 1 with one malformed packet in its store. -/
def lqueue : Queue := { Queue.reset 0 with owner := 1, store := [(List.replicate 128 0, false)] }
def stQ (q : Queue) : State := { s0 with gov := { s0.gov with queues := [q] } }
def entryT (prev : Option Nat) (defer : Bool) : TableEntry := ⟨63, [0, 0, 0, 0, 1, if defer then 0x301 else 0x101, 0, 0], prev, false, 0⟩
def stT (e : TableEntry) : State := { s0 with gov := { s0.gov with table := [e] } }
theorem wit_LaunchEvents :
    ((stQ lqueue).queue? 0 = some lqueue ∧ nextDraw (stQ lqueue) = some (1, [(1, -1)]) ∧ drawable (stQ lqueue) lqueue = true ∧ (stQ lqueue).gov.launches.length < 1024
      ∧ oldestEntry (stQ lqueue) lqueue = some (List.replicate 128 0, false) ∧ packetBad (bytesWords 32 (List.replicate 128 0)) false = true)
    ∧ (let l := { launch with wait := true }; (stLaunch l).launch? 3 = some l ∧ l.wait = true ∧ (depCounter (stLaunch l) 1 (l.pkt.dep.toNat % 64)).toInt ≤ 0)
    ∧ (let l := { launch with addr := ⟨0, 0x20, 0, 0⟩ }; (stLaunch l).launch? 3 = some l ∧ launchDone (stLaunch l) l = true ∧ tileOrigin l = false ∧ l.uid < (stLaunch l).uid
      ∧ l.addr.crec ≠ 0 ∧ l.addr.crec.toNat % 32 = 0 ∧ domTranslate (stLaunch l) 1 true .write 0x20 = .ok (0x40020, 0) ∧ isAperture 0x40020 = false)
    ∧ (∀ prev defer, prev = none ∨ prev = some 3 → (stT (entryT prev defer)).gov.table.find? (fun y => y.id == 63) = some (entryT prev defer) ∧ entryDue (stT (entryT prev defer)) (entryT prev defer) = true
      ∧ entryDefer (entryT prev defer) = defer ∧ (entryT prev defer).held = false)
    ∧ ∃ bs, readVa (stT (entryT none false)) (domTranslate (stT (entryT none false)) 1 true .read) 0 128 = .ok bs := by
  refine ⟨by and_intros <;> decide +kernel, by and_intros <;> decide +kernel, by and_intros <;> decide +kernel, fun prev defer h => ?_, ⟨(List.replicate 128 0, false), by decide +kernel⟩⟩
  rcases h with rfl | rfl <;> cases defer <;> decide +kernel
def qop (kind : Nat) : QOp := { kind := kind, tid := tid, op := 5, queue := 0, owner := 1, dev := 0, rbase := 120, addr := 0, dest := 0, len := 16, dom := 1, priv := false }
def stages : List (DWord × Nat × Nat × Nat) := [(0, 1, 1, 0), (1, 0, 0, 0)]
/-- Two stages: the ring of the first is empty, the second's holds an entry more than its high mark; the test team is in the first. -/
def staged : Launch := { launch with pkt := { launch.pkt with nstage := 2 } }
def roled : Plot := { plot with stages := stages }
def stStage : State :=
  let s := stQ { Queue.reset 1 with owner := 1, kind := 1, store := [(List.replicate 16 0, false)] }
  atAc { s with gov := { s.gov with launches := [staged], plots := [roled] } } 1024
theorem wit_QueueEvents :
    (let s := { stQ queue with gov := { (stQ queue).gov with waiting := [qop 2] } };
      nextQop s = some (qop 2, [(1, -1)]) ∧ s.queue? 0 = some queue ∧ oldestEntry s queue = none ∧ s.team? tid = some (team []) ∧ (team []).gate = none ∧ (qop 2).rbase + 7 < (team []).regs.s.length)
    ∧ (let q := { queue with tail := 1 }; (stQ q).queue? 0 = some q ∧ hostFilled q = false ∧ 0 < ringCount q ∧ q.store.length < 8)
    ∧ (let s := { (stDie fun d => { d with firewall := 4 }) with gov := { s0.gov with sent := [qop 4] } }; portOpen s 0 2 = true ∧ s.gov.sent = [qop 4] ∧ ((3 : Byte).toNat ∈ [0, 2, 3, 4]) ∧ s.team? (qop 4).tid = some (team []))
    ∧ ((List.replicate 16 (0 : Byte)).length % 16 = 0 ∧ (List.replicate 16 (0 : Byte)).length ≤ 65536 ∧ capQueue s0 0 18 = none
      ∧ portOpen (stDie fun d => { d with firewall := 4 }) 0 2 = true ∧ capQueue (stDie fun d => { d with firewall := 4 }) 0 18 = none)
    ∧ (stStage.plot? 2 = some roled ∧ stStage.launch? 3 = some staged ∧ staged.pkt.nstage ≠ 0 ∧ roled.evalAt + 1024 ≤ plotRun stStage roled
      ∧ stageMove stStage { roled with evalAt := roled.evalAt + 1024 } roled.stages = some (tid, 1) ∧ stStage.team? tid = some (team [])) := by
  and_intros <;> decide +kernel
def worked (n : Nat) : Launch := { launch with pkt := { launch.pkt with work := n } }
def stWork (n : Nat) (p : Plot) (ac : Nat) : State := atAc { s0 with gov := { s0.gov with launches := [worked n], plots := [p] } } ac
/-- A core with its slot sliced, in the slice of slot 0, and a second valid slot of domain 2. -/
def sliced : State := { s0 with cores := [{ core with slots := [slot.set 0 0xC0014201, slot.set 0 0xC0014202] ++ core.slots.drop 2, slice := ⟨some 0, 0, 7, []⟩ }] }
def inGate (deadline : Nat) : Team := { team [] with gate := some { gateCtx with deadline := deadline } }
/-- A plot of an idempotent launch without an estimate is restarted; no JOIN owes rows. -/
theorem wit_FlushChoice : let l : Launch := { worked 0 with pkt := { (worked 0).pkt with idem := true } }
    let s : State := { s0 with gov := { s0.gov with launches := [l], plots := [plot] } }
    s.plot? 2 = some plot ∧ plot.st = .resident ∧ s.launch? plot.launch = some l ∧ plot.beds.any (fun b => l1Stalls s b.core) = false
      ∧ preemptChoice (plotRun s plot) l.pkt.work l.pkt.idem = 1 ∧ l.code = 0 ∧ ∀ c, (s.cluster c).spills = [] := by
  refine ⟨by decide +kernel, rfl, by decide +kernel, by decide +kernel, by decide +kernel, rfl, fun c => ?_⟩
  cases c <;> rfl
theorem wit_PreemptionEvents :
    ((stWork 1 plot 16).plot? 2 = some plot ∧ preemptChoice (plotRun (stWork 1 plot 16) plot) (worked 1).pkt.work (worked 1).pkt.idem = 0
      ∧ preemptChoice (plotRun (stWork 0 plot 16) plot) (worked 0).pkt.work (worked 0).pkt.idem = 2 ∧ (s0.teams.map (·.tid)).Nodup
      ∧ plot.beds.any (fun b => l1Stalls (stWork 1 plot 16) b.core) = false ∧ plot.beds.any (fun b => l1Stalls (stWork 0 plot 16) b.core) = false)
    ∧ (let p := { plot with st := .draining 0 }; (stWork 1 p 18800).plot? 2 = some p ∧ 0 + 18800 ≤ (stWork 1 p 18800).clock.ac)
    ∧ ((sliced.core 0).slice.current = some 0 ∧ (sliced.core 0).slice.endsAt ≤ sliced.clock.ns ∧ 0 < (sliced.core 0).slots.length ∧ (slotOfCore sliced 0 0).length = 16
      ∧ (team []).atRest = true)
    ∧ (slotValid (slotOfCore sliced 0 1) = true ∧ slotValid (slotOfCore sliced 0 0) = true ∧ (0, 1) ∉ (sliced.core 0).slice.recalling ∧ recallsOn sliced (dieOf 0) < 20
      ∧ 1 < (sliced.core 0).slots.length ∧ (slotOfCore sliced 0 1).length = 16)
    ∧ ((st (inGate 0)).team? tid = some (inGate 0) ∧ (inGate 0).trap.hvec.getLsbD 0 = true ∧ (inGate 0).trap.inHandler = false ∧ (inGate 0).sched.status = .running ∧ (inGate 0).sched.burst = [] ∧ abortStalls (st (inGate 0)) (inGate 0) { gateCtx with deadline := 0 } = false
      ∧ targetFault (carveChange (st (inGate 0)) { leaveGate (inGate 0) { gateCtx with deadline := 0 } true with gcause := 6 }) ⟨1, (inGate 0).stamp.priv, 0, false⟩ (hvecPc (inGate 0)) = none ∧ 0 ≤ (st (inGate 0)).clock.ac) := by
  and_intros <;> decide +kernel
theorem wit_DomainEvents :
    (let s : State := { s0 with cores := [{ core with issue := [(1, 5)] }], mgmt := { s0.mgmt with domains := [{ Domain.reset 1 with meters := [7] }] } };
      (s.core 0).issue = [(1, 5)] ∧ (s.domain 1).meters[0]? = some 7)
    ∧ ((0 : Nat) < Config.dies ∧ 0 < s0.dies.length)
    ∧ (∃ b, (s0.cluster 0).banks[63]? = some b ∧ (0x00000102 : Word) &&& 0xFFFFFCC0 = 0 ∧ (0x00000102 : Word).extractLsb' 8 2 ≠ 3 ∧ (0x00000102 : Word).extractLsb' 0 6 ≠ BitVec.ofNat 6 b.owner)
    ∧ cslotBad (((List.range 8).filter (· != 7)).map fun k => (s0.cluster 0).slots.getD k []) (0x80000001 :: List.replicate 67 0) = false
    ∧ estateBad s0 0 (cslotDomain (0x80000001 :: List.replicate 67 0)) = false
    ∧ ((rotEntry s0 5).extractLsb' 0 6 ≠ (0x0002 &&& 0x803F : BitVec 16).extractLsb' 0 6 ∧ (rotEntry s0 5).getLsbD 15 = false
      ∧ (let s : State := { s0 with mgmt := { s0.mgmt with rot := [(5, 0x8001)] } }; (rotEntry s 5).getLsbD 15 = true ∧ (rotEntry s 5).extractLsb' 0 6 ≠ (0x0002 &&& 0x803F : BitVec 16).extractLsb' 0 6))
    ∧ (let s : State := { s0 with teams := [] };
      (s.die 0).firewall.getLsbD 31 = false ∧ (0x80070007 : Word) &&& 0x7FF8FFF8 = 0 ∧ firewallBad s 0 0x80070007 = false ∧ firewallSplits s 0 0x80070007 = false ∧ (∀ t ∈ s.teams, dieOf t.place.core ≠ 0)
      ∧ (∀ t ∈ (stPlot (team []) { plot with st := .saved }).teams, teamPlaced (stPlot (team []) { plot with st := .saved }) t = false)
      ∧ ((stDie fun d => { d with firewall := 0x80000000 }).die 0).firewall.getLsbD 31 = true)
    ∧ (windowBad (((List.range 16).filter (· != 15)).map fun k => (s0.domain 1).windows.getD k []) true [0xFFFF0001, 0x000FFFFF, 0, 0, 0] = false ∧ (s0.domain 1).id = 1) := by
  refine ⟨by and_intros <;> decide +kernel, by and_intros <;> decide +kernel, ⟨Bank.reset, by and_intros <;> decide +kernel⟩, by decide +kernel, ?_, ?_, ?_⟩ <;> and_intros <;> decide +kernel
def hc (op : BitVec 16) (len : Word) (n : Nat) : HostCmd := { op := op, flags := 0x3F01, len := len, haddr := 0, daddr := 0, aux := 0, zeroOk := true, hostBytes := List.replicate n 5 }
def mailbox (fn : Nat) (l : List HostCmd) (negotiated : Bool) : Mailbox :=
  { fn := fn, ringLo := 0, ringHi := 0, ctl := 1, prod := 15, cons := 0, err := 0, pending := l, doors := [], negotiated := negotiated, ide := false }
def sth (fn : Nat) (l : List HostCmd) : State := { s0 with mgmt := { s0.mgmt with mailboxes := [mailbox fn l true] } }
theorem wit_HostCommandEvents :
    ((((sth 1 []).mailbox 1).fn = 1) ∧ [(⟨List.replicate 64 0, []⟩ : MbEntry)].length = ((0 : Word).toNat % mbSize ((sth 1 []).mailbox 1) + mbSize ((sth 1 []).mailbox 1)
        - ((sth 1 []).mailbox 1).prod.toNat % mbSize ((sth 1 []).mailbox 1)) % mbSize ((sth 1 []).mailbox 1))
    ∧ (let q := { lqueue with fn := 1, qdb := 63, cap := 16 }; ((stQ q).mailbox 1).pending = [] ∧ ((stQ q).mailbox 1).doors = [] ∧ (stQ q).gov.queues.find? (fun q => q.fn == 1 && q.qdb == 63 && decide ((63 : Nat) < 64)) = some q)
    ∧ ((sth 1 [hc 1 4 4]).mailbox 1).pending ≠ [] ∧ (∀ d ∈ ((sth 1 [hc 1 4 4]).mailbox 1).doors, d.2.2 ≠ 0)
    ∧ Claims.headIs (sth 1 [hc 1 4 4]) 1 1 (hc 1 4 4) ∧ Claims.headIs (sth 1 [hc 2 4 4]) 1 2 (hc 2 4 4) ∧ Claims.headIs (sth 1 [hc 3 4 4]) 1 3 (hc 3 4 4)
    ∧ firstFail (domTranslate (sth 1 [hc 1 4 4]) 1 true .write) 0 4 = none ∧ firstFail (domTranslate (sth 1 [hc 3 4 4]) 1 true .write) 0 4 = none
    ∧ readVa (sth 1 [hc 2 4 4]) (domTranslate (sth 1 [hc 2 4 4]) 1 true .read) 0 4 = .ok ([0, 0, 0, 0], false)
    ∧ Claims.headIs (sth 1 [hc 4 0 0]) 1 4 (hc 4 0 0) ∧ Claims.headIs (sth 1 [hc 5 1408 32]) 1 5 (hc 5 1408 32)
    ∧ Claims.headIs (sth 0 [hc 0x40 0 0]) 0 0x40 (hc 0x40 0 0) ∧ Claims.headIs (sth 63 [hc 0x40 0 0]) 63 0x40 (hc 0x40 0 0)
    ∧ Claims.headIs (sth 0 [hc 0x41 0 0]) 0 0x41 (hc 0x41 0 0) ∧ Claims.headIs (sth 63 [hc 0x41 0 0]) 63 0x41 (hc 0x41 0 0)
    ∧ (let s : State := { s0 with mgmt := { s0.mgmt with domains := [{ Domain.reset 1 with root := 0x10000, bar2Size := 4, bar2Admit := [0x0100] }] } };
      (0x0100 : BitVec 16) ∈ (s.domain 1).bar2Admit ∧ 0 + ([1, 2, 3, 4] : List Byte).length ≤ (s.domain 1).bar2Size
      ∧ firstFail (domTranslate s 1 true .write) ((s.domain 1).bar2Base + 0) 4 = none ∧ (0x0101 : BitVec 16) ∉ (s.domain 1).bar2Admit ∧ (s.domain 1).bar2Size < 0 + 5)
    ∧ (⟨List.replicate 64 0, []⟩ : MbEntry).bytes.length = 64 ∧ 512 < (List.replicate 513 (0 : Byte)).length ∧ ([1, 2, 3, 4] : List Byte).length ≤ 512 := by
  simp only [Claims.headIs]
  and_intros <;> decide +kernel
theorem wit_OutsideEvents :
    (2 < (s0.die 0).portUp.length)
    ∧ (((stDie fun d => { d with firewall := 4 }).die 0).firewall.getLsbD 2 = true ∧ portOpen (stDie fun d => { d with firewall := 4 }) 0 2 = true
      ∧ firstFail (domTranslate (stDie fun d => { d with firewall := 4 }) 1 true .write) 0xFFFF 1 = none
      ∧ firstFail (domTranslate (stDie fun d => { d with firewall := 4 }) 1 false .write) 0x80000000 1 ≠ none
      ∧ sameEstate (stDie fun d => { d with firewall := 4 }) 0 (domainDie (stDie fun d => { d with firewall := 4 }) 1) = true
      ∧ (let s : State := { s0 with dies := [Die.reset, { Die.reset with firewall := 4 }] }
        portOpen s 1 2 = true ∧ sameEstate s 1 (domainDie s 1) = false))
    ∧ (s0.team? tid = some (team []) ∧ (team []).stamp.home = 1 ∧ (team []).sched.status = .running ∧ (team []).atRest = true)
    ∧ ((sth 63 []).mailbox 63).fn = 63 ∧ ((sth 63 []).mailbox 63).negotiated = true ∧ (s0.mailbox 63).negotiated = false
    ∧ (∀ i, 1 ≤ i ∧ i ≤ 5 → (measurement s0 1 i).isSome = true) := by
  refine ⟨by decide +kernel, by and_intros <;> decide +kernel, by and_intros <;> decide +kernel, by decide +kernel, by decide +kernel, by decide +kernel, fun i h => ?_⟩
  have : i = 1 ∨ i = 2 ∨ i = 3 ∨ i = 4 ∨ i = 5 := by omega
  rcases this with rfl | rfl | rfl | rfl | rfl <;> rfl
def waiting : Launch := { launch with uid := 4, next := 0, pkt := { launch.pkt with chan := 0 } }
def exited : Team := { team [] with sched := { (team []).sched with status := .exited } }
def saved : Plot := { plot with st := .saved, beds := [{ bed with banks := [], chans := 0 }] }
def asleep : Team := { team [] with sched := { (team []).sched with status := .haltSave } }
theorem wit_PlacementEvents :
    (let s : State := { s0 with gov := { s0.gov with launches := [launch, waiting] } };
      s.launch? 4 = some waiting ∧ (∀ p ∈ s.gov.plots, p.uid < s.uid) ∧ nextIndex s waiting = some 0 ∧ stageStatus s waiting = 0
      ∧ chooseCluster s waiting (plotTeams waiting 0) = some 0 ∧ choiceFits s 1 waiting.pkt (plotTeams waiting 0) ⟨4, 0, [0], [3]⟩ = true
      ∧ placeStalls s waiting [0] = false)
    ∧ ((st exited).team? tid = some exited ∧ exited.ops = [] ∧ (∀ r ∈ (st exited).reports, r.tid ≠ tid) ∧ releaseStalls (st exited) 0 1 5 = false
      ∧ l1Stalls (st exited) 0 = false)
    ∧ (let p := { saving plot with quiesced := true }; (stPlot asleep p).plot? 2 = some p ∧ matrixOut (stPlot asleep p) p = true
      ∧ (∀ t ∈ (stPlot asleep p).teams, t.place.plot = p.uid → t.sched.status ≠ .running) ∧ p.beds.any (fun b => l1Stalls (stPlot asleep p) b.core) = false)
    ∧ ((stPlot asleep saved).plot? 2 = some saved ∧ (stPlot asleep saved).launch? 3 = some launch ∧ saved.cluster = 0 ∧ savedFits (stPlot asleep saved) saved launch = true
      ∧ restoreChoice (stPlot asleep saved) saved launch ⟨2, 0, [0], [3]⟩ = true ∧ restoreFirst (stPlot asleep saved) saved 1 = true
      ∧ tableWaits (stPlot asleep saved) 1 = false ∧ [0].any (l1Stalls (stPlot asleep saved)) = false
      ∧ ((stPlot asleep saved).teams.map (·.tid)).Nodup ∧ (stPlot asleep saved).team? tid = some asleep ∧ asleep.place.plot = saved.uid)
    ∧ (let s : State := { sliced with cores := [{ sliced.core 0 with slice := ⟨none, 0, 7, [(1, 0)]⟩ }] };
      (s.core 0).slice.current = none ∧ nextSlice s 0 (turnOrder (s.core 0).slice.last) [] = (some 0, []) ∧ (1, 0) ∈ (s.core 0).slice.recalling
        ∧ (0, 1, 0) ∉ (s.die (dieOf 0)).recalls)
    ∧ (7 < (s0.core 0).slots.length ∧ slotBad (((List.range 8).filter (· != 7)).map (slotOfCore s0 0)) (slot.set 0 0x80014202) = false
      ∧ estateBad s0 0 (slotDomain (slot.set 0 0x80014202)) = false)
    ∧ (Claims.headIs (sth 1 [hc 6 0 0]) 1 6 (hc 6 0 0) ∧ ((sth 1 [hc 6 0 0]).teams.map (·.tid)).Nodup
      ∧ ∀ t ∈ (sth 1 [hc 6 0 0]).teams, t.stamp.home = 1 → .haltDebug ∉ t.sched.wish) := by
  simp only [Claims.headIs]
  and_intros <;> decide +kernel

/-! ## The step, encoding and the invariant -/

theorem wit_EncodeRoundTrip : (Instr.nop bf).wf = true ∧ encode (.nop bf) = some 0xAC0780000000000000000000 := by decide +kernel
theorem wit_DecodedWordIsItsEncoding : decodeSlot false 0xAC0780000000000000000000 = .ok (.nop bf) ∧ decodeSlot true 0x883000102040003050607000
    = .ok (.pairedWord ⟨⟨0x22, 0, 3, 0, 1, 2, 0, 0, .f32, false, 0⟩, ⟨0x00, 0, 3, 5, 6, 7, 0, 0, .i32, false, 0⟩⟩) := by decide +kernel
/-- A team at slot k of a line of its buffer. -/
def atSlot (b : BitVec 512) (k : Nat) : Team := let t := team []
  { t with line := some ⟨0x10000, 1, b, none, false⟩, flow := { t.flow with pc := ⟨0x10000, k⟩ } }
/-- NOP in slot 4 of a line whose region begins there. -/
def nopLine : BitVec 512 := BitVec.ofNat 512 (0xAC0780000000000000000000 * 2 ^ 416 + 0x4000)
theorem wit_StepRunsInstruction : ((st (atSlot nopLine 4)).soft = [] ∧ (st (atSlot nopLine 4)).agenda = [] ∧ (st (atSlot nopLine 4)).team? tid = some (atSlot nopLine 4)
      ∧ teamLine (st (atSlot nopLine 4)) (atSlot nopLine 4) = .ok nopLine ∧ lineMalformed (lineWord nopLine) = false
      ∧ decodeSlot ((lineWord nopLine).getLsbD 9) (lineSlot nopLine 4) = .ok (.nop bf))
    ∧ (teamLine (st (atSlot 0x8000 0)) (atSlot 0x8000 0) = .ok 0x8000 ∧ lineMalformed (lineWord 0x8000) = true)
    ∧ (teamLine (st (atSlot 0 5)) (atSlot 0 5) = .ok 0 ∧ 4 < (atSlot 0 5).flow.pc.slot)
    ∧ decodeSlot false (lineSlot (lineWith 0xFF0000000000000000000000) 0) = .error .unassignedOp
    ∧ (lineHeld (atSlot nopLine 4) = true ∧ lineHeld (team []) = false ∧ teamLine s0 (team []) = .ok 0x1F00001F ∧ lineMalformed (lineWord 0x1F00001F) = false
      ∧ decodeSlot false (lineSlot 0x1F00001F 0) = .ok (.vadd { vf 0 0 0 0 .i32 with prd := ⟨false, false, 0⟩ }))
    ∧ (let t := { team [] with flow := { (team []).flow with pc := ⟨0, 0⟩ } }; teamLine (st t) t = .error 0x09) := by
  and_intros <;> decide +kernel
/-- A team whose QENQ on the record at s0 still owes its status in s7. -/
def owing : State := { s0 with gov := { s0.gov with waiting := [{ qop 1 with rbase := 0 }] } }
/-- A team inside a gate whose domain has 8 vector registers and 16 scalars of it. -/
def sealing : Team := { gated with foot := { gated.foot with vregs := 8, sregs := 16 } }
/-- A team that has a graft operation unfinished. -/
def grafting : Team := let t := team []
  { t with graft := { t.graft with pending := some default } }
/-- A witness for each clause, in its order. -/
theorem wit_IllegalAndSuppressed : ((Instr.nop { bf with imm := 1 }).isEvent = false ∧ s0.focus = some tid ∧ s0.team? tid = some (team []) ∧ (Instr.nop { bf with imm := 1 }).wf = false)
    ∧ ((Instr.sadd (sf 128 0 0 .i32)).wf = true ∧ Claims.operandsOk (.sadd (sf 128 0 0 .i32)) ((team []).unhold 0).legal = false
      ∧ Claims.operandsOk (.sadd (sf 127 0 0 .i32)) ((team []).unhold 0).legal = true)
    ∧ ((Instr.vadd (vf 8 0 1 0 .i32)).wf = true ∧ Claims.operandsOk (.vadd (vf 8 0 1 0 .i32)) (grafting.unhold 0).legal = true ∧ grafting.gate = none
      ∧ grafting.graft.pending.isSome = true ∧ graftAllows (.vadd (vf 8 0 1 0 .i32)) = false ∧ (st grafting).team? tid = some grafting)
    ∧ ((Instr.nop { bf with pq := 4 }).wf = true ∧ Claims.operandsOk (.nop { bf with pq := 4 }) (gated.unhold 0).legal = true ∧ gated.graft.pending = none
      ∧ Claims.headerOf (.nop { bf with pq := 4 }) = some (hdr false 4) ∧ (hdr false 4).team = true ∧ gated.predOk (hdr false 4).index.toNat = false)
    ∧ (Runs (.nop { bf with neg := true }) s0 (team []) ∧ Claims.operandsOk (.nop { bf with neg := true }) ((team []).unhold 0).legal = true
      ∧ Claims.headerOf (.nop { bf with neg := true }) = some (hdr true 7) ∧ (team []).predOk 7 = true ∧ (team []).suppressed (hdr true 7) = true)
    ∧ (gated.gate = some gateCtx ∧ (st gated).team? tid = some gated ∧ (Instr.cpy (e 0 0 0 31 0)).wf = true ∧ gateAllows (.cpy (e 0 0 0 31 0)) = false
      ∧ Claims.operandsOk (.cpy (e 0 0 0 31 0)) (gated.unhold 0).legal = true ∧ Claims.headerOf (.cpy (e 0 0 0 31 0)) = some (hdr false 7) ∧ gated.suppressed (hdr false 7) = false)
    ∧ ((Instr.sadd (sf 127 0 0 .i32)).wf = true ∧ gateAllows (.sadd (sf 127 0 0 .i32)) = true ∧ Claims.operandsOk (.sadd (sf 127 0 0 .i32)) (sealing.unhold 0).legal = true
      ∧ Claims.operandsOk (.sadd (sf 127 0 0 .i32)) (sealing.unhold 0) = false ∧ sealing.gate = some gateCtx ∧ sealing.suppressed (hdr false 7) = false)
    ∧ ((Instr.sadd (sf 0 7 0 .i32)).wf = true ∧ owing.team? tid = some (team []) ∧ Claims.operandsOk (.sadd (sf 0 7 0 .i32)) ((team []).unhold owing.clock.ac) = true
      ∧ interlocked owing ((team []).unhold owing.clock.ac) (.sadd (sf 0 7 0 .i32)) = true ∧ (team []).graft.pending = none)
    ∧ ((Instr.pairedWord pairF).wf = true ∧ Claims.operandsOk (.pairedWord pairF) (sealing.unhold 0).legal = true ∧ Claims.operandsOk (.pairedWord pairF) (sealing.unhold 0) = false) := by
  and_intros <;> first | exact runs_of (by decide +kernel) | decide +kernel
/-- A state with the invariant whose step runs NOP. -/
theorem wit_StepKeepsMemory : (st (fetched (team []) 0xAC0780000000000000000000)).Inv ∧ ∃ s', step (st (fetched (team []) 0xAC0780000000000000000000)) = .next s' :=
  ⟨(by decide +kernel : Memory.wf _ = true), nextOf _, next_of (by decide +kernel)⟩

/-! ## Ill-formed instructions: one for each check -/

theorem smoke_unassigned : decodeSlot false (0x1A#8 ++ 0#88) = .error .unassignedOp := by decide +kernel
theorem smoke_predicate_kind : decodeSlot false (0x60#8 ++ 0#4 ++ 0b00111#5 ++ 0#79) = .error .predicateKind := by decide +kernel
theorem smoke_reserved_bits : decodeSlot false (0x60#8 ++ 0#4 ++ 0b01111#5 ++ 0#36 ++ 1#11 ++ 0#32) = .error .reservedBits := by decide +kernel
theorem smoke_reserved_type : decodeSlot false (0x60#8 ++ 0#4 ++ 0b01111#5 ++ 0#30 ++ 5#3 ++ 0#46) = .error .reservedType := by decide +kernel
theorem smoke_reserved_width : decodeSlot false (0x80#8 ++ 0#4 ++ 0b00111#5 ++ 0#26 ++ 5#3 ++ 0#50) = .error .reservedCode := by decide +kernel
theorem smoke_type : check (.vadd (vf 0 1 2 0 .f32)) = some .typeNotAllowed := by decide +kernel
theorem smoke_sub : check (.vadd { vf 0 1 2 0 .i32 with sub := 1 }) = some .subNotAllowed := by decide +kernel
theorem smoke_block : check (.vcmp { vf 0 1 2 0 .i32 with eh := 1 }) = some .blockNotAllowed := by decide +kernel
theorem smoke_broadcast : check (.vcmp { vf 0 1 2 0 .i32 with ba := true }) = some .broadcastNotAllowed := by decide +kernel
theorem smoke_immediate : check (.vadd { vf 0 1 2 0 .i32 with ib := true }) = some .immediateNotAllowed := by decide +kernel
theorem smoke_vlop3_needs_ib : check (.vlop3 (vf 0 1 2 3 .i32)) = some .immediateNotAllowed := by decide +kernel
theorem smoke_combination : check (.ld { gm 0 .b32 .plot with order := .rel }) = some .fieldCombination := by decide +kernel
theorem smoke_unused : check (.vadd { vf 0 1 2 0 .i32 with imm := 1 }) = some .unusedField := by decide +kernel
theorem smoke_cvt_code : check (.cvt { vf 0 1 0 0 .i32 with c := 0xD0 }) = some .reservedCode := by decide +kernel
def h0 : Half := ⟨0x22, 0, 3, 0, 1, 2, 0, 0, .f32, false, 0⟩
def h1 : Half := ⟨0x00, 0, 3, 5, 6, 7, 0, 0, .i32, false, 0⟩
theorem smoke_pairable : check (.pairedWord ⟨h0, { h1 with sop := 0x13 }⟩) = some .notPairable := by decide +kernel
theorem smoke_pair_extents : check (.pairedWord ⟨h0, { h1 with hc := 1 }⟩) = some .pairExtents := by decide +kernel
theorem smoke_pair_reads : check (.pairedWord ⟨{ h0 with sop := 0x23, d := 4 }, h1⟩) = some .pairReads := by decide +kernel
theorem smoke_pair_banks : check (.pairedWord ⟨h0, { h1 with a := 10 }⟩) = none ∧ check (.pairedWord ⟨{ h0 with a := 6 }, { h1 with a := 10 }⟩) = some .pairBanks := by decide +kernel
theorem smoke_pair_destinations : check (.pairedWord ⟨h0, { h1 with d := 4 }⟩) = some .pairDestinations := by decide +kernel
theorem smoke_mailbox_entry : check (.mbprodWrite ⟨1, 1, [⟨List.replicate 63 0, []⟩]⟩) = some .entryLength := by decide +kernel
theorem smoke_pair_transcendental : check (.pairedWord ⟨{ h0 with sop := 0x28, b := 0 }, { h1 with sop := 0x2C, ty := .f32, b := 0 }⟩) = some .pairTranscendental := by decide +kernel

/-! ## Words written out from the field tables (R38, R41 to R48, R58) -/

theorem word_vcmp : decodeSlot false (0x16#8 ++ 0#4 ++ 0b00111#5 ++ 1#8 ++ 3#8 ++ 4#8 ++ 0#8 ++ 0#4 ++ 0#4 ++ 1#3 ++ 0#1 ++ 0#1 ++ 2#2 ++ 0#32)
    = .ok (.vcmp { vf 1 3 4 0 .n32 with sub := 2 }) := by decide +kernel
theorem word_fma : decodeSlot false (0x23#8 ++ 15#4 ++ 0b10011#5 ++ 0x10#8 ++ 0x20#8 ++ 0x30#8 ++ 0x40#8 ++ 1#4 ++ 3#4 ++ 2#3 ++ 0#1 ++ 1#1 ++ 0#2 ++ 0#32)
    = .ok (.fma { vf 0x10 0x20 0x30 0x40 .f32 with stl := 15, prd := ⟨true, false, 3⟩, eh := 1, ew := 3, ba := true }) := by decide +kernel
theorem word_spack : decodeSlot false 0x460394040000006100000000 = .ok (.spack { vf 0x28 8 0 0 .i8x4 with sub := 1 }) := by decide +kernel
theorem word_shfl : decodeSlot false (0x40#8 ++ 0#4 ++ 0b00111#5 ++ 2#8 ++ 1#8 ++ 0#8 ++ 0#8 ++ 0#8 ++ 0#3 ++ 1#1 ++ 0#1 ++ 1#2 ++ 0xFFFFFFFF#32)
    = .ok (.shfl { vf 2 1 0 0 .i32 with ib := true, sub := 1, imm := 0xFFFFFFFF }) := by decide +kernel
theorem word_sadd : decodeSlot false (0x60#8 ++ 0#4 ++ 0b01111#5 ++ 24#10 ++ 24#10 ++ 0#10 ++ 0#3 ++ 1#1 ++ 0#2 ++ 0#11 ++ 1#32)
    = .ok (.sadd { sf 24 24 0 .i32 with ib := true, imm := 1 }) ∧ (0x60#8 ++ 0#4 ++ 0b01111#5 ++ 24#10 ++ 24#10 ++ 0#10 ++ 0#3 ++ 1#1 ++ 0#2 ++ 0#11 ++ 1#32)
    = (0x60078300#32 ++ 0xC0002000#32 ++ 1#32) := by decide +kernel
theorem word_ld : decodeSlot false (0x80#8 ++ 0#4 ++ 0b00111#5 ++ 2#8 ++ 24#10 ++ 1#8 ++ 2#3 ++ 2#3 ++ 1#2 ++ 0#3 ++ 0#4 ++ 0#6 ++ 0#32)
    = .ok (.ld (mf 2 24 1 .b32 .plot .acq .global)) := by decide +kernel
theorem word_atom : decodeSlot false (0x87#8 ++ 0#4 ++ 0b00111#5 ++ 8#8 ++ 20#10 ++ 0xFF#8 ++ 3#3 ++ 5#3 ++ 3#2 ++ 1#3 ++ 9#4 ++ 0#6 ++ 0xFFFFFFF8#32)
    = .ok (.atom { mf 8 20 0xFF .b64 .sys .ar .scratchpad with qual := 9, off := 0xFFFFFFF8 }) := by decide +kernel
theorem word_loop : decodeSlot false (0xA4#8 ++ 0#4 ++ 0b01111#5 ++ 0#3 ++ 0#5 ++ 24#10 ++ 0#24 ++ 0#3 ++ 0#2 ++ 0#32) = .ok (.loop { bf with scalar := 24 }) := by decide +kernel
theorem word_bra : decodeSlot false 0xA00480000000000000000000 = .ok (.bra { bf with pq := 1 }) := by decide +kernel
theorem word_brc_backward : decodeSlot false (0xA1#8 ++ 2#4 ++ 0b01111#5 ++ 0#3 ++ 0b10101#5 ++ 0#10 ++ 0xFFFFFE#24 ++ 4#3 ++ 0#2 ++ 0#32)
    = .ok (.brc { bf with stl := 2, cond := ⟨true, false, 5⟩, disp := 0xFFFFFE, slot := 4 }) := by decide +kernel
theorem word_trap : decodeSlot false 0xA90780000000000000000051 = .ok (.trap { bf with imm := 0x51 }) := by decide +kernel
theorem word_hret_region : decodeSlot false 0xAA0780000000000000000001 = .ok (.hret { bf with imm := 1 }) := by decide +kernel
theorem word_cpy : decodeSlot false 0xB007850001F8000000000000 = .ok (.cpy (e 40 0 1 31 0)) := by decide +kernel
theorem word_cpyc : decodeSlot false 0xB507860000F8000000000000 = .ok (.cpyc (e 48 0 0 31 0)) := by decide +kernel
theorem word_group : decodeSlot false (0xC0#8 ++ 0#4 ++ 0b01111#5 ++ 16#10 ++ 3#8 ++ 0#5 ++ 31#5 ++ 0b00001010#8 ++ 0#11 ++ 0#32) = .ok (.group (e 16 3 0 31 0x0A)) := by decide +kernel
theorem word_fence : decodeSlot false 0xD00780000000100000000000 = .ok (.fence (y 0 0 0 0 false 2 0)) := by decide +kernel
theorem word_rdsr : decodeSlot false 0xD70783400000200000000108 = .ok (.rdsr (y 26 0 0 0 true 0 0x108)) := by decide +kernel
theorem word_zero_slot : decodeSlot false 0 = .ok (.vadd { vf 0 0 0 0 .i32 with prd := ⟨false, false, 0⟩ }) := by decide +kernel
/-- The line of the example in the encoding section: 64 bytes, lowest first. -/
def exampleLine : BitVec 512 := BitVec.ofNat 512 (bytesNat [0x41, 0x04, 0x00, 0xBD,
  0x00, 0x00, 0x00, 0x00, 0xA0, 0x09, 0x00, 0x18, 0x10, 0x88, 0x43, 0x20, 0x00, 0x70, 0x60, 0x50, 0x30, 0x00, 0x40, 0x20, 0x10, 0x00, 0x30, 0x88,
  0x01, 0x00, 0x00, 0x00, 0x00, 0x20, 0x00, 0xC0, 0x00, 0x83, 0x07, 0x60, 0x00, 0x00, 0x00, 0x00, 0x00, 0x00, 0x00, 0x00, 0x00, 0x80, 0x04, 0xA0,
  0x00, 0x00, 0x00, 0x00, 0x00, 0x00, 0x00, 0x00, 0x00, 0x80, 0x07, 0xAC])
theorem line_example : parityOk exampleLine = true ∧ lineMalformed (lineWord exampleLine) = false
    ∧ decodeSlot false (lineSlot exampleLine 0) = .ok (.fadd { vf 16 32 48 0 .f32 with stl := 4, eh := 1, ew := 3 })
    ∧ decodeSlot true (lineSlot exampleLine 1) = .ok (.pairedWord ⟨h0, h1⟩) ∧ decodeSlot false (lineSlot exampleLine 2) = .ok (.sadd { sf 24 24 0 .i32 with ib := true, imm := 1 })
    ∧ decodeSlot false (lineSlot exampleLine 3) = .ok (.bra { bf with pq := 1 }) ∧ decodeSlot false (lineSlot exampleLine 4) = .ok (.nop bf) := by decide +kernel

/-! ## Results worked in the spec -/

/-- The test team after an instruction. -/
def after (i : Instr) (t : Team) : Team := ((nextOf (exec i (st t))).team? tid).getD t
/-- A column after an instruction. -/
def colOf (t : Team) (r : Nat) : List Word := (t.regs.v.getD r []).map fun x => x.bits
/-- Eight rows, row 5 retired (the example of the cross-row instructions): v1 as given, v4 sorted, p1 as given. -/
def eight : Team :=
  let t := newTeam tid ⟨3, 2, 0, 0, 0, 0, 0⟩ ⟨8, 32, 96, 128, 0x8000⟩ ⟨0x10000, 0, 0, 0, 0, false, 1, 0⟩ 0 []
  { t with flow := { t.flow with mask := 0xDF, retired := 0x20 },
           regs := { t.regs with v := t.regs.v.set 1 (col [7, 3, 7, 9, 3, 5, 1, 7]) |>.set 4 (col [1, 3, 3, 7, 7, 0, 7, 9]), p := [0, 0x8D, 0, 0, 0, 0, 0] } }
theorem test_shfl : colOf (after (.shfl { vf 2 1 0 0 .i32 with ib := true, sub := 1, imm := 0xFFFFFFFF }) eight) 2 = [7, 7, 3, 7, 9, 0, 1, 1] := by decide +kernel
theorem test_match : colOf (after (.matchRows (vf 3 1 0 0 .n32)) eight) 3 = [0, 1, 0, 3, 1, 0, 6, 0] := by decide +kernel
theorem test_vsort : colOf (after (.vsort (vf 8 1 0 0 .n32)) eight) 8 = [1, 3, 3, 7, 7, 0, 7, 9] ∧ colOf (after (.vsort (vf 8 1 0 0 .n32)) eight) 9 = [6, 1, 4, 0, 2, 0, 7, 3] := by decide +kernel
theorem test_bsrch : colOf (after (.bsrch (vf 6 4 1 0 .n32)) eight) 6 = [3, 1, 3, 6, 1, 0, 0, 3] := by decide +kernel
theorem test_pfx : colOf (after (.pfx (vf 7 1 0 0 .n32)) eight) 7 = [7, 10, 17, 26, 29, 0, 30, 37] := by decide +kernel
theorem test_vstep : colOf (after (.vstep (vf 8 1 0 0 .n32)) eight) 8 = [37, 37, 37, 37, 37, 0, 37, 37] := by decide +kernel
theorem test_ballot : colOf (after (.ballot (vf 10 1 0 0 .i32)) eight) 10 = [0x8D, 0x8D, 0x8D, 0x8D, 0x8D, 0, 0x8D, 0x8D] := by decide +kernel
/-- 2^24, 1, 1, -2^24. -/
def sums : Team := vteam [[0x4B800000, 0x3F800000, 0x3F800000, 0xCB800000]]
theorem test_vstep_float : colOf (after (.vstep (vf 1 0 0 0 .f32)) sums) 1 = [0x3F800000, 0x3F800000, 0x3F800000, 0x3F800000] := by decide +kernel
theorem test_pfx_float : colOf (after (.pfx (vf 1 0 0 0 .f32)) sums) 1 = [0x4B800000, 0x4B800000, 0x4B800000, 0] := by decide +kernel
/-- The group with a tie. -/
def packed : Team := vteam (List.replicate 8 [0, 0, 0, 0] ++ [[0x0005FB03], [0x0201FB03]].map (fun l => l ++ [0, 0, 0]) ++ List.replicate 6 [0, 0, 0, 0])
def oneRow (t : Team) : Team := { t with flow := { t.flow with mask := 1 } }
theorem test_spack : (List.range 6).map (fun k => (colOf (after (.spack { vf 40 8 0 0 .i8x4 with sub := 1 }) (oneRow packed)) (40 + k)).head?)
    = [some 0xFB05FB03, some 0, some 0, some 0, some 0x88688A88, some 0x00006886] := by decide +kernel
def kept : Team := vteam [[0xFB05FB03, 0, 0, 0], [0, 0, 0, 0], [0, 0, 0, 0], [0, 0, 0, 0], [0x88688A88, 0, 0, 0], [0x00006886, 0, 0, 0]]
theorem test_spexp : (List.range 2).map (fun k => (colOf (after (.spexp { vf 16 0 0 0 .i8x4 with sub := 1 }) (oneRow kept)) (16 + k)).head?) = [some 0x0005FB03, some 0x0000FB00] := by decide +kernel
def badField : Team := vteam [[0xFB05FB03, 0, 0, 0], [0, 0, 0, 0], [0, 0, 0, 0], [0, 0, 0, 0], [0x88688648, 0, 0, 0], [0x00006886, 0, 0, 0]]
theorem test_spexp_fault : (after (.spexp { vf 16 0 0 0 .i8x4 with sub := 1 }) (oneRow badField)).trap.hflt.extractLsb' 0 8 = 0x18
    ∧ (after (.spexp { vf 16 0 0 0 .i8x4 with sub := 1 }) (oneRow badField)).trap.hfrow = 1 := by decide +kernel
/-- 300.0 into lane 2 of v8. -/
def lanes (fmt : Word) : Team := let t := vteam (List.replicate 6 [0, 0, 0, 0] ++ [List.replicate 4 0x43960000, [0, 0, 0, 0], List.replicate 4 0x11223344])
  { t with flow := { t.flow with fmt := fmt } }
theorem test_cvt_lane : colOf (after (.cvt { vf 8 6 0 0x30 .i32 with sub := 2 }) (lanes 0)) 8 = List.replicate 4 0x11793344
    ∧ colOf (after (.cvt { vf 8 6 0 0x30 .i32 with sub := 2 }) (lanes 0x2000)) 8 = List.replicate 4 0x117A3344 := by decide +kernel
theorem test_setfmt_write : (after (.setfmt (y 0 0 0 0 true 0 0xFFE58035)) (team [])).flow.fmt = 0x00058035 := by decide +kernel
/-- A SADD that wraps, a LOOP whose counter is one, a LOOP at zero. -/
theorem test_sadd_wraps : ((after (.sadd { sf 0 0 0 .i32 with ib := true, imm := 1 }) (team (sc [0xFFFFFFFF]))).sget 0).bits = 0 := by decide +kernel
theorem test_vmulh_signed : colOf (after (.vmulh (vf 2 0 1 0 .i32)) (vteam [List.replicate 4 0x80000000, List.replicate 4 0x80000000])) 2 = List.replicate 4 0x40000000 := by decide +kernel
theorem test_saddx_sign : (after (.saddx (sf 2 0 4 .i32)) (team (sc [0, 0, 0, 0, 0xFFFFFFFF]))).xget 2 = 0xFFFFFFFFFFFFFFFF := by decide +kernel
/-- Two paths, a format and a retired row: BRD on p1, then RCV with V set and with V clear. -/
def forked : Team := withRs (team []) [⟨home, 0xF, 0x1100, 0x6, home, true⟩]
theorem test_rcv_turns : (after (.rcv bf) { forked with flow := { forked.flow with mask := 0x9, retired := 0x2 } }).flow.mask = 0x4
    ∧ (after (.rcv bf) { forked with flow := { forked.flow with mask := 0x9, retired := 0x2 } }).flow.fmt = 0x1100 := by decide +kernel
theorem test_rcv_joins : (after (.rcv bf) (let t := withRs (team []) [⟨home, 0xF, 0, 0x6, home, false⟩]; { t with flow := { t.flow with mask := 0x4, retired := 0x2 } })).flow.mask = 0xD := by decide +kernel
/-- Stores of four rows to one word: the highest row's value stands. -/
theorem test_store_highest_row : (nextOf (exec (.st (gm 0 .b32 .plot)) (st (vteam [[1, 2, 3, 4]])))).mem.read 0x40000 4 = [4, 0, 0, 0] := by decide +kernel
theorem test_store_load : colOf (after (.lds (sm 1 .b32)) (team (sc [0, 0, 0x7FF0, 0]))) 1 = [0, 0, 0, 0]
    ∧ (nextOf (exec (.stp { gm 0 .b16 .plot with off := 4 }) (st (vteam [[0x10001, 2, 3, 0xFFFF8004]])))).mem.read 0x40004 8 = [1, 0, 2, 0, 3, 0, 4, 0x80] := by decide +kernel
theorem test_atom_add : colOf (after (.atom (gm 0 .b32 .plot)) (vteam [[1, 2, 3, 4]])) 0 = [0, 1, 3, 6] := by decide +kernel
theorem test_cas : colOf (after (.cas (gm 0 .b32 .plot)) (vteam [[0, 0, 5, 9], [5, 6, 7, 8]])) 0 = [0, 5, 5, 7] := by decide +kernel
/-- LDS of 4 rows, row 1 misaligned and row 3 outside the map: the code of the lowest, both rows named, nothing loaded. -/
def twoBad : Team := vteam ([[0, 6, 0, 0x300010]])
theorem test_two_rows_at_fault : (after (.lds (mf 10 126 0 .b32 .plot .rlx .scratchpad)) twoBad).trap.hflt.extractLsb' 0 8 = 0x0B
    ∧ (after (.lds (mf 10 126 0 .b32 .plot .rlx .scratchpad)) twoBad).trap.hfrow = 0xA := by decide +kernel
theorem test_handler_rows : (after (.lds (mf 10 126 0 .b32 .plot .rlx .scratchpad)) { twoBad with flow := { twoBad.flow with mask := 0x3 } }).flow.mask = 0xF
    ∧ (after (.lds (mf 10 126 0 .b32 .plot .rlx .scratchpad)) { twoBad with flow := { twoBad.flow with mask := 0x3 } }).trap.hmask = 0x3 := by decide +kernel
/-- The scale address of R90, and the choices of R284's table. -/
theorem test_scale_address : mShift 3 5 false = 5 ∧ mShift 5 5 false = 4 := by decide
theorem test_preempt : preemptChoice 36000 2500 false = 0 ∧ preemptChoice 30000 2500 false = 2 ∧ preemptChoice 41000 2500 false = 0
    ∧ preemptChoice 180000 12500 false = 2 ∧ preemptChoice 40000 12500 true = 1 := by decide
/-- The hull of the planed copy. -/
def planed : Copy := newCopy (team []) 0 31 0 [0, 7, 0x2000, 0x01000022, 16, 4, 0x8000, 0x40] [(2, 0x300, 0x100000)]
theorem test_hull : planed.lo = 0x2000 ∧ planed.hi = 0x2400 ∧ planed.total = 128 := by decide +kernel
end Sys2Proof.Tests
end

section
/-! PROOFS. The branches, NOP and YIELD (R62, R104, R105, R112): how a B form issues, when BRC is taken, and what a completed transfer leaves of its team. -/

open Sys2Proof.Claims

namespace Sys2Proof.Machine

/-! ## Issuing a B form -/

@[simp] theorem bOk_unhold (f : BForm) (t : Team) (n : Nat) : bOk f (t.unhold n) = bOk f t := rfl
@[simp] theorem bSuppressed_unhold (f : BForm) (t : Team) (n : Nat) : bSuppressed f (t.unhold n) = bSuppressed f t := rfl

/-- Predicates that no gate seals are legal at decode (R39, R307). -/
theorem bOk_legal (f : BForm) (t : Team) (h : bOk f t = true) : bOk f t.legal = true := by
  simp only [bOk, Bool.and_eq_true] at h ⊢
  exact ⟨qHeaderOk_legal t f.pq h.1, predOk_legal t _ h.2⟩

/-- The header predicate of a legal B form is not sealed, so that it decides alone whether the instruction is suppressed. -/
theorem readsSealed_bSuppressed (f : BForm) (t : Team) (h : bOk f t = true) : readsSealed t (bSuppressed f) = false := by
  simp only [bOk, Bool.and_eq_true] at h
  exact readsSealed_header (hdr f.neg f.pq) h.1

/-- A B instruction whose only operands are its predicates reaches its body when they are legal and do not suppress it. -/
theorem issue_runs_bForm {i : Instr} {s : State} {t : Team} {f : BForm} (h : Runs i s t) (hok : bOk f t = true)
    (hsup : bSuppressed f t = false) {stl : BitVec 4} {body : State → Team → Out} :
    issue i s stl (bOk f) (bSuppressed f) body = body s (t.issued i s) := by
  have hacc : bOk f (t.unhold s.clock.ac) = true := by simpa using hok
  exact issue_runs h (bOk_legal f _ hacc) hacc (readsSealed_bSuppressed f _ hacc) (by simpa using hsup)

/-! ## The condition of BRC -/

/-- A mask is not empty exactly when one of its rows is set. -/
theorem mask_ne_zero_iff (m : RowMask) : m ≠ 0 ↔ ∃ row, row < 1024 ∧ m.getLsbD row = true := by
  rw [ne_eq, ← not_iff_not, not_not]
  constructor
  · rintro rfl
    simp
  · intro h
    refine BitVec.eq_of_getLsbD_eq fun row hrow => ?_
    simpa using fun hm => h ⟨row, hrow, hm⟩

/-- A mask is left whole by another exactly when every row of it is a row of the other. -/
theorem mask_and_eq_self_iff (m p : RowMask) : m &&& p = m ↔ ∀ row, row < 1024 → m.getLsbD row = true → p.getLsbD row = true := by
  constructor
  · intro h row _ hm
    rw [← h, BitVec.getLsbD_and, Bool.and_eq_true] at hm
    exact hm.2
  · intro h
    refine BitVec.eq_of_getLsbD_eq fun row hrow => ?_
    rw [BitVec.getLsbD_and, Bool.and_eq_left_iff_imp]
    exact h row hrow

/-- BRC transfers by a team predicate when it is true, by a row predicate when some row is active and it is true in all that are (R105). -/
theorem brcTaken_iff (t : Team) (c : Prd) : brcTaken t c = true ↔
    if c.team then (c.neg = false ∧ t.qget c.index.toNat = true) ∨ (c.neg = true ∧ t.qget c.index.toNat = false)
    else (∃ row, row < 1024 ∧ t.flow.mask.getLsbD row = true)
      ∧ ∀ row, row < 1024 → t.flow.mask.getLsbD row = true → (t.prdMask c).getLsbD row = true := by
  cases hteam : c.team with
  | true => cases hneg : c.neg <;> simp [brcTaken, hteam, hneg]
  | false =>
    rw [← mask_ne_zero_iff, ← mask_and_eq_self_iff]
    simp [brcTaken, hteam, condRows, Team.part]

/-! ## Completing a transfer -/

/-- A transfer to a slot that may be landed at goes on there (R37). -/
theorem goTo_lands {s : State} {t : Team} {p : Pc} (h : mayLand s t p) (k : Unit → Out) : goTo s t p k = k () := by
  simp only [goTo, h]

theorem RunsTo.mono {i : Instr} {s : State} {t : Team} {P Q : Team → Prop} (h : RunsTo i s t P) (hPQ : ∀ t', P t' → Q t') :
    RunsTo i s t Q := by
  obtain ⟨s', t', hexec, hfound, hteam, hdev, hp⟩ := h
  exact ⟨s', t', hexec, hfound, hteam, hdev, hPQ t' hp⟩

/-- An instruction that ends by completing at p, for a team that has kept its registers and control state, makes its team go on at p. -/
theorem runsTo_goesTo {i : Instr} {s : State} {t u : Team} {p : Pc} {stl : BitVec 4} {n : Nat}
    (h : exec i s = finishAt s (u.setPc p) stl n) (here : s.team? t.tid = some t) (hkeeps : TeamKeeps t u) (hflow : u.flow = t.flow)
    (hregs : u.regs = t.regs) : RunsTo i s t fun t' => GoesTo t t' p ∧ t'.sched.yielded = u.sched.yielded := by
  have hset : TeamKeeps t (u.setPc p) := hkeeps.trans (by constructor <;> rfl)
  refine runsTo_finish (n := 0) h hset here ⟨⟨?_, rfl, hregs, rfl⟩, rfl⟩
  show { u.flow with pc := t.flow.pc, entered := t.flow.entered } = t.flow
  rw [hflow]

/-- As runsTo_goesTo, for the next slot. -/
theorem runsTo_next {i : Instr} {s : State} {t u : Team} {stl : BitVec 4} {n : Nat}
    (h : exec i s = finish s u stl n) (here : s.team? t.tid = some t) (hkeeps : TeamKeeps t u) (hflow : u.flow = t.flow)
    (hregs : u.regs = t.regs) : RunsTo i s t fun t' => GoesTo t t' t.flow.pc.next ∧ t'.sched.yielded = u.sched.yielded := by
  rw [finish, hflow] at h
  exact runsTo_goesTo h here hkeeps hflow hregs

/-- A team whose burst has ended by YIELD (R112). -/
def yieldedTeam (t : Team) : Team := { t with sched := { t.sched with yielded := true } }
@[simp] theorem yieldedTeam_flow (t : Team) : (yieldedTeam t).flow = t.flow := rfl
@[simp] theorem yieldedTeam_regs (t : Team) : (yieldedTeam t).regs = t.regs := rfl
theorem yieldedTeam_keeps (t : Team) : TeamKeeps t (yieldedTeam t) := by constructor <;> rfl

/-! ## The instructions -/

section
variable {f : BForm} {s : State} {t : Team} (hok : bOk f t = true) (hsup : bSuppressed f t = false)
include hok hsup

/-- BRA, once issued, transfers to its target. -/
theorem exec_bra (h : Runs (.bra f) s t) : exec (.bra f) s =
    goTo s (t.issued (.bra f) s) (target f t) fun _ => finishAt s ((t.issued (.bra f) s).setPc (target f t)) f.stl 1 := calc
  exec (.bra f) s = execBra f s := rfl
  _ = _ := issue_runs_bForm h hok hsup

/-- BRC, once issued, transfers or falls through, as its condition says. -/
theorem exec_brc (h : Runs (.brc f) s t) : exec (.brc f) s =
    if brcTaken t f.cond then
      goTo s (t.issued (.brc f) s) (target f t) fun _ => finishAt s ((t.issued (.brc f) s).setPc (target f t)) f.stl 1
    else finish s (t.issued (.brc f) s) f.stl 1 := calc
  exec (.brc f) s = execBrc f s := rfl
  _ = _ := issue_runs_bForm h hok hsup

/-- NOP, once issued, completes. -/
theorem exec_nop (h : Runs (.nop f) s t) : exec (.nop f) s = finish s (t.issued (.nop f) s) f.stl 1 := calc
  exec (.nop f) s = execNop f s := rfl
  _ = _ := issue_runs_bForm h hok hsup

/-- YIELD, once issued, marks the burst's end and completes. -/
theorem exec_yield (h : Runs (.yield f) s t) : exec (.yield f) s = finish s (yieldedTeam (t.issued (.yield f) s)) f.stl 1 := calc
  exec (.yield f) s = execYield f s := rfl
  _ = _ := issue_runs_bForm h hok hsup

/-- BRA goes to its target (R105). -/
theorem bra_goesTo (h : Runs (.bra f) s t) (land : mayLand s t (target f t)) :
    RunsTo (.bra f) s t fun t' => GoesTo t t' (target f t) := by
  have hexec := (exec_bra hok hsup h).trans (goTo_lands (t := t.issued (.bra f) s) land _)
  exact (runsTo_goesTo hexec h.here (teamKeeps_issued t _ s) (by simp) (by simp)).mono fun _ hp => hp.1

/-- A BRC that is taken goes to its target (R105). -/
theorem brc_taken_goesTo (h : Runs (.brc f) s t) (taken : brcTaken t f.cond = true) (land : mayLand s t (target f t)) :
    RunsTo (.brc f) s t fun t' => GoesTo t t' (target f t) := by
  have hexec := exec_brc hok hsup h
  rw [if_pos taken, goTo_lands (t := t.issued (.brc f) s) land] at hexec
  exact (runsTo_goesTo hexec h.here (teamKeeps_issued t _ s) (by simp) (by simp)).mono fun _ hp => hp.1

/-- A BRC that is not taken falls through with every row (R105). -/
theorem brc_not_taken_next (h : Runs (.brc f) s t) (notTaken : ¬ brcTaken t f.cond = true) :
    RunsTo (.brc f) s t fun t' => GoesTo t t' t.flow.pc.next := by
  have hexec := exec_brc hok hsup h
  rw [if_neg notTaken] at hexec
  exact (runsTo_next hexec h.here (teamKeeps_issued t _ s) (by simp) (by simp)).mono fun _ hp => hp.1

/-- NOP goes on at the next slot and leaves the burst as it is (R62). -/
theorem nop_next (h : Runs (.nop f) s t) :
    RunsTo (.nop f) s t fun t' => GoesTo t t' t.flow.pc.next ∧ t'.sched.yielded = t.sched.yielded :=
  runsTo_next (u := t.issued (.nop f) s) (exec_nop hok hsup h) h.here (teamKeeps_issued t _ s) (by simp) (by simp)

/-- YIELD goes on at the next slot and ends the burst (R112). -/
theorem yield_next (h : Runs (.yield f) s t) :
    RunsTo (.yield f) s t fun t' => GoesTo t t' t.flow.pc.next ∧ t'.sched.yielded = true :=
  runsTo_next (u := yieldedTeam (t.issued (.yield f) s)) (exec_yield hok hsup h) h.here
    ((teamKeeps_issued t _ s).trans (yieldedTeam_keeps _)) (by simp) (by simp)

end

/-- Settles O18: each of the four instructions issues and completes at the slot that R62, R105 or R112 gives, BRC by its condition. -/
theorem branchesComplete : Obligations.BranchesComplete := by
  unfold Obligations.BranchesComplete
  constructor
  · intro f s t hok hsup
    refine ⟨bra_goesTo hok hsup, fun taken htaken h => ?_⟩
    have hbrc : taken ↔ brcTaken t f.cond = true := htaken.trans (brcTaken_iff t f.cond).symm
    constructor
    · exact fun ht land => brc_taken_goesTo hok hsup h (hbrc.mp ht) land
    · exact fun ht => brc_not_taken_next hok hsup h (mt hbrc.mpr ht)
  · exact fun f s t hok hsup => ⟨nop_next hok hsup, yield_next hok hsup⟩

end Sys2Proof.Machine
end

section
/-! PROOFS. BALLOT and VOTE (R153, R154): how a V form issues or faults at decode, what completing leaves of its team, the ballot word by its bits, and the four votes as conditions on the rows that participate. -/

open Sys2Proof.Claims

namespace Sys2Proof.Machine

/-! ## Issuing a V form -/

/-- The header predicate of a V form whose operands are legal is not sealed, so that it decides alone whether the instruction is suppressed. -/
theorem readsSealed_vSuppressed {u : Uses} {k : Bool} {f : VForm} {t : Team} (h : vOperandsOk u k f t = true) :
    readsSealed t (vSuppressed f) = false := by
  simp only [vOperandsOk, Bool.and_eq_true] at h
  obtain ⟨⟨⟨⟨hprd, -⟩, -⟩, -⟩, -⟩ := h
  exact readsSealed_header f.prd hprd

/-- A V instruction whose operands are legal and that is not suppressed reaches its body. -/
theorem issue_runs_vForm {i : Instr} {s : State} {t : Team} {u : Uses} {k : Bool} {f : VForm} (h : Runs i s t)
    (hok : vOperandsOk u k f t = true) (hsup : vSuppressed f t = false) {stl : BitVec 4} {body : State → Team → Out} :
    issue i s stl (vOperandsOk u k f) (vSuppressed f) body = body s (t.issued i s) := by
  have hacc : vOperandsOk u k f (t.unhold s.clock.ac) = true := by simpa using hok
  exact issue_runs h (vOperandsOk_legal u k f _ hacc) hacc (readsSealed_vSuppressed hacc) (by simpa using hsup)

/-- An instruction that the static checks reject takes fault 0x01 (R39, R40). -/
theorem issue_illFormed {i : Instr} {s : State} {t : Team} (hwf : i.wf = false) (focus : s.focus = some t.tid)
    (here : s.team? t.tid = some t) {stl : BitVec 4} {ok sup : Team → Bool} {body : State → Team → Out} :
    issue i s stl ok sup body = raiseAt s (t.unhold s.clock.ac) ⟨0x01, false, 0, t.flow.mask, none, false⟩ := by
  simp only [issue, issueWith, focus, here, Option.bind_some, hwf, Bool.not_false, if_true]
  rfl

/-- A well-formed instruction with an operand that is illegal at decode takes fault 0x02, before its predicate is looked at (R39, R40). -/
theorem issue_illegalOperand {i : Instr} {s : State} {t : Team} (h : Runs i s t) {stl : BitVec 4} {ok sup : Team → Bool}
    {body : State → Team → Out} (hbad : ok (t.unhold s.clock.ac).legal = false) :
    issue i s stl ok sup body = raiseAt s (t.unhold s.clock.ac) ⟨0x02, false, 0, t.flow.mask, none, false⟩ := by
  simp only [issue, issueWith, h.focus, h.here, Option.bind_some, h.legal, hbad, Bool.not_true, Bool.not_false,
    Bool.false_eq_true, if_false, if_true]
  rfl

/-- The static checks reject a type that the mnemonic does not allow (R136). -/
theorem checkV_isSome_of_type {sp : VSpec} {f : VForm} (h : f.ty ∉ sp.tys) : (checkV sp f).isSome = true := by
  simp [checkV, first, reject, h]

/-! ## Completing a V instruction -/

section
variable (t : Team) (p : VPlan) (srcs : List (List Nat)) (dsts : List Nat) (conflicts narrow fixed : Bool) (lat : Nat)

@[simp] theorem planOf_regs : (planOf t srcs conflicts narrow).team.regs = t.regs := (planOf_keeps t srcs conflicts narrow).1
@[simp] theorem planOf_flow : (planOf t srcs conflicts narrow).team.flow = t.flow := (planOf_keeps t srcs conflicts narrow).2.1
theorem planOf_teamKeeps : TeamKeeps t (planOf t srcs conflicts narrow).team := (planOf_keeps t srcs conflicts narrow).2.2
@[simp] theorem landed_regs : (landed t p dsts lat fixed).regs = t.regs := (landed_keeps t p dsts lat fixed).1
@[simp] theorem landed_flow : (landed t p dsts lat fixed).flow = t.flow := (landed_keeps t p dsts lat fixed).2.1
theorem landed_teamKeeps : TeamKeeps t (landed t p dsts lat fixed) := (landed_keeps t p dsts lat fixed).2.2

end

/-- A V instruction that ends for a team u, which has kept the control state of t, falls through with the registers of u. -/
theorem runsTo_vFinish {i : Instr} {s : State} {t u : Team} {stl : BitVec 4} {p : VPlan} (h : exec i s = vFinish s u stl p)
    (here : s.team? t.tid = some t) (hkeeps : TeamKeeps t u) (hflow : u.flow = t.flow) :
    RunsTo i s t fun t' => FallsThrough t t' ∧ t'.regs = u.regs := by
  have hset : TeamKeeps t (u.setPc u.flow.pc.next) := hkeeps.trans (by constructor <;> rfl)
  refine runsTo_finish (n := vDraws) h hset here ⟨⟨?_, ?_, rfl⟩, rfl⟩
  · show { u.flow with pc := t.flow.pc, entered := t.flow.entered } = t.flow
    rw [hflow]
  · show u.flow.pc.next = t.flow.pc.next
    rw [hflow]

/-! ## Registers and predicates by the register files alone -/

theorem writeCol_regs_congr {t u : Team} (h : u.regs = t.regs) (d : Nat) (rows : RowMask) (g : Nat → Elem) :
    (writeCol u d rows g).regs = (writeCol t d rows g).regs := by
  simp only [writeCol, h]
theorem qset_regs_congr {t u : Team} (h : u.regs = t.regs) (i : Nat) (b : Bool) : (u.qset i b).regs = (t.qset i b).regs := by
  unfold Team.qset
  split
  · exact h
  · simp only [h]
theorem qget_congr {t u : Team} (h : u.regs = t.regs) (i : Nat) : u.qget i = t.qget i := by
  simp only [Team.qget, h]
theorem prednum_congr {t u : Team} (h : u.regs = t.regs) (n : Nat) : u.prednum n = t.prednum n := by
  simp only [Team.prednum, Team.pmask, qget_congr h, h]
@[simp] theorem prednum_issued (t : Team) (i : Instr) (s : State) (n : Nat) : (t.issued i s).prednum n = t.prednum n :=
  prednum_congr (issued_regs t i s) n

/-- Writing one column writes its register on the rows of the mask and nothing else. -/
theorem vectorWritten_writeCol {t t' : Team} {d : Nat} {rows : RowMask} {g : Nat → Elem} (h : t'.regs = (writeCol t d rows g).regs) :
    VectorWritten t t' fun r row => if rows.getLsbD row ∧ r = d then some (g row) else none := by
  simp only [VectorWritten, h, writeCol_s, writeCol_p, writeCol_q, true_and]
  intro r
  rw [writeCol_v]
  congr 1
  funext col
  by_cases hr : d = r
  · subst hr
    rw [if_pos rfl]
    congr 1
    funext row old
    by_cases hrow : rows.getLsbD row = true <;> simp [hrow]
  · simp [hr, Ne.symm hr, mapIdx_keep]

theorem getLsbD_one_shiftLeft (i : Nat) {k : Nat} (hk : k < 7) : ((1#7) <<< i).getLsbD k = decide (k = i) := by
  rw [← BitVec.twoPow_eq, BitVec.getLsbD_twoPow, Bool.eq_iff_iff]
  simp only [Bool.and_eq_true, decide_eq_true_eq]
  omega
/-- A write of a team predicate sets that one of q0 to q6 and leaves the others; a write of q7 is discarded (R69). -/
theorem qget_qset (t : Team) (i : Nat) (b : Bool) {k : Nat} (hk : k < 7) : (t.qset i b).qget k = if k = i then b else t.qget k := by
  by_cases hi : 7 ≤ i
  · rw [if_neg (by omega), Team.qset, if_pos hi]
  · have hk' : decide (7 ≤ k) = false := by simpa using hk
    rw [Team.qset, if_neg hi]
    simp only [Team.qget, hk', Bool.false_or]
    cases b with
    | true =>
      rw [if_pos rfl, BitVec.getLsbD_or, getLsbD_one_shiftLeft i hk]
      by_cases hki : k = i <;> simp [hki]
    | false =>
      rw [if_neg Bool.false_ne_true, BitVec.getLsbD_and, BitVec.getLsbD_not, getLsbD_one_shiftLeft i hk]
      by_cases hki : k = i <;> simp [hki, hk]
@[simp] theorem qset_v (t : Team) (i : Nat) (b : Bool) : (t.qset i b).regs.v = t.regs.v := by unfold Team.qset; split <;> rfl
@[simp] theorem qset_s (t : Team) (i : Nat) (b : Bool) : (t.qset i b).regs.s = t.regs.s := by unfold Team.qset; split <;> rfl
@[simp] theorem qset_p (t : Team) (i : Nat) (b : Bool) : (t.qset i b).regs.p = t.regs.p := by unfold Team.qset; split <;> rfl
theorem qset_keeps (t : Team) (i : Nat) (b : Bool) : TeamKeeps t (t.qset i b) := by constructor <;> simp

/-! ## Masks and their rows -/

@[simp] theorem getLsbD_rowsBelow (n row : Nat) : (rowsBelow n).getLsbD row = (decide (row < 1024) && decide (row < n)) := by
  rw [rowsBelow, BitVec.getLsbD_ofNat, Nat.testBit_two_pow_sub_one]
@[simp] theorem mem_rowList {m : RowMask} {n row : Nat} : row ∈ rowList m n ↔ row < n ∧ m.getLsbD row = true := by
  simp [rowList]
/-- Two masks list the same rows when they have the same rows below the bounds, since both lists ascend. -/
theorem rowList_eq_of_mem {m m' : RowMask} {n n' : Nat} (h : ∀ row, row ∈ rowList m n ↔ row ∈ rowList m' n') :
    rowList m n = rowList m' n' :=
  List.Pairwise.eq_of_mem_iff (List.pairwise_lt_range.filter _) (List.pairwise_lt_range.filter _) h
/-- A mask cut off at n lists the rows below n. -/
theorem rowList_and_rowsBelow (m : RowMask) (n : Nat) : rowList (m &&& rowsBelow n) 1024 = rowList m n := by
  refine rowList_eq_of_mem fun row => ?_
  have hlt : m.getLsbD row = true → row < 1024 := BitVec.lt_of_getLsbD
  simp only [mem_rowList, BitVec.getLsbD_and, getLsbD_rowsBelow, Bool.and_eq_true, decide_eq_true_eq]
  tauto
theorem rowList_and (m p : RowMask) (n : Nat) : rowList (m &&& p) n = (rowList m n).filter fun row => p.getLsbD row := by
  simp [rowList, List.filter_filter, Bool.and_comm]
theorem getLsbD_maskWord (m : RowMask) (n b : Nat) : (maskWord m n).getLsbD b = (decide (b < 32) && m.getLsbD (32 * n + b)) := by
  simp [maskWord]

/-! ## BALLOT -/

theorem exec_ballot (f : VForm) (s : State) : exec (.ballot f) s = execBallot f s := rfl

@[simp] theorem ballotWord_issued (t : Team) (i : Instr) (s : State) (f : VForm) (row : Nat) :
    ballotWord (t.issued i s) f row = ballotWord t f row := by
  simp [ballotWord]

/-- Bit b of a row's ballot word tells whether row b of its mask word participates and the predicate is true in it (R153). -/
theorem getLsbD_ballotWord (t : Team) (f : VForm) (row : Nat) {b : Nat} (hb : b < 32) : (ballotWord t f row).getLsbD b
    = (decide (32 * (row / 32) + b ∈ rowsOf f t) && (t.prednum f.a.toNat).getLsbD (32 * (row / 32) + b)) := by
  have hlt : (t.part f.prd).getLsbD (32 * (row / 32) + b) = true → 32 * (row / 32) + b < 1024 := BitVec.lt_of_getLsbD
  rw [ballotWord, getLsbD_maskWord, Bool.eq_iff_iff]
  simp only [hb, rowsOf, mem_rowList, BitVec.getLsbD_and, getLsbD_rowsBelow, Bool.and_eq_true, decide_eq_true_eq]
  tauto

/-- BALLOT writes its words into column D of the participating rows and falls through. -/
theorem ballot_runs {f : VForm} {s : State} {t : Team} (h : Runs (.ballot f) s t)
    (hok : vOperandsOk ⟨.run 1, .anyPred, .unused, .unused⟩ false f t = true) (hsup : vSuppressed f t = false) :
    RunsTo (.ballot f) s t fun t' => FallsThrough t t'
      ∧ t'.regs = (writeCol t f.d.toNat (t.part f.prd) fun row => Elem.clean (ballotWord t f row)).regs := by
  have hexec := (exec_ballot f s).trans (issue_runs_vForm h hok hsup)
  refine (runsTo_vFinish hexec h.here ?_ ?_).mono fun t' ⟨hfall, hregs⟩ => ⟨hfall, ?_⟩
  · exact (teamKeeps_issued t _ s).trans <| (planOf_teamKeeps _ _ _ _).trans <| (writeCol_keeps _ _ _ _).trans (landed_teamKeeps _ _ _ _ _)
  · simp
  · rw [hregs, landed_regs, writeCol_regs_congr ((planOf_regs _ _ _ _).trans (issued_regs t _ s))]
    simp

/-! ## VOTE -/

theorem exec_vote (f : VForm) (s : State) : exec (.vote f) s = execVote f s := rfl

/-- The participating rows in which the predicate holds. -/
def rowsHolding (f : VForm) (t : Team) : List Nat := (rowsOf f t).filter fun row => (t.prednum f.a.toNat).getLsbD row

/-- The rows that VOTE counts are those that participate. -/
theorem rowList_voting (f : VForm) (t : Team) : rowList (t.part f.prd &&& rowsBelow t.foot.rows) 1024 = rowsOf f t :=
  rowList_and_rowsBelow _ _
/-- The rows that vote yes are those in which the predicate holds. -/
theorem rowList_votingYes (f : VForm) (t : Team) :
    rowList (t.part f.prd &&& rowsBelow t.foot.rows &&& t.prednum f.a.toNat) 1024 = rowsHolding f t := by
  rw [rowList_and, rowList_voting, rowsHolding]
/-- The predicate holds in as many rows as participate exactly when it holds in all of them. -/
theorem rowsHolding_length_eq_iff (f : VForm) (t : Team) : (rowsHolding f t).length = (rowsOf f t).length ↔ rowsHolding f t = rowsOf f t := by
  rw [rowsHolding, List.length_filter_eq_length_iff, List.filter_eq_self]

@[simp] theorem voteOf_issued (t : Team) (i : Instr) (s : State) (f : VForm) : voteOf (t.issued i s) f = voteOf t f := by
  simp [voteOf]

/-- What is left of a two-bit field besides 0, 1 and 2. -/
theorem toNat_eq_three {x : BitVec 2} (h0 : x.toNat ≠ 0) (h1 : x.toNat ≠ 1) (h2 : x.toNat ≠ 2) : x.toNat = 3 := by
  have := x.isLt
  omega

/-! The four modes (R154). -/

section
variable {f : VForm} (t : Team)

theorem voteOf_some (mode : f.sub.toNat = 0) : voteOf t f = true ↔ rowsHolding f t ≠ [] := by
  simp only [voteOf, mode, rowList_votingYes, decide_eq_true_eq, List.length_pos_iff]
theorem voteOf_every (mode : f.sub.toNat = 1) : voteOf t f = true ↔ rowsHolding f t = rowsOf f t := by
  simp only [voteOf, mode, rowList_votingYes, rowList_voting, beq_iff_eq, rowsHolding_length_eq_iff]
theorem voteOf_same (mode : f.sub.toNat = 2) : voteOf t f = true ↔ rowsHolding f t = [] ∨ rowsHolding f t = rowsOf f t := by
  simp only [voteOf, mode, rowList_votingYes, rowList_voting, Bool.or_eq_true, beq_iff_eq, List.length_eq_zero_iff,
    rowsHolding_length_eq_iff]
theorem voteOf_odd (mode : f.sub.toNat = 3) : voteOf t f = true ↔ (rowsHolding f t).length % 2 = 1 := by
  simp only [voteOf, mode, rowList_votingYes, beq_iff_eq]

end

/-- A VOTE whose operands are legal names a D from 8 to 15 (R154). -/
theorem vote_d_range {f : VForm} {t : Team} (h : vOperandsOk ⟨.teamPred, .anyPred, .unused, .unused⟩ false f t = true) :
    8 ≤ f.d.toNat ∧ f.d.toNat ≤ 15 := by
  simp only [vOperandsOk, useOk, prednumOk, Bool.and_eq_true, decide_eq_true_eq] at h
  omega

/-- VOTE under another TY than 0 is ill-formed (R136, R154). -/
theorem vote_wf_false {f : VForm} (h : f.ty ≠ .i32) : (Instr.vote f).wf = false := by
  have := checkV_isSome_of_type (sp := ⟨[.i32], 4, false, false, 1, false⟩) (f := f) (by simpa using h)
  simpa [Instr.wf, check] using this

/-- VOTE writes its vote to team predicate D and falls through. -/
theorem vote_runs {f : VForm} {s : State} {t : Team} (h : Runs (.vote f) s t)
    (hok : vOperandsOk ⟨.teamPred, .anyPred, .unused, .unused⟩ false f t = true) (hsup : vSuppressed f t = false) :
    RunsTo (.vote f) s t fun t' => FallsThrough t t' ∧ t'.regs = (t.qset (f.d.toNat - 8) (voteOf t f)).regs := by
  have hexec := (exec_vote f s).trans (issue_runs_vForm h hok hsup)
  refine (runsTo_vFinish hexec h.here ?_ ?_).mono fun t' ⟨hfall, hregs⟩ => ⟨hfall, ?_⟩
  · exact (teamKeeps_issued t _ s).trans <| (planOf_teamKeeps _ _ _ _).trans (qset_keeps _ _ _)
  · simp
  · rw [hregs, qset_regs_congr ((planOf_regs _ _ _ _).trans (issued_regs t _ s)), voteOf_issued]

/-! ## The statement -/

/-- Settles O6: BALLOT's column is the ballot words, VOTE's team predicate is the vote of its mode, and each of VOTE's two faults is taken at decode. -/
theorem ballotVoteComplete : Obligations.BallotVoteComplete := by
  unfold Obligations.BallotVoteComplete
  constructor
  · intro f s t h hok hsup
    refine (ballot_runs h hok hsup).mono fun t' ⟨hfall, hregs⟩ => ⟨hfall, ballotWord t f, ?_, ?_⟩
    · exact vectorWritten_writeCol hregs
    · exact fun row b _ hb => getLsbD_ballotWord t f row hb
  · intro f s t
    refine ⟨fun hty focus here => ?_, fun h _ hd => ?_, fun h hok hsup => ?_⟩
    · exact (exec_vote f s).trans <| issue_illFormed (vote_wf_false hty) focus here
    · exact (exec_vote f s).trans <| issue_illegalOperand h (Bool.eq_false_iff.mpr fun hok => hd (vote_d_range hok))
    · have hd := vote_d_range hok
      refine (vote_runs h hok hsup).mono fun t' ⟨hfall, hregs⟩ => ?_
      have hq : ∀ k, k < 7 → t'.qget k = if k = f.d.toNat - 8 then voteOf t f else t.qget k := fun k hk =>
        (qget_congr hregs k).trans (qget_qset t _ _ hk)
      refine ⟨hfall, by simp [hregs], by simp [hregs], by simp [hregs], fun k hk hne => ?_, ?_⟩
      · rw [hq k hk, if_neg (by omega)]
      · rintro holds rfl hlt
        rw [hq _ (by omega), if_pos rfl]
        split
        next mode => exact voteOf_some t mode
        next mode => exact voteOf_every t mode
        next mode => exact voteOf_same t mode
        next notSome notEvery notSame => exact voteOf_odd t (toNat_eq_three notSome notEvery notSame)

end Sys2Proof.Machine
end
